-- ==== Sys2Proof/Word.lean ====
section
/-! DEFINITION. The byte and the index types of the PHC-46. -/

namespace Sys2Proof

/-- One byte of a port frame, a scaler message or a keypad sample (R20, R91, R172). -/
abbrev Byte := BitVec 8

/-- An input IN1..IN6, counted from 0: `n` stands for IN(n+1) (R83). -/
abbrev InputIdx := Fin 6

/-- A profile P0..P3 (R123). -/
abbrev ProfileIdx := Fin 4

/-- A scene S0..S7 (R130). -/
abbrev SceneIdx := Fin 8

/-- A schedule entry E0..E23 (R142). -/
abbrev EntryIdx := Fin 24

/-- A trial slot T0, T1 (R126). -/
abbrev SlotIdx := Fin 2

/-- The byte of a number, its low eight bits. -/
abbrev byte (n : Nat) : Byte := BitVec.ofNat 8 n

end Sys2Proof
end

