-- ==== Sys2Proof/Syntax.lean ====
section
/-! DEFINITION. The commands of the block (`Instr`, one constructor for each row of spec/opcode_table.json) and the
names and payloads they carry. -/

namespace Sys2Proof

/-! ## Names of the manual -/

/-- The three control ports (R1); each speaks for the requester of its name (R6). -/
inductive Port where
  | service | campus | panel
  deriving DecidableEq, Repr

/-- The five requesters (R6); `console` is LOCAL. -/
inductive Requester where
  | service | campus | schedule | panel | console
  deriving DecidableEq, Repr

/-- The seven command classes (R7). -/
inductive CmdClass where
  | view | present | power | adjust | plan | guard | service
  deriving DecidableEq, Repr

/-- The nine notice classes (R179); `console` is LOCAL. -/
inductive NoticeClass where
  | lamp | wear | source | floor | schedule | lockout | store | scaler | console
  deriving DecidableEq, Repr

/-- The lamp level (R44). -/
inductive Level where
  | normal | eco
  deriving DecidableEq, Repr

/-- The lamp level a scene holds (R130). -/
inductive SceneLevel where
  | normal | eco | keep
  deriving DecidableEq, Repr

/-- The power a scene holds (R130). -/
inductive ScenePower where
  | on | keep
  deriving DecidableEq, Repr

/-- The aspect class of an input (R86). -/
inductive AspectClass where
  | wide10 | wide9 | std
  deriving DecidableEq, Repr

/-- The aspect override of an input (R83). -/
inductive AspectOverride where
  | wide10 | wide9 | std | auto | fill
  deriving DecidableEq, Repr

/-- The lockout kinds (R158). -/
inductive LockKind where
  | panelHold | roomClosed | serviceLock | lampLock | thermalLock
  deriving DecidableEq, Repr

/-- What a schedule entry books (R142). -/
inductive EntryKind where
  | session | exam | closed
  deriving DecidableEq, Repr

/-- The weeks of term an entry applies in (R142). -/
inductive Parity where
  | any | odd | even
  deriving DecidableEq, Repr

/-- The direction of a nudge (R110). -/
inductive Direction where
  | vUp | vDown | hUp | hDown
  deriving DecidableEq, Repr

/-- The mode of a lamp replacement (R78). -/
inductive ReplaceMode where
  | new | reinstate
  deriving DecidableEq, Repr

/-- A port's line rate (Introduction, Physical matters; log 24). -/
inductive LineRate where
  | b9600 | b38400 | b115200
  deriving DecidableEq, Repr

/-- A keystone pair (R109). -/
structure Keystone where
  v : Int
  h : Int
  deriving DecidableEq, Repr

/-- A class set, bit c for the class of code c (R8, R20). -/
abbrev ClassSet := BitVec 7

/-! ## Port commands -/

/-- The 41 command codes (R21). -/
inductive Code where
  | readStatus | readSource | readWear | readProfile | readScene | readEntry | readLockouts | readAuthority | readCounts
  | setNoticeMask
  | selectInput | recallScene | setMute | clearMute | holdFloor | releaseFloor
  | lampOn | lampOff | setLampLevel
  | setKeystone | nudgeKeystone | selectProfile | openTrial | commitTrial | discardTrial | storeScene | setSourceAspect
  | setInputEnable
  | setClock | writeEntry | eraseEntry | setGrace
  | setLockout | clearLockout | protectEntry
  | replaceLamp | writeAuthority | clearStoreFault | setRatedLife | setIrRoom | controllerReset
  deriving DecidableEq, Repr

/-- The four entries of the authority table (R8). -/
inductive AuthorityRow where
  | service | campus | panel | console
  deriving DecidableEq, Repr

/-- The fields WRITE_ENTRY carries beside the index (R143). -/
structure EntryFields where
  kind : EntryKind
  days : BitVec 7
  start : Nat
  finish : Nat
  parity : Parity
  scene : Option SceneIdx
  deriving DecidableEq, Repr

/-- A command with its payload as intake leaves it after step 7: every field in range, the adjustable ones clamped (R14, R25). -/
inductive Cmd where
  | readStatus
  | readSource (n : InputIdx)
  | readWear
  | readProfile (p : ProfileIdx)
  | readScene (k : SceneIdx)
  | readEntry (e : EntryIdx)
  | readLockouts
  | readAuthority
  | readCounts
  | setNoticeMask (mask : BitVec 9)
  | selectInput (n : InputIdx)
  | recallScene (k : SceneIdx)
  | setMute
  | clearMute
  | holdFloor
  | releaseFloor
  | lampOn
  | lampOff
  | setLampLevel (l : Level)
  | setKeystone (p : ProfileIdx) (k : Keystone)
  | nudgeKeystone (p : ProfileIdx) (d : Direction)
  | selectProfile (p : ProfileIdx)
  | openTrial (t : SlotIdx) (p : ProfileIdx)
  | commitTrial (t : SlotIdx)
  | discardTrial (t : SlotIdx)
  | storeScene (k : SceneIdx)
  | setSourceAspect (n : InputIdx) (o : AspectOverride)
  | setInputEnable (n : InputIdx) (enabled : Bool) (role : Nat)
  | setClock (minute weekday week : Nat)
  | writeEntry (e : EntryIdx) (f : EntryFields)
  | eraseEntry (e : EntryIdx)
  | setGrace (minutes : Nat)
  | setLockout (kind : LockKind) (expiry : Option Nat)
  | clearLockout (kind : LockKind)
  | protectEntry (e : EntryIdx) (flag : Bool)
  | replaceLamp (mode : ReplaceMode) (identity : Vector Byte 8)
  | writeAuthority (row : AuthorityRow) (classes : ClassSet)
  | clearStoreFault
  | setRatedLife (hours : Nat)
  | setIrRoom (room : Option Nat)
  | controllerReset
  deriving DecidableEq, Repr

/-! ## Operands of the rows that are not port commands -/

/-- One measured level of the infrared line, in counts of 100 µs; a count of 255 is an overflow (R173). -/
inductive IrElement where
  | mark (count : Nat)
  | space (count : Nat)
  deriving DecidableEq, Repr

/-- What the part finds when the supply comes up: the lines, the rate straps, and the codes of the store records whose
check value does not match their content (R65, R83, R182). -/
structure PowerOn where
  sig : Vector Bool 6
  lampSense : Bool
  thermHot : Bool
  serviceRate : LineRate
  campusRate : LineRate
  panelRate : LineRate
  spoiled : List Nat
  deriving DecidableEq, Repr

/-- The commands of the block, in the table's order. A row that a port's frame brings names the port: intake takes that
port's oldest entry, and the tag and payload are the entry's (R3, log 1). A row of a serial line, of the scaler link or of the
infrared line carries what arrived on it. The end of a timer, of a minute or of a store write names the one that ended, since
it may be taken after another has begun: `run` is the lamp timer's or the minute's, `num` the link number of the request, `write`
the write's (log 6). -/
inductive Instr where
  | frameReceive (p : Port) (bytes : List Byte)
  | frameGapTimeout (p : Port) (bytes : List Byte)
  | badFrameEntry (p : Port)
  | unknownCommand (p : Port)
  | outboundFrameSent (p : Port)
  | portReset (p : Port)
  | powerOnReset (found : PowerOn)
  | resetN
  | controllerResetBegin
  | readStatus (p : Port)
  | readSource (p : Port)
  | readWear (p : Port)
  | readProfile (p : Port)
  | readScene (p : Port)
  | readEntry (p : Port)
  | readLockouts (p : Port)
  | readAuthority (p : Port)
  | readCounts (p : Port)
  | setNoticeMask (p : Port)
  | selectInput (p : Port)
  | recallScene (p : Port)
  | setMute (p : Port)
  | clearMute (p : Port)
  | holdFloor (p : Port)
  | releaseFloor (p : Port)
  | lampOn (p : Port)
  | lampOff (p : Port)
  | setLampLevel (p : Port)
  | setKeystone (p : Port)
  | nudgeKeystone (p : Port)
  | selectProfile (p : Port)
  | openTrial (p : Port)
  | commitTrial (p : Port)
  | discardTrial (p : Port)
  | storeScene (p : Port)
  | setSourceAspect (p : Port)
  | setInputEnable (p : Port)
  | setClock (p : Port)
  | writeEntry (p : Port)
  | eraseEntry (p : Port)
  | setGrace (p : Port)
  | setLockout (p : Port)
  | clearLockout (p : Port)
  | protectEntry (p : Port)
  | replaceLamp (p : Port)
  | writeAuthority (p : Port)
  | clearStoreFault (p : Port)
  | setRatedLife (p : Port)
  | setIrRoom (p : Port)
  | controllerReset (p : Port)
  | lampSenseRise
  | dropOut
  | strikeWindowExpiry (run : Nat)
  | retryPauseEnd (run : Nat)
  | warmupEnd (run : Nat)
  | cooldownEnd (run : Nat)
  | overheat
  | thermHotDeassert
  | litSecond
  | sigRise (n : InputIdx)
  | sigFall (n : InputIdx)
  | blanked (msg : List Byte)
  | unblanked (msg : List Byte)
  | locked (msg : List Byte)
  | lockFailed (msg : List Byte)
  | applied (msg : List Byte)
  | timingChanged (msg : List Byte)
  | lockWindowExpiry (num : Nat)
  | overallLockLimitExpiry (num : Nat)
  | blankRequestTimeout (num : Nat)
  | tableTimeout (num : Nat)
  | clockMinuteTick (run : Nat)
  | uptimeTick
  | deferralExpiry
  | lockoutExpiry
  | storeWriteComplete (write : Nat)
  | storeWriteTimeout (write : Nat)
  | keypadSample (v : Byte)
  | irFrame (elements : List IrElement)
  | frameStopBitError (p : Port) (bytes : List Byte)
  | frameLenOver48 (p : Port) (bytes : List Byte) (len : Byte)
  | lineReturnsToMark (p : Port)
  | irFrameDiscard (elements : List IrElement)
  | irIdleGap
  deriving DecidableEq, Repr

end Sys2Proof
end

