-- ==== Sys2Proof/Decode.lean ====
section
/-! DEFINITION. The command a word spells. -/

namespace Sys2Proof

/-- The command that a word of `nbits` bits spells by the table's bits: none, because the opcode table gives no row any bits (log 3).
A port's bytes spell commands through the receiver and intake instead (R1, R20). -/
def decodeTableWord (_nbits _w : Nat) : Option Instr := none

end Sys2Proof
end

