-- ==== Sys2Proof/Config.lean ====
section
/-! DEFINITION. The part's fixed numbers: places, limits and durations. The manual gives every one of them; none is a free value. -/

namespace Sys2Proof.Config

/-- Entries an input buffer holds (R2). -/
def inboxPlaces : Nat := 2
/-- Frames an outbound queue holds (R4). -/
def outboundPlaces : Nat := 8
/-- Free places a notice needs in an outbound queue (R4, R179). -/
def noticePlaces : Nat := 2
/-- The largest LEN of a frame (R1, R20). -/
def maxLen : Nat := 48
/-- The top of a notice count (R181). -/
def countTop : Nat := 255
/-- Entries the store's write queue holds (R183). -/
def queuePlaces : Nat := 8
/-- MANUAL records the lockout set holds (R159). -/
def manualPlaces : Nat := 5

/-- The strike window, in seconds (R41). -/
def strikeSeconds : Nat := 2
/-- The retry pause, in seconds (R41). -/
def retrySeconds : Nat := 20
/-- The warm-up, in seconds (R41). -/
def warmupSeconds : Nat := 40
/-- A cooldown not caused by overheat, in seconds (R52). -/
def coolSeconds : Nat := 90
/-- A cooldown caused by overheat, in seconds (R52, R59). -/
def hotSeconds : Nat := 180
/-- Strikes one ignition makes at most (R49). -/
def maxAttempts : Nat := 3

/-- WU charged for a strike (R69). -/
def strikeCharge : Nat := 24
/-- WU charged for a lit minute at NORMAL (R68). -/
def normalCharge : Nat := 16
/-- WU charged for a lit minute at ECO (R68). -/
def ecoCharge : Nat := 10
/-- WU in an hour at NORMAL (R70). -/
def hourNormal : Nat := 960
/-- WU in an hour at ECO (R75). -/
def hourEco : Nat := 600
/-- Lit minutes from one checkpoint to the next (R68). -/
def checkpointMinutes : Nat := 15
/-- The top of a 32-bit count (R66, R141). -/
def top32 : Nat := 4294967295
/-- The top of a 16-bit count (R66). -/
def top16 : Nat := 65535
/-- The top of an 8-bit count (R66). -/
def top8 : Nat := 255

/-- The factory rated life, in hours (R182). -/
def factoryRatedLife : Nat := 3000
/-- The factory grace setting, in minutes (R152). -/
def factoryGrace : Nat := 10
/-- The age at which a grace deferral ends, in minutes (R154). -/
def deferralCap : Nat := 45

/-- The window of a quick lock attempt, in ms (R96). -/
def quickWindow : Nat := 400
/-- The window of a full lock attempt, in ms (R96). -/
def fullWindow : Nat := 3000

/-- The last column of the output raster (R111). -/
def lastColumn : Int := 1919
/-- The last row of the output raster (R111). -/
def lastRow : Int := 1199
/-- The raster's width in columns (R114). -/
def rasterWidth : Int := 1920

end Sys2Proof.Config
end

