-- ==== Sys2Proof/Machine/State.lean ====
section
/-! DEFINITION. The state of the PHC-46, block by block, as plain data; the reasons a step can stop; the state after reset. -/

namespace Sys2Proof.Machine

/-! ## Ports -/

/-- A frame on a port: a command received, a response or a notice to send (R20). -/
structure Frame where
  tag : Byte
  code : Byte
  payload : List Byte
  deriving DecidableEq, Repr

/-- An entry of an input buffer: a complete frame, or a BAD_FRAME entry with the tag received (R1). -/
inductive InEntry where
  | frame (f : Frame)
  | bad (tag : Byte)
  deriving DecidableEq, Repr

/-- A port's receiver: hunting for SOF, collecting (with the bytes taken after SOF, in order), or held in the break that
reset the port (R1, R5). -/
inductive Receiver where
  | hunting
  | collecting (got : List Byte)
  | breakHeld
  deriving DecidableEq, Repr

/-- One port block (R1, R2, R4, R180, R181). -/
structure PortBlock where
  rx : Receiver
  inbox : List InEntry
  outq : List Frame
  mask : BitVec 9
  counts : Vector Nat 9
  overrun : Bool
  rate : LineRate
  deriving DecidableEq, Repr

/-- The three port blocks. -/
structure Ports where
  service : PortBlock
  campus : PortBlock
  panel : PortBlock
  deriving DecidableEq, Repr

/-- A notice: its class, kind, subject, result and extra (R23). -/
structure Notice where
  cls : NoticeClass
  kind : Nat
  subject : Nat
  result : Nat
  extra : Nat
  deriving DecidableEq, Repr

/-! ## Intake and floor -/

/-- The authority table (R8); SCHEDULE's authority is fixed (R6). -/
structure AuthTable where
  service : ClassSet
  campus : ClassSet
  panel : ClassSet
  console : ClassSet
  deriving DecidableEq, Repr

/-- How far the wear slot write that something waits for has come: over (or none awaited), still to begin, or begun (R19, R80). -/
inductive SlotWait where
  | settled | toBegin | toEnd
  deriving DecidableEq, Repr

/-- The presentation floor (R25). -/
structure Floor where
  holder : Option Requester
  hold : Bool
  elect : Option (Requester × Cmd)
  marker : Bool
  deriving DecidableEq, Repr

/-! ## Lamp and wear -/

/-- The seven lamp states (R41). -/
inductive LampState where
  | off | striking | retryPause | warmup | lit | cooldown | fault
  deriving DecidableEq, Repr

/-- Who a pending-on is recorded for: a requester, or the lamp itself (R46). -/
inductive LampAsker where
  | requester (r : Requester)
  | lamp
  deriving DecidableEq, Repr

/-- The lamp controller (R41, R44, R45, R46). `timer` is the running timer's full time in seconds, and `run`,
the model's own, the number of the timer's runs so far (log 6). -/
structure Lamp where
  state : LampState
  timer : Option Nat
  level : Level
  attempts : Nat
  pendingOn : Option LampAsker
  heldOff : Bool
  heldLevel : Option Level
  restrikeUsed : Bool
  faultPending : Bool
  startUp : Bool
  run : Nat
  deriving DecidableEq, Repr

/-- The two input lines the lamp controller reads (Introduction; R48, R59). -/
structure Lines where
  lampSense : Bool
  thermHot : Bool
  deriving DecidableEq, Repr

/-- The bands of the wear ratio (R71). -/
inductive WearBand where
  | good | warn | endOfLife | expired
  deriving DecidableEq, Repr

/-- The wear record (R66). -/
structure WearRecord where
  wu : Nat
  lit : Nat
  realMinutes : Nat
  strikes : Nat
  dropOuts : Nat
  uncleanOffs : Nat
  replacements : Nat
  reinstatements : Nat
  identity : Option (Vector Byte 8)
  litMarker : Bool
  defaulted : Bool
  deriving DecidableEq, Repr

/-- The wear counter (R66, R67). `replacement` is other than settled while a replacement is pending (R80). -/
structure Wear where
  record : WearRecord
  running : Bool
  sinceCheckpoint : Nat
  band : WearBand
  warnReported : Bool
  replacement : SlotWait
  ratedLife : Nat
  deriving DecidableEq, Repr

/-! ## Sources, switch engine, geometry -/

/-- A timing: width, height, refresh in 0.01 Hz (R83). -/
structure Timing where
  width : Nat
  height : Nat
  refresh : Nat
  deriving DecidableEq, Repr

/-- The stored part of a source record (R83). -/
structure SourceSettings where
  enabled : Bool
  role : Nat
  aspect : AspectOverride
  deriving DecidableEq, Repr

/-- A source record (R83). Its quick lock is valid exactly when a timing is remembered (R87). -/
structure Source where
  settings : SourceSettings
  present : Bool
  timing : Option Timing
  remembered : Option Timing
  deriving DecidableEq, Repr

/-- The engine states (R90). -/
inductive EngineState where
  | idle | muting | routing | locking | applying | unmuting
  deriving DecidableEq, Repr

/-- The kinds of a switch (R90). -/
inductive SwitchKind where
  | select | powerUp | relock | apply
  deriving DecidableEq, Repr

/-- The modes of a lock attempt (R96). -/
inductive LockMode where
  | full | quick
  deriving DecidableEq, Repr

/-- An in-flight switch (R90): `window` is the running lock window in ms, `limit` is
the running overall limit, by the link number of the LOCK it began with (R96, log 6). -/
structure Switch where
  kind : SwitchKind
  target : InputIdx
  requester : Option Requester
  lockMode : Option LockMode
  window : Option Nat
  limit : Option Nat
  deriving DecidableEq, Repr

/-- The pending target: an input with the requester that asked for it (R90). -/
structure PendingTarget where
  input : InputIdx
  requester : Requester
  deriving DecidableEq, Repr

/-- The blank record (R90). -/
inductive BlankRecord where
  | blanked | unblanked | unknown
  deriving DecidableEq, Repr

/-- The two kinds of blank request (R91). -/
inductive BlankKind where
  | blank | unblank
  deriving DecidableEq, Repr

/-- An outstanding blank request with its link number (R91, log 25). -/
structure BlankRequest where
  kind : BlankKind
  num : Nat
  deriving DecidableEq, Repr

/-- An outstanding LOCK request: its link number, mode and the timing it offers (R91, R96). -/
structure LockRequest where
  num : Nat
  mode : LockMode
  timing : Option Timing
  deriving DecidableEq, Repr

/-- The switch engine and the link (R90, R91, R92). `switchCond` is the second condition of R92; `compHeld` is the blank
composition as the blank control last saw it, since the control acts on changes; `powerUpOwed` is a power-up reported by the
lamp controller that the engine takes when the action in progress is over (R135, log 32). -/
structure Engine where
  state : EngineState
  inFlight : Option Switch
  pendingTarget : Option PendingTarget
  owedRelock : Bool
  selected : InputIdx
  routed : InputIdx
  userMute : Bool
  blank : BlankRecord
  blankReq : Option BlankRequest
  lockReq : Option LockRequest
  powered : Bool
  linkNext : Nat
  switchCond : Bool
  compHeld : Bool
  powerUpOwed : Bool
  deriving DecidableEq, Repr

/-- A band record: start point P0 and end point P1, in output pixels (R24, R113). -/
structure Band where
  b : Nat
  x0 : Int
  y0 : Int
  x1 : Int
  y1 : Int
  deriving DecidableEq, Repr

/-- A band table: the aspect class used and the sixteen records in order (R106, R113). -/
structure BandTable where
  aspect : AspectClass
  bands : List Band
  deriving DecidableEq, Repr

/-- The table in transfer with its link number and its sequence number (R106, R118). -/
structure Transfer where
  num : Nat
  seq : Nat
  table : BandTable
  deriving DecidableEq, Repr

/-- The geometry unit (R106). -/
structure Geometry where
  last : BandTable
  inTransfer : Option Transfer
  pendingTable : Option BandTable
  scalerTable : Option BandTable
  nextSeq : Nat
  deriving DecidableEq, Repr

/-! ## Profiles and scenes -/

/-- An enabled trial slot: its target and content (R126). -/
structure Trial where
  target : ProfileIdx
  pair : Keystone
  deriving DecidableEq, Repr

/-- The profile tables: working copies, active index, trial slots (R123, R126). -/
structure Profiles where
  stored : Vector Keystone 4
  active : ProfileIdx
  slots : Vector (Option Trial) 2
  deriving DecidableEq, Repr

/-- A scene (R130). -/
structure Scene where
  input : InputIdx
  profile : ProfileIdx
  mute : Bool
  level : SceneLevel
  power : ScenePower
  deriving DecidableEq, Repr

/-- The recall in flight (R132). -/
structure Recall where
  scene : SceneIdx
  requester : Requester
  input : InputIdx
  deriving DecidableEq, Repr

/-! ## Clock and schedule -/

/-- The room clock (R138). `run` is the model's own: the number of the minute that runs (log 6). -/
structure Clock where
  isSet : Bool
  minute : Nat
  weekday : Nat
  week : Nat
  run : Nat
  deriving DecidableEq, Repr

/-- A schedule entry (R142). -/
structure Entry where
  inUse : Bool
  kind : EntryKind
  days : BitVec 7
  start : Nat
  finish : Nat
  parity : Parity
  scene : Option SceneIdx
  isProtected : Bool
  deriving DecidableEq, Repr

/-- What the schedule unit remembers of the effective entry (R146). -/
structure Effective where
  index : EntryIdx
  kind : EntryKind
  scene : Option SceneIdx
  deriving DecidableEq, Repr

/-- The deferral record (R153). `due` says that the last uptime tick found a count at its limit (R154, log 9). -/
structure Deferral where
  entryLeft : EntryIdx
  start : Nat
  quietFrom : Nat
  due : Bool
  deriving DecidableEq, Repr

/-- The schedule unit (R142, R146, R152, R153). -/
structure Schedule where
  entries : Vector Entry 24
  remembered : Option Effective
  deferral : Option Deferral
  grace : Nat
  deriving DecidableEq, Repr

/-! ## Lockouts -/

/-- Where a lockout record came from (R158). -/
inductive Origin where
  | manual (r : Requester)
  | schedule (e : EntryIdx)
  | lamp
  | thermal
  deriving DecidableEq, Repr

/-- Why the lamp is locked (R158). -/
inductive LockReason where
  | ignition | expired
  deriving DecidableEq, Repr

/-- A lockout record (R158). -/
structure Lockout where
  kind : LockKind
  origin : Origin
  reason : Option LockReason
  setAt : Nat
  expiry : Option Nat
  deriving DecidableEq, Repr

/-! ## Local console -/

/-- The three panel keys (R172). -/
inductive PanelKey where
  | power | source | mute
  deriving DecidableEq, Repr

/-- The debounce state (R172). -/
inductive Debounce where
  | released
  | candidate (k : PanelKey)
  | pressed (k : Option PanelKey)
  | releaseSeen (k : Option PanelKey)
  deriving DecidableEq, Repr

/-- The kinds of infrared frame (R173). -/
inductive IrKind where
  | data | again
  deriving DecidableEq, Repr

/-- The infrared decoder between two levels: what the next level must be, with the bits received so far, oldest first (R173). -/
inductive IrDecoder where
  | idle
  | leaderSpace
  | bitMark (bits : List Bool)
  | bitSpace (bits : List Bool)
  | closingMark (kind : IrKind) (bits : List Bool)
  | idleGap (kind : IrKind) (bits : List Bool)
  | discard
  deriving DecidableEq, Repr

/-- The local console decoder (R172, R173, R175); room `none` is "any". -/
structure Console where
  keypad : Debounce
  ir : IrDecoder
  room : Option Nat
  deriving DecidableEq, Repr

/-! ## Settings store -/

/-- The store records (R182). -/
inductive RecordId where
  | authority
  | wear
  | profile (p : ProfileIdx)
  | scene (k : SceneIdx)
  | entry (e : EntryIdx)
  | source (n : InputIdx)
  | lockout
  | config
  deriving DecidableEq, Repr

/-- The CONFIG record (R182). -/
structure ConfigImage where
  ratedLife : Nat
  grace : Nat
  room : Option Nat
  deriving DecidableEq, Repr

/-- A persistent lockout record as the LOCKOUT image holds it, without set-at (R168). -/
structure LockImage where
  kind : LockKind
  origin : Origin
  reason : Option LockReason
  expiry : Option Nat
  deriving DecidableEq, Repr

/-- The image of a record (R182). -/
inductive Image where
  | authority (t : AuthTable)
  | wear (r : WearRecord)
  | profile (p : ProfileIdx) (k : Keystone)
  | scene (k : SceneIdx) (c : Scene)
  | entry (e : EntryIdx) (c : Entry)
  | source (n : InputIdx) (c : SourceSettings)
  | lockout (l : List LockImage)
  | config (c : ConfigImage)
  deriving DecidableEq, Repr

/-- The store's working state (R183). `writes` is the model's own: the writes begun so far, the number of the last one (log 6). -/
structure Store where
  inFlight : Option Image
  slot : Option WearRecord
  retry : Option RecordId
  queue : List RecordId
  repair : List RecordId
  fault : Bool
  writes : Nat
  deriving DecidableEq, Repr

/-- The nonvolatile records (R182). `bad` lists the records whose check value does not match their content. -/
structure Memory where
  authority : AuthTable
  wear : WearRecord
  profiles : Vector Keystone 4
  scenes : Vector Scene 8
  entries : Vector Entry 24
  sources : Vector SourceSettings 6
  lockouts : List LockImage
  config : ConfigImage
  bad : List RecordId
  deriving DecidableEq, Repr

/-! ## The machine -/

/-- The state of the PHC-46. `raised` and `pending` are the model's own: the notices of the action in progress not yet
offered (empty between steps, log 32), and the commands waiting outside, first in, first out (log 3). -/
structure State where
  ports : Ports
  authority : AuthTable
  resetWait : Option SlotWait
  floor : Floor
  lamp : Lamp
  lines : Lines
  wear : Wear
  sources : Vector Source 6
  engine : Engine
  geo : Geometry
  profiles : Profiles
  scenes : Vector Scene 8
  recallNow : Option Recall
  clock : Clock
  uptime : Nat
  schedule : Schedule
  lockouts : List Lockout
  saveOwed : Bool
  console : Console
  store : Store
  memory : Memory
  raised : List Notice
  pending : List Instr
  deriving DecidableEq, Repr

/-- The block has no fault: nothing the manual describes stops it, so no command raises one. -/
inductive Fault
  deriving DecidableEq, Repr

/-- Why a command has no meaning. -/
inductive Refusal where
  /-- Raised by `exec` for a row that has no meaning yet; safe. No row is refused at present. -/
  | notModelled (mnemonic : String)
  deriving DecidableEq, Repr

/-! ## After reset -/

/-- The factory authority table (R8). -/
def AuthTable.factory : AuthTable :=
  { service := 0b1111111#7, campus := 0b0110111#7, panel := 0b0001111#7, console := 0b0000110#7 }

/-- The factory wear record (R182): all zero, the defaulted flag set. -/
def WearRecord.factory : WearRecord :=
  { wu := 0, lit := 0, realMinutes := 0, strikes := 0, dropOuts := 0, uncleanOffs := 0, replacements := 0,
    reinstatements := 0, identity := none, litMarker := false, defaulted := true }

/-- The factory profile: no correction (R123). -/
def zeroPair : Keystone := { v := 0, h := 0 }

/-- The factory value of scene k (R130). -/
def Scene.factory (k : SceneIdx) : Scene :=
  { input := if h : k.val < 6 then ⟨k.val, h⟩ else 0, profile := 0, mute := false, level := .keep, power := .keep }

/-- The eight factory scenes. -/
def Scene.factoryAll : Vector Scene 8 :=
  #v[Scene.factory 0, Scene.factory 1, Scene.factory 2, Scene.factory 3, Scene.factory 4, Scene.factory 5, Scene.factory 6,
    Scene.factory 7]

/-- The factory schedule entry (R142). -/
def Entry.factory : Entry :=
  { inUse := false, kind := .session, days := 0, start := 0, finish := 1, parity := .any, scene := some 0,
    isProtected := false }

/-- The factory source settings (R83). -/
def SourceSettings.factory : SourceSettings := { enabled := true, role := 0, aspect := .auto }

/-- The factory CONFIG record (R182). -/
def ConfigImage.factory : ConfigImage :=
  { ratedLife := Config.factoryRatedLife, grace := Config.factoryGrace, room := some 0 }

/-- The store of a part whose 46 records hold valid factory values (DESIGN CHOICE, log 4). -/
def Memory.factory : Memory :=
  { authority := .factory, wear := .factory, profiles := Vector.replicate 4 zeroPair, scenes := Scene.factoryAll,
    entries := Vector.replicate 24 .factory, sources := Vector.replicate 6 .factory, lockouts := [], config := .factory,
    bad := [] }

/-- A LAMP STATE notice frame for OFF with attempt count 0, the one notice of a start with nothing to report (R23, R65). -/
def Frame.startNotice : Frame := { tag := 0, code := 0xC0, payload := [1, 0, 0, 0] }

/-- A port right after a power-on reset that leaves the lamp OFF (R2, R4, R5, R65, R180, R181). -/
def PortBlock.reset : PortBlock :=
  { rx := .hunting, inbox := [], outq := [.startNotice], mask := 0x1FF#9, counts := Vector.replicate 9 0, overrun := false,
    rate := .b9600 }

/-- The lamp controller in the start state OFF (R46, R65). -/
def Lamp.reset : Lamp :=
  { state := .off, timer := none, level := .normal, attempts := 0, pendingOn := none, heldOff := false, heldLevel := none,
    restrikeUsed := false, faultPending := false, startUp := false, run := 0 }

/-- The switch engine after a reset that finds the factory scene 0 (R90). -/
def Engine.reset : Engine :=
  { state := .idle, inFlight := none, pendingTarget := none, owedRelock := false, selected := 0, routed := 0,
    userMute := false, blank := .blanked, blankReq := none, lockReq := none, powered := false, linkNext := 1,
    switchCond := false, compHeld := true, powerUpOwed := false }

/-- The rows y of the sixteen bands with no keystone and class WIDE10 (R113): round(1199 × (64 b + 32) / 1024). -/
def BandTable.flatRows : List Int :=
  [37, 112, 187, 262, 337, 412, 487, 562, 637, 712, 787, 862, 937, 1012, 1087, 1162]

/-- The band table with no keystone and class WIDE10 (R117). -/
def BandTable.flat : BandTable :=
  { aspect := .wide10,
    bands := BandTable.flatRows.zipIdx.map fun (y, b) => { b := b, x0 := 0, y0 := y, x1 := 1919, y1 := y } }

/-- The PHC-46 right after a power-on reset, with a store of valid factory records and every line low (log 4, log 5). -/
def State.reset : State :=
  { ports := { service := .reset, campus := .reset, panel := .reset },
    authority := .factory,
    resetWait := none,
    floor := { holder := none, hold := false, elect := none, marker := false },
    lamp := .reset,
    lines := { lampSense := false, thermHot := false },
    wear := { record := .factory, running := false, sinceCheckpoint := 0, band := .good, warnReported := false,
              replacement := .settled, ratedLife := Config.factoryRatedLife },
    sources := Vector.replicate 6 { settings := .factory, present := false, timing := none, remembered := none },
    engine := .reset,
    geo := { last := .flat, inTransfer := none, pendingTable := none, scalerTable := none, nextSeq := 0 },
    profiles := { stored := Vector.replicate 4 zeroPair, active := 0, slots := Vector.replicate 2 none },
    scenes := Scene.factoryAll,
    recallNow := none,
    clock := { isSet := false, minute := 0, weekday := 0, week := 0, run := 0 },
    uptime := 0,
    schedule := { entries := Vector.replicate 24 .factory, remembered := none, deferral := none,
                  grace := Config.factoryGrace },
    lockouts := [],
    saveOwed := false,
    console := { keypad := .pressed none, ir := .discard, room := some 0 },
    store := { inFlight := none, slot := none, retry := none, queue := [], repair := [], fault := false, writes := 0 },
    memory := .factory,
    raised := [],
    pending := [] }

end Sys2Proof.Machine
end

