-- ==== Sys2Proof/Machine/Ops.lean ====
section
/-! DEFINITION. Shared operations: the one way each block's part of the state is replaced, byte layouts (R20), ports (R1 to R5),
responses and notices (R4, R18, R179). -/

namespace Sys2Proof.Machine

/-! ## Replacing one block of the state -/

/-- s with its `ports` replaced. -/
def State.setPorts (s : State) (x : Ports) : State := { s with ports := x }

/-- s with its `authority` replaced. -/
def State.setAuthority (s : State) (x : AuthTable) : State := { s with authority := x }

/-- s with its `resetWait` replaced. -/
def State.setResetWait (s : State) (x : Option SlotWait) : State := { s with resetWait := x }

/-- s with its `floor` replaced. -/
def State.setFloor (s : State) (x : Floor) : State := { s with floor := x }

/-- s with its `lamp` replaced. -/
def State.setLamp (s : State) (x : Lamp) : State := { s with lamp := x }

/-- s with its `lines` replaced. -/
def State.setLines (s : State) (x : Lines) : State := { s with lines := x }

/-- s with its `wear` replaced. -/
def State.setWear (s : State) (x : Wear) : State := { s with wear := x }

/-- s with its `sources` replaced. -/
def State.setSources (s : State) (x : Vector Source 6) : State := { s with sources := x }

/-- s with its `engine` replaced. -/
def State.setEngine (s : State) (x : Engine) : State := { s with engine := x }

/-- s with its `geo` replaced. -/
def State.setGeo (s : State) (x : Geometry) : State := { s with geo := x }

/-- s with its `profiles` replaced. -/
def State.setProfiles (s : State) (x : Profiles) : State := { s with profiles := x }

/-- s with its `scenes` replaced. -/
def State.setScenes (s : State) (x : Vector Scene 8) : State := { s with scenes := x }

/-- s with its `recallNow` replaced. -/
def State.setRecallNow (s : State) (x : Option Recall) : State := { s with recallNow := x }

/-- s with its `clock` replaced. -/
def State.setClock (s : State) (x : Clock) : State := { s with clock := x }

/-- s with its `uptime` replaced. -/
def State.setUptime (s : State) (x : Nat) : State := { s with uptime := x }

/-- s with its `schedule` replaced. -/
def State.setSchedule (s : State) (x : Schedule) : State := { s with schedule := x }

/-- s with its `lockouts` replaced. -/
def State.setLockouts (s : State) (x : List Lockout) : State := { s with lockouts := x }

/-- s with its `saveOwed` replaced. -/
def State.setSaveOwed (s : State) (x : Bool) : State := { s with saveOwed := x }

/-- s with its `console` replaced. -/
def State.setConsole (s : State) (x : Console) : State := { s with console := x }

/-- s with its `store` replaced. -/
def State.setStore (s : State) (x : Store) : State := { s with store := x }

/-- s with its `memory` replaced. -/
def State.setMemory (s : State) (x : Memory) : State := { s with memory := x }

/-- s with its `raised` replaced. -/
def State.setRaised (s : State) (x : List Notice) : State := { s with raised := x }

/-- s with its `pending` replaced. -/
def State.setPending (s : State) (x : List Instr) : State := { s with pending := x }


/-! ## Bytes (R20) -/

/-- A two-byte number, high byte first (R20). -/
def bytes16 (n : Nat) : List Byte := [byte (n / 256), byte n]

/-- A four-byte number, high byte first (R20). -/
def bytes32 (n : Nat) : List Byte := [byte (n / 16777216), byte (n / 65536), byte (n / 256), byte n]

/-- A flag as a byte. -/
def flagByte (b : Bool) : Byte := if b then 1 else 0

/-- The sum of bytes modulo 256 (R1, R91). -/
def sum8 (l : List Byte) : Byte := l.foldl (· + ·) 0

/-- The check byte that makes the sum with `l` zero modulo 256 (R20, R91). -/
def checkByte (l : List Byte) : Byte := -(sum8 l)

/-- Byte i of a payload as a number. -/
def byteAt (l : List Byte) (i : Nat) : Nat := (l.getD i 0).toNat

/-- The two-byte number at offset i, high byte first (R20). -/
def wordAt (l : List Byte) (i : Nat) : Nat := 256 * byteAt l i + byteAt l (i + 1)

/-- An addition that stops at a top value (Introduction, Saturation). -/
def satAdd (top a b : Nat) : Nat := min top (a + b)

/-- A frame's bytes on the line, SOF to CHECK (R20). -/
def Frame.wire (f : Frame) : List Byte :=
  let body := f.tag :: f.code :: byte f.payload.length :: f.payload
  0xC3 :: body ++ [checkByte body]

/-! ## Ports and requesters -/

/-- The requester a port speaks for (R6). -/
def portRequester : Port → Requester
  | .service => .service
  | .campus => .campus
  | .panel => .panel

/-- A requester's rank (R6); a lower number is stronger. -/
def rank : Requester → Nat
  | .service => 1
  | .campus => 2
  | .schedule => 3
  | .panel => 4
  | .console => 5

/-- The first requester is stronger than the second (R6). -/
def stronger (a b : Requester) : Bool := rank a < rank b

/-- A port block. -/
def Ports.get (ps : Ports) : Port → PortBlock
  | .service => ps.service
  | .campus => ps.campus
  | .panel => ps.panel

/-- The ports with one block replaced. -/
def Ports.put (ps : Ports) (p : Port) (b : PortBlock) : Ports :=
  match p with
  | .service => { ps with service := b }
  | .campus => { ps with campus := b }
  | .panel => { ps with panel := b }

/-- Every port block changed by `f`. -/
def Ports.each (ps : Ports) (f : PortBlock → PortBlock) : Ports :=
  { service := f ps.service, campus := f ps.campus, panel := f ps.panel }

/-- A port block of the state. -/
def State.port (s : State) (p : Port) : PortBlock := s.ports.get p

/-- s with one port block replaced. -/
def State.setPort (s : State) (p : Port) (b : PortBlock) : State := s.setPorts (s.ports.put p b)

/-! ## Reception (R1, R2) -/

/-- An entry completed by the receiver: it enters the input buffer, or is dropped with OVERRUN set when two are held (R2). -/
def PortBlock.place (b : PortBlock) (e : InEntry) : PortBlock :=
  if b.inbox.length < Config.inboxPlaces then { b with inbox := b.inbox ++ [e] } else { b with overrun := true }

/-- The entry that a whole frame's bytes after SOF make: the frame, or BAD_FRAME when the sum is not 0 modulo 256 (R1). -/
def entryOf (got : List Byte) : InEntry :=
  if sum8 got = 0 then
    .frame { tag := got.getD 0 0, code := got.getD 1 0, payload := (got.drop 3).dropLast }
  else .bad (got.getD 0 0)

/-- The receiver takes one good byte (R1): its next state, and the entry completed if one is. -/
def Receiver.take (rx : Receiver) (x : Byte) : Receiver × Option InEntry :=
  match rx with
  | .hunting => (if x = 0xC3 then .collecting [] else .hunting, none)
  | .collecting got =>
    let all := got ++ [x]
    if all.length = 3 ∧ Config.maxLen < x.toNat then (.hunting, some (.bad (all.getD 0 0)))
    else if 4 ≤ all.length ∧ all.length = byteAt all 2 + 4 then (.hunting, some (entryOf all))
    else (.collecting all, none)
  | .breakHeld => (.breakHeld, none)

/-- A port takes one good byte (R1, R2). -/
def PortBlock.takeByte (b : PortBlock) (x : Byte) : PortBlock :=
  match b.rx.take x with
  | (rx, none) => { b with rx := rx }
  | (rx, some e) => PortBlock.place { b with rx := rx } e

/-- A port takes good bytes in turn (R1). -/
def PortBlock.takeBytes (b : PortBlock) (l : List Byte) : PortBlock := l.foldl PortBlock.takeByte b

/-- The frame being collected is abandoned: a BAD_FRAME entry if its tag was received, and back to hunting (R1). -/
def PortBlock.abandon (b : PortBlock) : PortBlock :=
  match b.rx with
  | .collecting [] => { b with rx := .hunting }
  | .collecting (tag :: _) => PortBlock.place { b with rx := .hunting } (.bad tag)
  | .hunting => b
  | .breakHeld => b

/-! ## Outcomes and responses (R17, R18, R20) -/

/-- The outcomes of a command (R10, R17). -/
inductive Verdict where
  | done | started | joined | waiting
  | badFrame | unknownCommand | badLength | noAuthority | lockedOut | badValue | wrongState | floorHeld | floorBusy
  | storeFault | storeBusy | setFull
  deriving DecidableEq, Repr

/-- The code of an outcome (R20). -/
def Verdict.code : Verdict → Nat
  | .done => 0x80
  | .started => 0x81
  | .joined => 0x82
  | .waiting => 0x83
  | .badFrame => 0x90
  | .unknownCommand => 0x91
  | .badLength => 0x92
  | .noAuthority => 0x93
  | .lockedOut => 0x94
  | .badValue => 0x95
  | .wrongState => 0x96
  | .floorHeld => 0x97
  | .floorBusy => 0x98
  | .storeFault => 0x99
  | .storeBusy => 0x9A
  | .setFull => 0x9B

/-- Whether an outcome is an acceptance (R17). -/
def Verdict.accepted : Verdict → Bool
  | .done | .started | .joined | .waiting => true
  | _ => false

/-- What a response carries beside its tag: the outcome, whether a value was clamped, and data (R17, R18, R22). -/
structure Reply where
  verdict : Verdict
  clamped : Bool := false
  data : List Byte := []
  deriving DecidableEq, Repr

/-- The modifier set of a response placed now: CLAMPED, ATTENTION, OVERRUN (R18). -/
def PortBlock.modifiers (b : PortBlock) (clamped : Bool) : Byte :=
  flagByte clamped + (if b.counts.toList.any (· ≠ 0) then 2 else 0) + (if b.overrun then 4 else 0)

/-- The response frame to a command of tag `tag` and code `code`, as this port would place it now (R18, R20). -/
def PortBlock.responseFrame (b : PortBlock) (tag code : Byte) (r : Reply) : Frame :=
  { tag := tag, code := byte r.verdict.code, payload := b.modifiers r.clamped :: code :: r.data }

/-- The response is placed at the tail of the outbound queue, which clears OVERRUN (R2, R4, R18). -/
def PortBlock.respond (b : PortBlock) (tag code : Byte) (r : Reply) : PortBlock :=
  { b with outq := b.outq ++ [b.responseFrame tag code r], overrun := false }

/-- Port p places a response. -/
def State.respond (s : State) (p : Port) (tag code : Byte) (r : Reply) : State :=
  s.setPort p ((s.port p).respond tag code r)

/-- Intake can take an entry of port p only when the outbound queue has a free place (R3). -/
def PortBlock.hasPlace (b : PortBlock) : Bool := b.outq.length < Config.outboundPlaces

/-! ## Notices (R23, R179) -/

/-- The code of a notice class (R20). -/
def classIndex : NoticeClass → Fin 9
  | .lamp => 0
  | .wear => 1
  | .source => 2
  | .floor => 3
  | .schedule => 4
  | .lockout => 5
  | .store => 6
  | .scaler => 7
  | .console => 8

/-- A notice's frame (R23). -/
def Notice.frame (n : Notice) : Frame :=
  { tag := 0, code := byte (0xC0 + (classIndex n.cls).val),
    payload := [byte n.kind, byte n.subject, byte n.result, byte n.extra] }

/-- A port is offered a notice: a frame when the mask says SEND and two places are free, else one more on its count (R179). -/
def PortBlock.offer (b : PortBlock) (n : Notice) : PortBlock :=
  if b.mask.getLsbD (classIndex n.cls).val ∧ b.outq.length + Config.noticePlaces ≤ Config.outboundPlaces then
    { b with outq := b.outq ++ [n.frame] }
  else
    { b with counts := b.counts.set (classIndex n.cls) (satAdd Config.countTop b.counts[classIndex n.cls] 1) }

/-- Every port is offered a list of notices in order (R179). -/
def Ports.offerAll (ps : Ports) (l : List Notice) : Ports :=
  ps.each fun b => l.foldl PortBlock.offer b

/-- The action in progress raises a notice; it is offered when the action is over and its response placed (R4). -/
def State.notify (s : State) (n : Notice) : State := s.setRaised (s.raised ++ [n])

/-- The notices an action has raised are offered to every port, in order (R179). -/
def State.flush (s : State) : State := (s.setPorts (s.ports.offerAll s.raised)).setRaised []

/-! ## Codes of the manual's names (R20) -/

/-- The code of a requester (R20). -/
def requesterCode : Requester → Nat
  | .service => 0
  | .campus => 1
  | .schedule => 2
  | .panel => 3
  | .console => 4

/-- The code of a requester or none (R20). -/
def requesterOrNone : Option Requester → Nat
  | some r => requesterCode r
  | none => 0xFF

/-- The code of the one a pending-on is recorded for (R20). -/
def askerCode : LampAsker → Nat
  | .requester r => requesterCode r
  | .lamp => 0xFE

/-- The bit of a command class in a class set (R20). -/
def classBit : CmdClass → Nat
  | .view => 0
  | .present => 1
  | .power => 2
  | .adjust => 3
  | .plan => 4
  | .guard => 5
  | .service => 6

/-- The code of a lamp state (R20). -/
def lampCode : LampState → Nat
  | .off => 0
  | .striking => 1
  | .retryPause => 2
  | .warmup => 3
  | .lit => 4
  | .cooldown => 5
  | .fault => 6

/-- The code of a lamp level (R20). -/
def levelCode : Level → Nat
  | .normal => 0
  | .eco => 1

/-- The code of a scene's level (R20). -/
def sceneLevelCode : SceneLevel → Nat
  | .normal => 0
  | .eco => 1
  | .keep => 2

/-- The code of a scene's power (R22). -/
def scenePowerCode : ScenePower → Nat
  | .on => 0
  | .keep => 1

/-- The code of a wear state (R20). -/
def bandCode : WearBand → Nat
  | .good => 0
  | .warn => 1
  | .endOfLife => 2
  | .expired => 3

/-- The code of an engine state (R20). -/
def engineCode : EngineState → Nat
  | .idle => 0
  | .muting => 1
  | .routing => 2
  | .locking => 3
  | .applying => 4
  | .unmuting => 5

/-- The code of an aspect class (R20). -/
def aspectCode : AspectClass → Nat
  | .wide10 => 0
  | .wide9 => 1
  | .std => 2

/-- The code of an aspect override (R20). -/
def overrideCode : AspectOverride → Nat
  | .wide10 => 0
  | .wide9 => 1
  | .std => 2
  | .auto => 3
  | .fill => 4

/-- The code of a lockout kind (R20). -/
def lockKindCode : LockKind → Nat
  | .panelHold => 0
  | .roomClosed => 1
  | .serviceLock => 2
  | .lampLock => 3
  | .thermalLock => 4

/-- The code of a lockout origin (R20). -/
def originCode : Origin → Nat
  | .manual r => requesterCode r
  | .schedule e => 0x10 + e.val
  | .lamp => 0x40
  | .thermal => 0x41

/-- The code of a lamp lock reason (R20). -/
def reasonCode : Option LockReason → Nat
  | none => 0
  | some .ignition => 1
  | some .expired => 2

/-- The code of an entry kind (R20). -/
def entryKindCode : EntryKind → Nat
  | .session => 0
  | .exam => 1
  | .closed => 2

/-- The code of a parity (R20). -/
def parityCode : Parity → Nat
  | .any => 0
  | .odd => 1
  | .even => 2

/-- The code of an input in every payload and notice, 1..6 (R14). -/
def inputCode (n : InputIdx) : Nat := n.val + 1

/-- The code of a store record (R20). -/
def recordCode : RecordId → Nat
  | .authority => 0
  | .wear => 1
  | .profile p => 2 + p.val
  | .scene k => 6 + k.val
  | .entry e => 14 + e.val
  | .source n => 38 + n.val
  | .lockout => 44
  | .config => 45

/-- The 46 store records in order of code (R182). -/
def allRecords : List RecordId :=
  [.authority, .wear] ++ (List.finRange 4).map .profile ++ (List.finRange 8).map .scene ++ (List.finRange 24).map .entry
    ++ (List.finRange 6).map .source ++ [.lockout, .config]

end Sys2Proof.Machine
end

