-- ==== Sys2Proof/Machine/Geometry.lean ====
section
/-! DEFINITION. Keystone limits and the computation of band tables, in exact integers (R108 to R114, R24). -/

namespace Sys2Proof.Machine

/-- Rounding to the nearest integer of the exact quotient n / d, halves away from zero (R108). -/
def roundDiv (n : Int) (d : Nat) : Int :=
  if 0 ≤ n then (2 * n + d) / (2 * d) else -((2 * (-n) + d) / (2 * d))

/-- x brought into lo..hi. -/
def clampInt (lo hi x : Int) : Int := max lo (min hi x)

/-- Step 2 of R109: |h| gives way when 3|v| + 4|h| exceeds 120, and h keeps its sign. -/
def budget (k : Keystone) : Keystone :=
  if 3 * |k.v| + 4 * |k.h| ≤ 120 then k
  else { k with h := if k.h < 0 then -((120 - 3 * |k.v|) / 4) else (120 - 3 * |k.v|) / 4 }

/-- The pair kept for a pair written: clamp, then budget (R109). -/
def clampKeystone (k : Keystone) : Keystone := budget { v := clampInt (-30) 30 k.v, h := clampInt (-20) 20 k.h }

/-- The limits every stored, trial and effective pair satisfies (R109). -/
def Keystone.inLimits (k : Keystone) : Bool :=
  -30 ≤ k.v ∧ k.v ≤ 30 ∧ -20 ≤ k.h ∧ k.h ≤ 20 ∧ 3 * |k.v| + 4 * |k.h| ≤ 120

/-- A plain move of one coordinate by 1 (R110). -/
def plainMove (k : Keystone) : Direction → Keystone
  | .vUp => { k with v := k.v + 1 }
  | .vDown => { k with v := k.v - 1 }
  | .hUp => { k with h := k.h + 1 }
  | .hDown => { k with h := k.h - 1 }

/-- The move of a nudge, left where it was at the coordinate's own limit (R110). -/
def limitedMove (k : Keystone) (d : Direction) : Keystone :=
  let m := plainMove k d
  if m.v < -30 ∨ 30 < m.v ∨ m.h < -20 ∨ 20 < m.h then k else m

/-- The pair a nudge gives, and whether it carries CLAMPED (R110). -/
def nudge (k : Keystone) (d : Direction) : Keystone × Bool :=
  let r := budget (limitedMove k d)
  (r, r ≠ plainMove k d)

/-- The inset of the top corners, the bottom corners, the left corners and the right corners (R111). -/
def insetTop (k : Keystone) : Int := if 0 < k.v then 8 * k.v else 0
@[inherit_doc insetTop] def insetBottom (k : Keystone) : Int := if k.v < 0 then 8 * (-k.v) else 0
@[inherit_doc insetTop] def insetLeft (k : Keystone) : Int := if k.h < 0 then 6 * (-k.h) else 0
@[inherit_doc insetTop] def insetRight (k : Keystone) : Int := if 0 < k.h then 6 * k.h else 0

/-- The aspect window in 1/1024 units: u0, u1 across and t0, t1 down (R112). -/
structure Window where
  u0 : Int
  u1 : Int
  t0 : Int
  t1 : Int
  deriving DecidableEq, Repr

/-- The window of an aspect class (R112). -/
def window : AspectClass → Window
  | .wide10 => { u0 := 0, u1 := 1024, t0 := 0, t1 := 1024 }
  | .wide9 => { u0 := 0, u1 := 1024, t0 := 51, t1 := 973 }
  | .std => { u0 := 85, u1 := 938, t0 := 0, t1 := 1024 }

/-- The point a fraction t/1024 of the way from a to b (R113). -/
def between (a b t : Int) : Int := a + roundDiv ((b - a) * t) 1024

/-- The centre of band b in the window (R113, step 1). -/
def bandCentre (w : Window) (b : Nat) : Int := w.t0 + roundDiv ((w.t1 - w.t0) * (2 * b + 1)) 32

/-- Band b of the table for a pair and a window (R113, steps 2 to 4, from the corners of R111). -/
def bandOf (k : Keystone) (w : Window) (b : Nat) : Band :=
  let t := bandCentre w b
  let lx := between (insetTop k) (insetBottom k) t
  let ly := between (insetLeft k) (Config.lastRow - insetLeft k) t
  let rx := between (Config.lastColumn - insetTop k) (Config.lastColumn - insetBottom k) t
  let ry := between (insetRight k) (Config.lastRow - insetRight k) t
  { b := b, x0 := between lx rx w.u0, y0 := between ly ry w.u0, x1 := between lx rx w.u1, y1 := between ly ry w.u1 }

/-- The band table for a pair and an aspect class (R107, R113). -/
def bandTable (k : Keystone) (a : AspectClass) : BandTable :=
  { aspect := a, bands := (List.range 16).map (bandOf k (window a)) }

/-- A band's width in output columns, both ends counted (R114). -/
def Band.width (b : Band) : Int := b.x1 - b.x0 + 1

/-- The narrowest band width of a table (R114). -/
def BandTable.narrowest (t : BandTable) : Int := t.bands.foldl (fun m b => min m b.width) Config.rasterWidth

/-- The efficiency of a table, in percent (R114). -/
def BandTable.efficiency (t : BandTable) : Int := 100 * t.narrowest / Config.rasterWidth

/-- A band record's nine bytes (R24). -/
def Band.wire (b : Band) : List Byte :=
  byte b.b :: (bytes16 b.x0.toNat ++ bytes16 b.y0.toNat ++ bytes16 b.x1.toNat ++ bytes16 b.y1.toNat)

/-- The payload of a TABLE message: sequence number, aspect class, sixteen band records (R24). -/
def BandTable.wire (seq : Nat) (t : BandTable) : List Byte :=
  byte seq :: byte (aspectCode t.aspect) :: t.bands.flatMap Band.wire

end Sys2Proof.Machine
end

