-- ==== Sys2Proof/Machine/Operands.lean ====
section
/-! DEFINITION. The operand forms of the port commands: codes, payload lengths and classes (R7, R21), the range and clamp checks of
intake step 7 (R14), and the messages of the scaler link (R91). -/

namespace Sys2Proof.Machine

/-! ## Codes, lengths, classes -/

/-- The 41 command codes in the order of R21. -/
def allCodes : List Code :=
  [.readStatus, .readSource, .readWear, .readProfile, .readScene, .readEntry, .readLockouts, .readAuthority, .readCounts,
   .setNoticeMask, .selectInput, .recallScene, .setMute, .clearMute, .holdFloor, .releaseFloor, .lampOn, .lampOff,
   .setLampLevel, .setKeystone, .nudgeKeystone, .selectProfile, .openTrial, .commitTrial, .discardTrial, .storeScene,
   .setSourceAspect, .setInputEnable, .setClock, .writeEntry, .eraseEntry, .setGrace, .setLockout, .clearLockout,
   .protectEntry, .replaceLamp, .writeAuthority, .clearStoreFault, .setRatedLife, .setIrRoom, .controllerReset]

/-- The code byte of a command (R21). -/
def codeByte : Code → Byte
  | .readStatus => 0x01
  | .readSource => 0x02
  | .readWear => 0x03
  | .readProfile => 0x04
  | .readScene => 0x05
  | .readEntry => 0x06
  | .readLockouts => 0x07
  | .readAuthority => 0x08
  | .readCounts => 0x09
  | .setNoticeMask => 0x0A
  | .selectInput => 0x10
  | .recallScene => 0x11
  | .setMute => 0x12
  | .clearMute => 0x13
  | .holdFloor => 0x14
  | .releaseFloor => 0x15
  | .lampOn => 0x18
  | .lampOff => 0x19
  | .setLampLevel => 0x1A
  | .setKeystone => 0x20
  | .nudgeKeystone => 0x21
  | .selectProfile => 0x22
  | .openTrial => 0x23
  | .commitTrial => 0x24
  | .discardTrial => 0x25
  | .storeScene => 0x26
  | .setSourceAspect => 0x27
  | .setInputEnable => 0x28
  | .setClock => 0x2C
  | .writeEntry => 0x2D
  | .eraseEntry => 0x2E
  | .setGrace => 0x2F
  | .setLockout => 0x33
  | .clearLockout => 0x34
  | .protectEntry => 0x35
  | .replaceLamp => 0x3A
  | .writeAuthority => 0x3B
  | .clearStoreFault => 0x3C
  | .setRatedLife => 0x3D
  | .setIrRoom => 0x3E
  | .controllerReset => 0x3F

/-- The command a code byte names, if it is a command code (R11). -/
def codeOf (b : Byte) : Option Code := allCodes.find? fun c => codeByte c == b

/-- The one payload length of a command (R11, R21). -/
def codeLength : Code → Nat
  | .readSource | .readProfile | .readScene | .readEntry => 1
  | .setNoticeMask => 2
  | .selectInput | .recallScene | .setLampLevel => 1
  | .setKeystone => 3
  | .nudgeKeystone => 2
  | .selectProfile => 1
  | .openTrial => 2
  | .commitTrial | .discardTrial | .storeScene => 1
  | .setSourceAspect => 2
  | .setInputEnable => 3
  | .setClock => 4
  | .writeEntry => 9
  | .eraseEntry | .setGrace => 1
  | .setLockout => 3
  | .clearLockout => 1
  | .protectEntry => 2
  | .replaceLamp => 9
  | .writeAuthority | .setRatedLife => 2
  | .setIrRoom => 1
  | .readStatus | .readWear | .readLockouts | .readAuthority | .readCounts | .setMute | .clearMute | .holdFloor
  | .releaseFloor | .lampOn | .lampOff | .clearStoreFault | .controllerReset => 0

/-- The class of a command (R7). -/
def codeClass : Code → CmdClass
  | .readStatus | .readSource | .readWear | .readProfile | .readScene | .readEntry | .readLockouts | .readAuthority
  | .readCounts | .setNoticeMask => .view
  | .selectInput | .recallScene | .setMute | .clearMute | .holdFloor | .releaseFloor => .present
  | .lampOn | .lampOff | .setLampLevel => .power
  | .setKeystone | .nudgeKeystone | .selectProfile | .openTrial | .commitTrial | .discardTrial | .storeScene
  | .setSourceAspect | .setInputEnable => .adjust
  | .setClock | .writeEntry | .eraseEntry | .setGrace => .plan
  | .setLockout | .clearLockout | .protectEntry => .guard
  | .replaceLamp | .writeAuthority | .clearStoreFault | .setRatedLife | .setIrRoom | .controllerReset => .service

/-- The code of a command with its payload. -/
def cmdCode : Cmd → Code
  | .readStatus => .readStatus
  | .readSource _ => .readSource
  | .readWear => .readWear
  | .readProfile _ => .readProfile
  | .readScene _ => .readScene
  | .readEntry _ => .readEntry
  | .readLockouts => .readLockouts
  | .readAuthority => .readAuthority
  | .readCounts => .readCounts
  | .setNoticeMask _ => .setNoticeMask
  | .selectInput _ => .selectInput
  | .recallScene _ => .recallScene
  | .setMute => .setMute
  | .clearMute => .clearMute
  | .holdFloor => .holdFloor
  | .releaseFloor => .releaseFloor
  | .lampOn => .lampOn
  | .lampOff => .lampOff
  | .setLampLevel _ => .setLampLevel
  | .setKeystone _ _ => .setKeystone
  | .nudgeKeystone _ _ => .nudgeKeystone
  | .selectProfile _ => .selectProfile
  | .openTrial _ _ => .openTrial
  | .commitTrial _ => .commitTrial
  | .discardTrial _ => .discardTrial
  | .storeScene _ => .storeScene
  | .setSourceAspect _ _ => .setSourceAspect
  | .setInputEnable _ _ _ => .setInputEnable
  | .setClock _ _ _ => .setClock
  | .writeEntry _ _ => .writeEntry
  | .eraseEntry _ => .eraseEntry
  | .setGrace _ => .setGrace
  | .setLockout _ _ => .setLockout
  | .clearLockout _ => .clearLockout
  | .protectEntry _ _ => .protectEntry
  | .replaceLamp _ _ => .replaceLamp
  | .writeAuthority _ _ => .writeAuthority
  | .clearStoreFault => .clearStoreFault
  | .setRatedLife _ => .setRatedLife
  | .setIrRoom _ => .setIrRoom
  | .controllerReset => .controllerReset

/-! ## Fields (R14, R20, R21) -/

/-- An index below n. -/
def indexOf (n k : Nat) : Option (Fin n) := if h : k < n then some ⟨k, h⟩ else none

/-- An input 1..6. -/
def inputOf (k : Nat) : Option InputIdx := if k = 0 then none else indexOf 6 (k - 1)

/-- A flag 0..1. -/
def flagOf : Nat → Option Bool
  | 0 => some false
  | 1 => some true
  | _ => none

/-- A lamp level 0..1. -/
def levelOf : Nat → Option Level
  | 0 => some .normal
  | 1 => some .eco
  | _ => none

/-- A nudge direction 0..3. -/
def directionOf : Nat → Option Direction
  | 0 => some .vUp
  | 1 => some .vDown
  | 2 => some .hUp
  | 3 => some .hDown
  | _ => none

/-- An aspect override 0..4. -/
def overrideOf : Nat → Option AspectOverride
  | 0 => some .wide10
  | 1 => some .wide9
  | 2 => some .std
  | 3 => some .auto
  | 4 => some .fill
  | _ => none

/-- A lockout kind 0..4. -/
def lockKindOf : Nat → Option LockKind
  | 0 => some .panelHold
  | 1 => some .roomClosed
  | 2 => some .serviceLock
  | 3 => some .lampLock
  | 4 => some .thermalLock
  | _ => none

/-- A lockout kind SET_LOCKOUT may name, 0..2 (R163). -/
def manualKindOf : Nat → Option LockKind
  | 0 => some .panelHold
  | 1 => some .roomClosed
  | 2 => some .serviceLock
  | _ => none

/-- An entry kind 0..2. -/
def entryKindOf : Nat → Option EntryKind
  | 0 => some .session
  | 1 => some .exam
  | 2 => some .closed
  | _ => none

/-- A parity 0..2. -/
def parityOf : Nat → Option Parity
  | 0 => some .any
  | 1 => some .odd
  | 2 => some .even
  | _ => none

/-- A replacement mode 0..1. -/
def replaceModeOf : Nat → Option ReplaceMode
  | 0 => some .new
  | 1 => some .reinstate
  | _ => none

/-- The requester field of WRITE_AUTHORITY: 0, 1, 3 or 4 (R9, R21). -/
def authorityRowOf : Nat → Option AuthorityRow
  | 0 => some .service
  | 1 => some .campus
  | 3 => some .panel
  | 4 => some .console
  | _ => none

/-- A room code 0..15, or hex FF for any (R175). -/
def roomOf (k : Nat) : Option (Option Nat) :=
  if k ≤ 15 then some (some k) else if k = 0xFF then some none else none

/-- A set of seven members whose top bit must be 0. -/
def sevenOf (k : Nat) : Option (BitVec 7) := if k < 128 then some (BitVec.ofNat 7 k) else none

/-- The rated life kept for a number of hours: clamped to 500..20000, then down to a multiple of 100 (R70). -/
def clampRatedLife (hours : Nat) : Nat := max 500 (min 20000 hours) / 100 * 100

/-- The fields of a WRITE_ENTRY payload after the index (R21, R143). -/
def entryFieldsOf (pl : List Byte) : Option EntryFields :=
  match entryKindOf (byteAt pl 1), sevenOf (byteAt pl 2), parityOf (byteAt pl 7) with
  | some kind, some days, some parity =>
    let start := wordAt pl 3
    let finish := wordAt pl 5
    if start ≤ 1439 ∧ 1 ≤ finish ∧ finish ≤ 1440 ∧ start < finish then
      match kind, indexOf 8 (byteAt pl 8) with
      | .closed, _ => some { kind := kind, days := days, start := start, finish := finish, parity := parity, scene := none }
      | _, some k =>
        some { kind := kind, days := days, start := start, finish := finish, parity := parity, scene := some k }
      | _, none => none
    else none
  | _, _, _ => none

/-- The identity field of REPLACE_LAMP (R21). -/
def identityOf (pl : List Byte) : Vector Byte 8 :=
  #v[pl.getD 1 0, pl.getD 2 0, pl.getD 3 0, pl.getD 4 0, pl.getD 5 0, pl.getD 6 0, pl.getD 7 0, pl.getD 8 0]

/-- A command that no clamp changed. -/
def plain (c : Cmd) : Cmd × Bool := (c, false)

/-- Intake step 7, the part that reads the payload alone: the command with every field in range, and whether a value was
clamped; none is BAD_VALUE (R14, R21). The payload has the command's length (step 3). -/
def parseCmd (c : Code) (pl : List Byte) : Option (Cmd × Bool) :=
  match c with
  | .readStatus => some (plain .readStatus)
  | .readSource => (inputOf (byteAt pl 0)).map fun n => plain (.readSource n)
  | .readWear => some (plain .readWear)
  | .readProfile => (indexOf 4 (byteAt pl 0)).map fun p => plain (.readProfile p)
  | .readScene => (indexOf 8 (byteAt pl 0)).map fun k => plain (.readScene k)
  | .readEntry => (indexOf 24 (byteAt pl 0)).map fun e => plain (.readEntry e)
  | .readLockouts => some (plain .readLockouts)
  | .readAuthority => some (plain .readAuthority)
  | .readCounts => some (plain .readCounts)
  | .setNoticeMask => if wordAt pl 0 < 512 then some (plain (.setNoticeMask (BitVec.ofNat 9 (wordAt pl 0)))) else none
  | .selectInput => (inputOf (byteAt pl 0)).map fun n => plain (.selectInput n)
  | .recallScene => (indexOf 8 (byteAt pl 0)).map fun k => plain (.recallScene k)
  | .setMute => some (plain .setMute)
  | .clearMute => some (plain .clearMute)
  | .holdFloor => some (plain .holdFloor)
  | .releaseFloor => some (plain .releaseFloor)
  | .lampOn => some (plain .lampOn)
  | .lampOff => some (plain .lampOff)
  | .setLampLevel => (levelOf (byteAt pl 0)).map fun l => plain (.setLampLevel l)
  | .setKeystone =>
    (indexOf 4 (byteAt pl 0)).map fun p =>
      let sent : Keystone := { v := (pl.getD 1 0).toInt, h := (pl.getD 2 0).toInt }
      (.setKeystone p (clampKeystone sent), clampKeystone sent ≠ sent)
  | .nudgeKeystone =>
    match indexOf 4 (byteAt pl 0), directionOf (byteAt pl 1) with
    | some p, some d => some (plain (.nudgeKeystone p d))
    | _, _ => none
  | .selectProfile => (indexOf 4 (byteAt pl 0)).map fun p => plain (.selectProfile p)
  | .openTrial =>
    match indexOf 2 (byteAt pl 0), indexOf 4 (byteAt pl 1) with
    | some t, some p => some (plain (.openTrial t p))
    | _, _ => none
  | .commitTrial => (indexOf 2 (byteAt pl 0)).map fun t => plain (.commitTrial t)
  | .discardTrial => (indexOf 2 (byteAt pl 0)).map fun t => plain (.discardTrial t)
  | .storeScene => (indexOf 8 (byteAt pl 0)).map fun k => plain (.storeScene k)
  | .setSourceAspect =>
    match inputOf (byteAt pl 0), overrideOf (byteAt pl 1) with
    | some n, some o => some (plain (.setSourceAspect n o))
    | _, _ => none
  | .setInputEnable =>
    match inputOf (byteAt pl 0), flagOf (byteAt pl 1) with
    | some n, some e => if byteAt pl 2 ≤ 15 then some (plain (.setInputEnable n e (byteAt pl 2))) else none
    | _, _ => none
  | .setClock =>
    if wordAt pl 0 ≤ 1439 ∧ byteAt pl 2 ≤ 6 ∧ byteAt pl 3 ≤ 60 then
      some (plain (.setClock (wordAt pl 0) (byteAt pl 2) (byteAt pl 3)))
    else none
  | .writeEntry =>
    match indexOf 24 (byteAt pl 0), entryFieldsOf pl with
    | some e, some f => some (plain (.writeEntry e f))
    | _, _ => none
  | .eraseEntry => (indexOf 24 (byteAt pl 0)).map fun e => plain (.eraseEntry e)
  | .setGrace => some (.setGrace (min 30 (byteAt pl 0)), 30 < byteAt pl 0)
  | .setLockout =>
    (manualKindOf (byteAt pl 0)).map fun kind =>
      if wordAt pl 1 = 0 then (.setLockout kind none, false)
      else (.setLockout kind (some (min 1440 (wordAt pl 1))), 1440 < wordAt pl 1)
  | .clearLockout => (lockKindOf (byteAt pl 0)).map fun kind => plain (.clearLockout kind)
  | .protectEntry =>
    match indexOf 24 (byteAt pl 0), flagOf (byteAt pl 1) with
    | some e, some f => some (plain (.protectEntry e f))
    | _, _ => none
  | .replaceLamp => (replaceModeOf (byteAt pl 0)).map fun m => plain (.replaceLamp m (identityOf pl))
  | .writeAuthority =>
    match authorityRowOf (byteAt pl 0), sevenOf (byteAt pl 1) with
    | some r, some cs => some (plain (.writeAuthority r cs))
    | _, _ => none
  | .clearStoreFault => some (plain .clearStoreFault)
  | .setRatedLife => some (.setRatedLife (clampRatedLife (wordAt pl 0)), clampRatedLife (wordAt pl 0) ≠ wordAt pl 0)
  | .setIrRoom => (roomOf (byteAt pl 0)).map fun r => plain (.setIrRoom r)
  | .controllerReset => some (plain .controllerReset)

/-! ## Messages of the scaler link (R91) -/

/-- A message read from the link: kind, number, payload. -/
structure LinkMsg where
  kind : Byte
  num : Nat
  payload : List Byte
  deriving DecidableEq, Repr

/-- A message's bytes on the link (R91). -/
def LinkMsg.wire (m : LinkMsg) : List Byte :=
  let body := m.kind :: byte m.num :: byte m.payload.length :: m.payload
  0xA5 :: body ++ [checkByte body]

/-- The message that bytes from the link spell; none for a bad start, length or check, which the part discards (R91). -/
def readLink (l : List Byte) : Option LinkMsg :=
  match l with
  | start :: kind :: num :: len :: rest =>
    if start = 0xA5 ∧ len.toNat ≤ 146 ∧ rest.length = len.toNat + 1 ∧ sum8 (kind :: num :: len :: rest) = 0 then
      some { kind := kind, num := num.toNat, payload := rest.dropLast }
    else none
  | _ => none

/-- The message when the bytes spell one of this kind and payload length; any other is discarded (R91, log 19). -/
def readKind (kind : Byte) (len : Nat) (l : List Byte) : Option LinkMsg :=
  match readLink l with
  | some m => if m.kind = kind ∧ m.payload.length = len then some m else none
  | none => none

/-- The timing a LOCKED message carries (R91). -/
def LinkMsg.timing (m : LinkMsg) : Timing :=
  { width := wordAt m.payload 0, height := wordAt m.payload 2, refresh := wordAt m.payload 4 }

/-- The ranges of a timing (R83). -/
def Timing.inRange (t : Timing) : Bool :=
  640 ≤ t.width ∧ t.width ≤ 4096 ∧ 480 ≤ t.height ∧ t.height ≤ 2400 ∧ 2300 ≤ t.refresh ∧ t.refresh ≤ 12000

/-- The kind byte of a blank request, also its code in NO_ANSWER notices (R91). -/
def blankKindCode : BlankKind → Nat
  | .blank => 1
  | .unblank => 2

/-- A BLANK or UNBLANK request as it goes out on the link (R91). -/
def BlankRequest.message (r : BlankRequest) : LinkMsg := { kind := byte (blankKindCode r.kind), num := r.num, payload := [] }

/-- A timing's six bytes; zeros when none is offered (R91). -/
def timingBytes : Option Timing → List Byte
  | some t => bytes16 t.width ++ bytes16 t.height ++ bytes16 t.refresh
  | none => [0, 0, 0, 0, 0, 0]

/-- A LOCK request as it goes out on the link (R91). -/
def LockRequest.message (r : LockRequest) : LinkMsg :=
  { kind := 3, num := r.num, payload := (if r.mode = .quick then 1 else 0) :: timingBytes r.timing }

/-- A TABLE request as it goes out on the link (R24, R91). -/
def Transfer.message (t : Transfer) : LinkMsg := { kind := 4, num := t.num, payload := t.table.wire t.seq }

end Sys2Proof.Machine
end

