-- ==== Sys2Proof/Machine/Flags.lean ====
section
/-! DEFINITION. What is read off the state: lockouts in force, output lines, aspect classes, wear figures, effective keystone pairs,
the blank composition, and the data of the read commands (R22). -/

namespace Sys2Proof.Machine

/-! ## Lockouts (R13, R33, R159) -/

/-- A kind is in force while a record of it is present (R159). -/
def State.inForce (s : State) (k : LockKind) : Bool := s.lockouts.any fun l => l.kind == k

/-- The LAMP record, if present (R166). -/
def State.lampRecord (s : State) : Option Lockout := s.lockouts.find? fun l => l.origin == .lamp

/-- A LAMP record of reason EXPIRED is present (R78, R79). -/
def State.expiredLocked (s : State) : Bool :=
  s.lockouts.any fun l => l.origin == .lamp && l.reason == some .expired

/-- A requester is PANEL or LOCAL, the two that PANEL_HOLD and the grace deferral single out (R13, R153). -/
def atLectern : Requester → Bool
  | .panel | .console => true
  | .service | .campus | .schedule => false

/-- A requester is barred from the floor: PANEL_HOLD against PANEL and LOCAL, SERVICE_LOCK against all but SERVICE (R33). -/
def State.barred (s : State) (r : Requester) : Bool :=
  (s.inForce .panelHold && atLectern r) || (s.inForce .serviceLock && r != .service)

/-! ## Lines and power (R42 to R45) -/

/-- The IGNITE output (R42). -/
def State.ignite (s : State) : Bool :=
  match s.lamp.state with
  | .striking | .warmup | .lit => true
  | .off | .retryPause | .cooldown | .fault => false

/-- The FAN_MAX output (R43). -/
def State.fanMax (s : State) : Bool := s.lamp.state == .cooldown || s.lines.thermHot

/-- The LEVEL output (R44). -/
def State.levelOut (s : State) : Level := s.lamp.level

/-- The XSEL output, 1..6 (R90). -/
def State.xsel (s : State) : Nat := inputCode s.engine.routed

/-- The lamp controller supplies the scaler (R41, R45). -/
def State.scalerSupplied (s : State) : Bool :=
  match s.lamp.state with
  | .striking | .retryPause | .warmup | .lit => true
  | .cooldown => !s.lamp.startUp
  | .off | .fault => false

/-! ## Wear (R71, R75) -/

/-- The wear ratio in permille, exact (R71). -/
def wearRatio (wu ratedLife : Nat) : Nat := 1000 * wu / (ratedLife * Config.hourNormal)

/-- The band of a wear ratio (R71). -/
def bandOfRatio (r : Nat) : WearBand :=
  if r < 900 then .good else if r < 1000 then .warn else if r < 1100 then .endOfLife else .expired

/-- The wear ratio of the working record (R71). -/
def State.ratio (s : State) : Nat := wearRatio s.wear.record.wu s.wear.ratedLife

/-- A wear state at which the lamp may burn at ECO alone (R44, R51, R56). -/
def spent : WearBand → Bool
  | .endOfLife | .expired => true
  | .good | .warn => false

/-- The level applied for a level asked (R44, R56). -/
def State.allowedLevel (s : State) (l : Level) : Level := if spent s.wear.band then .eco else l

/-- A replacement is pending (R80). -/
def State.replacing (s : State) : Bool := s.wear.replacement != .settled

/-! ## Sources (R85 to R87) -/

/-- The aspect class of a source (R86). -/
def Source.aspect (c : Source) : AspectClass :=
  match c.settings.aspect with
  | .wide10 | .fill => .wide10
  | .wide9 => .wide9
  | .std => .std
  | .auto =>
    match c.timing with
    | none => .wide10
    | some t =>
      let r := 100 * t.width / t.height
      if 169 ≤ r then .wide9 else if 145 ≤ r then .wide10 else .std

/-- A source record of the state. -/
def State.source (s : State) (n : InputIdx) : Source := s.sources[n]

/-- The routed input's source record. -/
def State.routedSource (s : State) : Source := s.source s.engine.routed

/-- The routed input's aspect class (R86). -/
def State.routedAspect (s : State) : AspectClass := s.routedSource.aspect

/-- Input n is routed and locked (R85). -/
def State.routedAndLocked (s : State) (n : InputIdx) : Bool := s.engine.routed == n && (s.source n).timing.isSome

/-! ## The blank composition (R92) -/

/-- The composition: whether any condition keeps the picture blanked (R92). -/
def State.composition (s : State) : Bool :=
  s.engine.userMute || s.engine.switchCond || !s.routedSource.present || s.routedSource.timing.isNone

/-! ## Profiles (R126) -/

/-- A slot's trial. -/
def State.slot (s : State) (t : SlotIdx) : Option Trial := s.profiles.slots[t]

/-- A slot is enabled with this target. -/
def State.overlays (s : State) (t : SlotIdx) (p : ProfileIdx) : Bool :=
  match s.slot t with
  | some x => x.target == p
  | none => false

/-- The winning slot of a profile (R126). -/
def State.winner (s : State) (p : ProfileIdx) : Option SlotIdx :=
  if s.overlays 0 p then some 0 else if s.overlays 1 p then some 1 else none

/-- The effective pair of a profile (R126). -/
def State.effectivePair (s : State) (p : ProfileIdx) : Keystone :=
  match s.winner p with
  | some t => ((s.slot t).map Trial.pair).getD s.profiles.stored[p]
  | none => s.profiles.stored[p]

/-! ## Data of the read commands (R22) -/

/-- A number from bits, bit 0 first. -/
def bitsToNat : List Bool → Nat
  | [] => 0
  | b :: r => (if b then 1 else 0) + 2 * bitsToNat r

/-- READ_STATUS offset 2 (R22, R46). -/
def State.lampFlags (s : State) : Nat :=
  bitsToNat [s.lamp.pendingOn.isSome, s.lamp.heldOff, s.replacing, s.lamp.restrikeUsed, s.lamp.faultPending, s.fanMax]

/-- READ_STATUS offset 7 (R22, R25). -/
def State.floorFlags (s : State) : Nat := bitsToNat [s.floor.hold, s.floor.marker]

/-- READ_STATUS offset 12 (R22, R90). -/
def State.presentationFlags (s : State) : Nat :=
  bitsToNat [s.engine.userMute, s.engine.blank != .unblanked, s.engine.powered, s.engine.pendingTarget.isSome]

/-- READ_STATUS offset 18 (R22, R159). -/
def State.lockoutKinds (s : State) : Nat :=
  bitsToNat [s.inForce .panelHold, s.inForce .roomClosed, s.inForce .serviceLock, s.inForce .lampLock,
    s.inForce .thermalLock]

/-- READ_STATUS offset 19 (R22). -/
def State.roomFlags (s : State) : Nat :=
  bitsToNat [s.clock.isSet, s.schedule.deferral.isSome, s.store.fault, s.store.slot.isSome]

/-- The 26 bytes of READ_STATUS (R22). -/
def State.statusData (s : State) : List Byte :=
  [byte (lampCode s.lamp.state), byte (levelCode s.lamp.level), byte s.lampFlags, byte (bandCode s.wear.band)]
    ++ bytes16 (min 65535 s.ratio)
    ++ [byte (requesterOrNone s.floor.holder), byte s.floorFlags,
        byte (requesterOrNone (s.floor.elect.map Prod.fst)), byte (engineCode s.engine.state),
        byte (inputCode s.engine.selected), byte (inputCode s.engine.routed), byte s.presentationFlags,
        byte s.profiles.active.val, byte (aspectCode s.routedAspect), byte s.geo.last.efficiency.toNat]
    ++ bytes16 s.geo.last.narrowest.toNat
    ++ [byte s.lockoutKinds, byte s.roomFlags]
    ++ bytes16 s.clock.minute
    ++ [byte s.clock.weekday, byte s.clock.week,
        byte (match s.schedule.remembered with | some e => e.index.val | none => 0xFF), byte s.store.queue.length]

/-- The 20 bytes of READ_SOURCE (R22). -/
def State.sourceData (s : State) (n : InputIdx) : List Byte :=
  let c := s.source n
  [byte (inputCode n), flagByte c.settings.enabled, byte c.settings.role, flagByte c.present, flagByte c.timing.isSome]
    ++ timingBytes c.timing ++ [flagByte c.remembered.isSome] ++ timingBytes c.remembered
    ++ [byte (overrideCode c.settings.aspect), byte (aspectCode c.aspect)]

/-- The WU left before END_OF_LIFE (R75). -/
def State.wearLeft (s : State) : Nat := s.wear.ratedLife * Config.hourNormal - s.wear.record.wu

/-- The 35 bytes of READ_WEAR (R22, R75). -/
def State.wearData (s : State) : List Byte :=
  let w := s.wear.record
  bytes32 w.wu ++ [byte w.lit] ++ bytes32 w.realMinutes ++ bytes16 w.strikes ++ bytes16 w.dropOuts ++ bytes16 w.uncleanOffs
    ++ [byte w.replacements, byte w.reinstatements, byte (bitsToNat [w.identity.isSome, w.litMarker, w.defaulted])]
    ++ (match w.identity with | some i => i.toList | none => List.replicate 8 0)
    ++ bytes16 s.wear.ratedLife ++ [byte (bandCode s.wear.band)] ++ bytes16 (min 65535 s.ratio)
    ++ bytes16 (s.wearLeft / Config.hourNormal) ++ bytes16 (s.wearLeft / Config.hourEco)

/-- The 7 bytes of READ_PROFILE (R22, R123). -/
def State.profileData (s : State) (p : ProfileIdx) : List Byte :=
  let k := s.profiles.stored[p]
  let e := s.effectivePair p
  [byte p.val, BitVec.ofInt 8 k.v, BitVec.ofInt 8 k.h, BitVec.ofInt 8 e.v, BitVec.ofInt 8 e.h,
   byte (match s.winner p with | some t => t.val | none => 0xFF), flagByte (s.profiles.active == p)]

/-- The 6 bytes of READ_SCENE (R22). -/
def State.sceneData (s : State) (k : SceneIdx) : List Byte :=
  let c := s.scenes[k]
  [byte k.val, byte (inputCode c.input), byte c.profile.val, flagByte c.mute, byte (sceneLevelCode c.level),
   byte (scenePowerCode c.power)]

/-- The 11 bytes of READ_ENTRY (R22). -/
def State.entryData (s : State) (e : EntryIdx) : List Byte :=
  let c := s.schedule.entries[e]
  [byte e.val, flagByte c.inUse, byte (entryKindCode c.kind), byte c.days.toNat] ++ bytes16 c.start ++ bytes16 c.finish
    ++ [byte (parityCode c.parity), byte (match c.scene with | some k => k.val | none => 0xFF), flagByte c.isProtected]

/-- The minutes left to a record's expiry; 0 when it has none (R159). -/
def State.minutesLeft (s : State) (l : Lockout) : Nat :=
  match l.expiry with
  | some x => l.setAt + x - s.uptime
  | none => 0

/-- The data of READ_LOCKOUTS: the count, then five bytes a record in set order (R22, R159). -/
def State.lockoutData (s : State) : List Byte :=
  byte s.lockouts.length :: s.lockouts.flatMap fun l =>
    [byte (lockKindCode l.kind), byte (originCode l.origin), byte (reasonCode l.reason)] ++ bytes16 (s.minutesLeft l)

/-- A class set as a byte (R20). -/
def classByte (c : ClassSet) : Byte := byte c.toNat

/-- The four bytes of READ_AUTHORITY (R22). -/
def State.authorityData (s : State) : List Byte :=
  [classByte s.authority.service, classByte s.authority.campus, classByte s.authority.panel, classByte s.authority.console]

/-- The nine bytes of READ_COUNTS (R22, R181). -/
def PortBlock.countData (b : PortBlock) : List Byte := b.counts.toList.map byte

end Sys2Proof.Machine
end

