-- ==== Sys2Proof/Machine/Store.lean ====
section
/-! DEFINITION. The settings store: images, the write queue, the wear slot, the beginning of writes (R77, R182 to R188). -/

namespace Sys2Proof.Machine

/-! ## Images (R182, R168) -/

/-- A lockout record is persistent when its kind is SERVICE_LOCK or LAMP_LOCK (R158). -/
def Lockout.persistent (l : Lockout) : Bool := l.kind == .serviceLock || l.kind == .lampLock

/-- A lockout record as the LOCKOUT image holds it (R168). -/
def Lockout.image (l : Lockout) : LockImage := { kind := l.kind, origin := l.origin, reason := l.reason, expiry := l.expiry }

/-- The image of a record, taken from the owner's working state (R182, R185). -/
def State.imageOf (s : State) : RecordId → Image
  | .authority => .authority s.authority
  | .wear => .wear s.wear.record
  | .profile p => .profile p s.profiles.stored[p]
  | .scene k => .scene k s.scenes[k]
  | .entry e => .entry e s.schedule.entries[e]
  | .source n => .source n (s.source n).settings
  | .lockout => .lockout ((s.lockouts.filter Lockout.persistent).map Lockout.image)
  | .config => .config { ratedLife := s.wear.ratedLife, grace := s.schedule.grace, room := s.console.room }

/-- The record an image belongs to. -/
def Image.record : Image → RecordId
  | .authority _ => .authority
  | .wear _ => .wear
  | .profile p _ => .profile p
  | .scene k _ => .scene k
  | .entry e _ => .entry e
  | .source n _ => .source n
  | .lockout _ => .lockout
  | .config _ => .config

/-- The memory with one record holding a new image and its check value (R185). -/
def Memory.write (m : Memory) (i : Image) : Memory :=
  let m := { m with bad := m.bad.filter (· != i.record) }
  match i with
  | .authority t => { m with authority := t }
  | .wear r => { m with wear := r }
  | .profile p k => { m with profiles := m.profiles.set p k }
  | .scene k c => { m with scenes := m.scenes.set k c }
  | .entry e c => { m with entries := m.entries.set e c }
  | .source n c => { m with sources := m.sources.set n c }
  | .lockout l => { m with lockouts := l }
  | .config c => { m with config := c }

/-! ## Beginning a write (R185) -/

/-- What a wear slot write's beginning does to something that waits for it (R19, R80). -/
def SlotWait.begun : SlotWait → SlotWait
  | .toBegin => .toEnd
  | w => w

/-- What the end of a WEAR write does to something that waits for it (R19, R80). -/
def SlotWait.ended : SlotWait → SlotWait
  | .toEnd => .settled
  | w => w

/-- A code added at the tail of a queue unless it is queued already (R184). -/
def enqueue (q : List RecordId) (r : RecordId) : List RecordId := if r ∈ q then q else q ++ [r]

/-- A write of an image begins, under the next write number (R185, log 6). -/
def Store.start (q : Store) (i : Image) : Store := { q with inFlight := some i, writes := q.writes + 1 }

/-- The write of the wear slot's image begins (R77, R185). -/
def State.beginSlot (s : State) (img : WearRecord) : State :=
  ((s.setStore { s.store.start (.wear img) with slot := none }).setWear
    { s.wear with replacement := s.wear.replacement.begun }).setResetWait (s.resetWait.map SlotWait.begun)

/-- The retry of a failed record begins; its queue entry, if any, is removed (R185). An owed save waits on (log 35). -/
def State.beginRetry (s : State) (r : RecordId) : State :=
  s.setStore { s.store.start (s.imageOf r) with retry := none, queue := s.store.queue.filter (· != r) }

/-- The write of the oldest queue entry begins; the lockout table's owed save takes the place thus freed (R168, R185). -/
def State.beginQueued (s : State) (r : RecordId) (rest : List RecordId) : State :=
  if s.saveOwed then
    (s.setStore { s.store.start (s.imageOf r) with
      queue := enqueue rest .lockout, repair := s.store.repair.filter (· != .lockout) }).setSaveOwed false
  else s.setStore { s.store.start (s.imageOf r) with queue := rest }

/-- The first write of a defaulted record begins (R182, R185). -/
def State.beginRepair (s : State) (r : RecordId) (rest : List RecordId) : State :=
  s.setStore { s.store.start (s.imageOf r) with repair := rest }

/-- The store begins the next write at once when none is in flight and the fault is clear: the wear slot, the retry place,
the oldest queue entry, the lowest code of the repair set (R185, log 10). -/
def State.kick (s : State) : State :=
  if s.store.inFlight.isSome ∨ s.store.fault then s
  else
    match s.store.slot, s.store.retry, s.store.queue, s.store.repair with
    | some img, _, _, _ => s.beginSlot img
    | none, some r, _, _ => s.beginRetry r
    | none, none, r :: rest, _ => s.beginQueued r rest
    | none, none, [], r :: rest => s.beginRepair r rest
    | none, none, [], [] => s

/-- A block asks the store to queue a record (R184). With the queue full, the lockout table's save is owed (R168); no other
block asks then (step 10, log 23). -/
def State.queueRecord (s : State) (r : RecordId) : State :=
  if r ∈ s.store.queue then s
  else if s.store.queue.length < Config.queuePlaces then
    (s.setStore { s.store with queue := s.store.queue ++ [r], repair := s.store.repair.filter (· != r) }).kick
  else if r = .lockout then s.setSaveOwed true
  else s

/-- A checkpoint: the working record's image goes to the wear slot in place of any older one (R76, R77). -/
def State.checkpoint (s : State) : State :=
  ((s.setWear { s.wear with sinceCheckpoint := 0 }).setStore { s.store with slot := some s.wear.record }).kick

/-! ## The end of a write (R80, R185, R186) -/

/-- A STORE notice of kind WRITE_RESULT (R23). -/
def writeResult (r : RecordId) (ok : Bool) : Notice :=
  { cls := .store, kind := 1, subject := recordCode r, result := if ok then 0xA5 else 0xA6, extra := 0 }

/-- A STORE notice of kind DEFAULTED (R23, R182). -/
def defaultedNotice (r : RecordId) : Notice := { cls := .store, kind := 2, subject := recordCode r, result := 0, extra := 0 }

/-- A STORE notice of kind FAULT_CLEARED (R23, R187). -/
def faultCleared : Notice := { cls := .store, kind := 3, subject := 0, result := 0, extra := 0 }

/-- The end of a WEAR write, for a pending replacement and a pending reset (R19, R80). -/
def State.wearWriteEnded (s : State) : State :=
  (s.setWear { s.wear with replacement := s.wear.replacement.ended }).setResetWait (s.resetWait.map SlotWait.ended)

/-- The write in flight completes (R185): the record holds the new image, STORE_DONE is raised, the next write begins. -/
def State.completeWrite (s : State) : State :=
  match s.store.inFlight with
  | none => s
  | some img =>
    let s := (s.setMemory (s.memory.write img)).setStore { s.store with inFlight := none }
    let s := s.notify (writeResult img.record true)
    (if img.record = .wear then s.wearWriteEnded else s).kick

/-- A reset that waits for a checkpoint still to begin waits no longer once the store fault is set (R19). -/
def SlotWait.faulted : SlotWait → SlotWait
  | .toBegin => .settled
  | w => w

/-- The failed write goes back: a WEAR image to the slot unless a newer one is there, any other code to the retry place (R186). -/
def Store.giveBack (t : Store) (img : Image) : Store :=
  match img with
  | .wear r => { t with inFlight := none, slot := some (t.slot.getD r) }
  | _ => { t with inFlight := none, retry := some img.record }

/-- The write limit expires (R186): the fault is set, the failed write returned, STORE_FAILED raised. -/
def State.failWrite (s : State) : State :=
  match s.store.inFlight with
  | none => s
  | some img =>
    let s := s.setStore { s.store.giveBack img with fault := true }
    let s := s.notify (writeResult img.record false)
    let s := if img.record = .wear then s.wearWriteEnded else s
    s.setResetWait (s.resetWait.map SlotWait.faulted)

/-- The store fault is cleared, if it stands, and writes resume (R187). -/
def State.clearFault (s : State) : State :=
  if s.store.fault then ((s.setStore { s.store with fault := false }).notify faultCleared).kick else s

end Sys2Proof.Machine
end

