-- ==== Sys2Proof/Machine/Lockout.lean ====
section
/-! DEFINITION. The lockout set: order, addition, removal, the LAMP, THERMAL and schedule records (R158 to R168). The effects of a
kind's coming into force on the floor and the lamp are in Force.lean. -/

namespace Sys2Proof.Machine

/-- The place of a record in set order: kind code, then origin code (R159). -/
def Lockout.key (l : Lockout) : Nat := 256 * lockKindCode l.kind + originCode l.origin

/-- A record put into the set in order (R159). -/
def insertLockout (l : Lockout) : List Lockout → List Lockout
  | [] => [l]
  | x :: r => if l.key < x.key then l :: x :: r else x :: insertLockout l r

/-- A LOCKOUT notice of kind IN_FORCE (R23, R160). -/
def inForceNotice (k : LockKind) (o : Origin) : Notice :=
  { cls := .lockout, kind := 1, subject := lockKindCode k, result := 0, extra := originCode o }

/-- A LOCKOUT notice of kind OUT_OF_FORCE (R23, R160). -/
def outOfForceNotice (k : LockKind) : Notice :=
  { cls := .lockout, kind := 2, subject := lockKindCode k, result := 0, extra := 0 }

/-- The kinds in order of code (R158). -/
def allKinds : List LockKind := [.panelHold, .roomClosed, .serviceLock, .lampLock, .thermalLock]

/-- A record is added, with IN_FORCE when no record of its kind was present (R160). -/
def State.addLockout (s : State) (l : Lockout) : State :=
  let t := s.setLockouts (insertLockout l s.lockouts)
  if s.inForce l.kind then t else t.notify (inForceNotice l.kind l.origin)

/-- The kinds that were in force in s and are not in t, in order of code. -/
def kindsLost (s t : State) : List LockKind := allKinds.filter fun k => s.inForce k && !t.inForce k

/-- Records are removed, with OUT_OF_FORCE for each kind that loses its last (R160). -/
def State.removeLockouts (s : State) (gone : Lockout → Bool) : State :=
  let t := s.setLockouts (s.lockouts.filter fun l => !gone l)
  (kindsLost s t).foldl (fun t k => t.notify (outOfForceNotice k)) t

/-- The lockout table asks the store to save the persistent records (R168). -/
def State.saveLockouts (s : State) : State := s.queueRecord .lockout

/-! ## The LAMP record (R166) -/

/-- The reason of a record becomes EXPIRED; set-at is kept (R166). -/
def Lockout.expire (l : Lockout) : Lockout := if l.origin = .lamp then { l with reason := some .expired } else l

/-- The LAMP record is added, merged to EXPIRED, or left, as R166 tables. -/
def State.addLampLock (s : State) (reason : LockReason) : State :=
  match s.lampRecord with
  | none =>
    (s.addLockout { kind := .lampLock, origin := .lamp, reason := some reason, setAt := s.uptime, expiry := none }).saveLockouts
  | some l =>
    if reason = .expired ∧ l.reason ≠ some .expired then (s.setLockouts (s.lockouts.map Lockout.expire)).saveLockouts
    else s

/-- LAMP records are removed, those `which` picks (R166). -/
def State.removeLampLock (s : State) (which : Lockout → Bool) : State :=
  if s.lockouts.any fun l => l.origin == .lamp && which l then
    (s.removeLockouts fun l => l.origin == .lamp && which l).saveLockouts
  else s

/-! ## The THERMAL record (R167) -/

/-- The THERMAL record is present. -/
def State.thermalPresent (s : State) : Bool := s.lockouts.any fun l => l.origin == .thermal

/-- The THERMAL record is added if absent (R59, R167). -/
def State.addThermal (s : State) : State :=
  if s.thermalPresent then s
  else s.addLockout { kind := .thermalLock, origin := .thermal, reason := none, setAt := s.uptime, expiry := none }

/-- The THERMAL record is removed when THERM_HOT is deasserted and the lamp is not in COOLDOWN (R60). -/
def State.examineThermal (s : State) : State :=
  if s.lines.thermHot ∨ s.lamp.state = .cooldown ∨ !s.thermalPresent then s
  else s.removeLockouts fun l => l.origin == .thermal

/-! ## The schedule record (R150, R167) -/

/-- A record is of schedule origin. -/
def Lockout.ofSchedule (l : Lockout) : Bool :=
  match l.origin with
  | .schedule _ => true
  | .manual _ | .lamp | .thermal => false

/-- The record of schedule origin is renamed to another entry; kind and set-at are kept (R150, R167). -/
def State.renameSchedule (s : State) (e : EntryIdx) : State :=
  s.setLockouts (s.lockouts.map fun l => if l.ofSchedule then { l with origin := .schedule e } else l)

end Sys2Proof.Machine
end

