-- ==== Sys2Proof/Machine/Wear.lean ====
section
/-! DEFINITION. The wear counter: charges, thresholds, replacement (R66 to R82). -/

namespace Sys2Proof.Machine

/-! ## Notices (R82) -/

/-- A WEAR notice of kind WEAR_STATE (R71). -/
def wearStateNotice (b : WearBand) : Notice := { cls := .wear, kind := 1, subject := bandCode b, result := 0, extra := 0 }

/-- A WEAR notice of kind LEVEL_FORCED (R73). -/
def levelForcedNotice : Notice := { cls := .wear, kind := 2, subject := levelCode .eco, result := 0, extra := 0 }

/-- A WEAR notice of kind REPLACED (R78, R79). -/
def replacedNotice (m : ReplaceMode) : Notice :=
  { cls := .wear, kind := 3, subject := (match m with | .new => 0 | .reinstate => 1), result := 0, extra := 0 }

/-- A LAMP notice of kind WARN_REACHED (R72). -/
def warnReachedNotice (b : WearBand) : Notice := { cls := .lamp, kind := 4, subject := bandCode b, result := 0, extra := 0 }

/-! ## Changing the record -/

/-- s with the working wear record replaced. -/
def State.setRecord (s : State) (r : WearRecord) : State := s.setWear { s.wear with record := r }

/-- WU are booked, saturating (R66). -/
def State.charge (s : State) (wu : Nat) : State :=
  s.setRecord { s.wear.record with wu := satAdd Config.top32 s.wear.record.wu wu }

/-! ## Thresholds (R71 to R74) -/

/-- The first rise from GOOD for this lamp raises WARN_REACHED (R72). -/
def State.warnEffect (s : State) (old new : WearBand) : State :=
  if old = .good ∧ new ≠ .good ∧ !s.wear.warnReported then
    (s.setWear { s.wear with warnReported := true }).notify (warnReachedNotice new)
  else s

/-- Reaching END_OF_LIFE with the lamp in LIT at NORMAL forces ECO (R62, R73). -/
def State.ecoEffect (s : State) (old new : WearBand) : State :=
  if spent new ∧ !spent old ∧ s.lamp.state = .lit ∧ s.lamp.level = .normal then
    (s.setLamp { s.lamp with level := .eco }).notify levelForcedNotice
  else s

/-- Reaching EXPIRED asks for a LAMP_LOCK of reason EXPIRED (R74). -/
def State.expireEffect (s : State) (new : WearBand) : State := if new = .expired then s.addLampLock .expired else s

/-- The wear state is recomputed; a change raises WEAR_STATE and applies the threshold effects in order (R71). -/
def State.testThresholds (s : State) : State :=
  let old := s.wear.band
  let new := bandOfRatio s.ratio
  if new = old then s
  else
    ((((s.setWear { s.wear with band := new }).notify (wearStateNotice new)).warnEffect old new).ecoEffect old new).expireEffect
      new

/-! ## Events of the lamp controller (R68, R69) -/

/-- A strike has begun (R69): charge, count, marker, checkpoint, thresholds. -/
def State.bookStrike (s : State) : State :=
  let s := s.charge Config.strikeCharge
  let s := s.setRecord { s.wear.record with strikes := satAdd Config.top16 s.wear.record.strikes 1, litMarker := true }
  s.checkpoint.testThresholds

/-- A drop-out (R69). -/
def State.bookDropOut (s : State) : State :=
  s.setRecord { s.wear.record with dropOuts := satAdd Config.top16 s.wear.record.dropOuts 1 }

/-- Lit time begins at entry to WARMUP (R68). -/
def State.startLit (s : State) : State := s.setWear { s.wear with running := true }

/-- Entry to COOLDOWN: lit time stops, the marker clears, and a checkpoint is taken (R52, R68, R76). -/
def State.bookCooldown (s : State) : State :=
  (s.setWear { s.wear with running := false, record := { s.wear.record with litMarker := false } }).checkpoint

/-- A lit minute's charge at the present lamp level (R68). -/
def minuteCharge : Level → Nat
  | .normal => Config.normalCharge
  | .eco => Config.ecoCharge

/-- One more lit minute since the checkpoint; at the fifteenth a checkpoint is taken (R68, R76). -/
def State.countMinute (s : State) : State :=
  if s.wear.sinceCheckpoint + 1 = Config.checkpointMinutes then s.checkpoint
  else s.setWear { s.wear with sinceCheckpoint := s.wear.sinceCheckpoint + 1 }

/-- A lit minute is complete (R68). -/
def State.litMinute (s : State) : State :=
  let s := s.setRecord { s.wear.record with lit := 0 }
  let s := s.charge (minuteCharge s.lamp.level)
  let s := s.setRecord { s.wear.record with realMinutes := satAdd Config.top32 s.wear.record.realMinutes 1 }
  s.countMinute.testThresholds

/-- The lit-second timer completes a second (R68). -/
def State.litSecond (s : State) : State :=
  if !s.wear.running then s
  else if s.wear.record.lit + 1 < 60 then s.setRecord { s.wear.record with lit := s.wear.record.lit + 1 }
  else s.litMinute

/-! ## Start (R81) -/

/-- The wear state at a start, with no notice; warn reported is set from WARN on (R67, R81). -/
def State.startBand (s : State) : State :=
  let b := bandOfRatio s.ratio
  s.setWear { s.wear with band := b, warnReported := b != .good }

/-- A start that found the lit marker counts an unclean-off (R69). -/
def State.bookUnclean (s : State) : State :=
  s.setRecord { s.wear.record with uncleanOffs := satAdd Config.top16 s.wear.record.uncleanOffs 1 }

end Sys2Proof.Machine
end

