-- ==== Sys2Proof/Machine/Deferral.lean ====
section
/-! DEFINITION. The grace deferral's record: its activity and its end (R153 to R155). Its start is in Schedule.lean. -/

namespace Sys2Proof.Machine

/-- s with the deferral record replaced. -/
def State.setDeferral (s : State) (d : Option Deferral) : State := s.setSchedule { s.schedule with deferral := d }

/-- A SCHEDULE notice of kind DEFERRAL_END (R155, R157). -/
def deferralEndNotice (result : Nat) : Notice :=
  { cls := .schedule, kind := 3, subject := 0, result := result, extra := 0 }

/-- The deferral ends, if one is in progress (R155). -/
def State.endDeferral (s : State) (result : Nat) : State :=
  match s.schedule.deferral with
  | some _ => (s.setDeferral none).notify (deferralEndNotice result)
  | none => s

/-- An accepted floor or POWER command from PANEL or LOCAL sets quiet-from (R153). -/
def State.noteActivity (s : State) : State :=
  match s.schedule.deferral with
  | some d => s.setDeferral (some { d with quietFrom := s.uptime })
  | none => s

/-- Quiet minutes reach the grace setting, or age reaches 45 (R154). The minute named is not counted. -/
def Deferral.expired (d : Deferral) (uptime grace : Nat) : Bool :=
  d.quietFrom + 1 + grace ≤ uptime || d.start + 1 + Config.deferralCap ≤ uptime

/-- A LAMP_OFF accepted from a requester, or a ROOM_CLOSED lamp-off on its behalf, ends the deferral unless it is SCHEDULE's (R155). -/
def State.lampOffEndsDeferral (s : State) (r : Requester) : State :=
  if r = .schedule then s else s.endDeferral 1

end Sys2Proof.Machine
end

