-- ==== Sys2Proof/Machine/Lamp.lean ====
section
/-! DEFINITION. The lamp controller: strikes, cooldowns, the lamp commands, drop-out and overheat (R41 to R64). The end of a cooldown,
which powers the scaler down, is in LampRows.lean. -/

namespace Sys2Proof.Machine

/-! ## Notices (R64) -/

/-- A LAMP notice of kind STATE (R41, R64). -/
def lampStateNotice (l : LampState) (attempts : Nat) : Notice :=
  { cls := .lamp, kind := 1, subject := lampCode l, result := 0, extra := attempts }

/-- A LAMP notice of kind PENDING_DROPPED (R64). -/
def pendingDropped (a : LampAsker) : Notice :=
  { cls := .lamp, kind := 2, subject := askerCode a, result := Verdict.lockedOut.code, extra := 0 }

/-- A LAMP notice of kind DROP_OUT_FINAL (R64). -/
def dropOutFinal : Notice := { cls := .lamp, kind := 3, subject := 0, result := 0, extra := 0 }

/-! ## Changes of lamp state (R41, R47, R52) -/

/-- The number of the lamp timer's run once this timer is set: a timer that starts is a new run (log 6). -/
def Lamp.nextRun (l : Lamp) : Option Nat → Nat
  | some _ => l.run + 1
  | none => l.run

/-- The lamp enters a state with a timer, and STATE is raised (R41). -/
def State.enterLamp (s : State) (l : LampState) (timer : Option Nat) : State :=
  (s.setLamp { s.lamp with state := l, timer := timer, run := s.lamp.nextRun timer }).notify (lampStateNotice l s.lamp.attempts)

/-- A strike begins (R47). The scaler's power-up is reported to the engine when the action in progress is over (R135). -/
def State.strike (s : State) : State :=
  let n := if s.lamp.state = .retryPause then s.lamp.attempts + 1 else 1
  let powers := !s.scalerSupplied
  let s := s.setLamp { s.lamp with attempts := n, startUp := false }
  let s := if powers then s.setEngine { s.engine with powerUpOwed := true } else s
  (s.enterLamp .striking (some Config.strikeSeconds)).bookStrike

/-- The lamp enters COOLDOWN (R52): held records clear, the timer starts, the wear record is saved, STATE is raised. -/
def State.enterCooldown (s : State) (seconds : Nat) (faultPending : Bool) : State :=
  let s := s.setLamp { s.lamp with heldOff := false, heldLevel := none, faultPending := faultPending }
  (s.enterLamp .cooldown (some seconds)).bookCooldown

/-- The lamp comes to rest dark, in OFF or FAULT: the power session ends (R46, R53). -/
def State.enterRest (s : State) (l : LampState) : State :=
  let s := s.setLamp { s.lamp with restrikeUsed := false, faultPending := false, pendingOn := none, startUp := false }
  s.enterLamp l none

/-! ## Lamp commands (R54 to R56) -/

/-- An accepted LAMP_ON (R54). In FAULT it answers LOCKED_OUT and changes nothing: a recall handed the floor at the entry to FAULT meets
it there, before LAMP_LOCK is added (log 12, log 17). -/
def State.lampOn (s : State) (r : Requester) : State × Verdict :=
  match s.lamp.state with
  | .off => (s.strike, .started)
  | .striking | .retryPause | .lit => (s, .joined)
  | .warmup => (s.setLamp { s.lamp with heldOff := false }, .joined)
  | .cooldown => (s.setLamp { s.lamp with pendingOn := some (.requester r) }, .waiting)
  | .fault => (s, .lockedOut)

/-- An accepted LAMP_OFF, or a ROOM_CLOSED lamp-off (R55, R61). -/
def State.lampOff (s : State) : State × Verdict :=
  match s.lamp.state with
  | .off | .fault => (s, .done)
  | .striking | .retryPause | .lit => (s.enterCooldown Config.coolSeconds false, .done)
  | .warmup => (s.setLamp { s.lamp with heldOff := true }, .waiting)
  | .cooldown => (s.setLamp { s.lamp with pendingOn := none }, .done)

/-- An accepted SET_LAMP_LEVEL, with whether NORMAL was reduced to ECO (R56). -/
def State.lampLevel (s : State) (l : Level) : State × Verdict × Bool :=
  let a := s.allowedLevel l
  if s.lamp.state = .warmup then (s.setLamp { s.lamp with heldLevel := some a }, .waiting, a != l)
  else (s.setLamp { s.lamp with level := a }, .done, a != l)

/-- A SERVICE_LOCK coming into force drops a pending-on of anyone but SERVICE (R57). -/
def State.dropPendingOn (s : State) : State :=
  match s.lamp.pendingOn with
  | some a =>
    if a = .requester .service then s else (s.setLamp { s.lamp with pendingOn := none }).notify (pendingDropped a)
  | none => s

/-! ## Line events and timers (R48 to R51, R58, R59) -/

/-- The rise of LAMP_SENSE in STRIKING is success (R48). -/
def State.senseRise (s : State) : State :=
  if s.lamp.state = .striking then (s.enterLamp .warmup (some Config.warmupSeconds)).startLit else s

/-- The strike window expires (R49). -/
def State.strikeFails (s : State) : State :=
  if s.lamp.state ≠ .striking then s
  else if s.lamp.attempts < Config.maxAttempts then s.enterLamp .retryPause (some Config.retrySeconds)
  else s.enterCooldown Config.coolSeconds true

/-- The retry pause ends (R50). -/
def State.retryEnds (s : State) : State :=
  if s.lamp.state ≠ .retryPause then s
  else if s.inForce .lampLock then s.enterCooldown Config.coolSeconds false
  else s.strike

/-- The warm-up ends (R51): a held level is applied, LIT is entered, a held-off is acted on. -/
def State.warmupEnds (s : State) : State :=
  if s.lamp.state ≠ .warmup then s
  else
    let level := s.allowedLevel (s.lamp.heldLevel.getD s.lamp.level)
    let held := s.lamp.heldOff
    let s := s.setLamp { s.lamp with level := level, heldLevel := none, heldOff := false }
    let s := s.enterLamp .lit none
    if held then s.enterCooldown Config.coolSeconds false else s

/-- The decision after a drop-out's entry to COOLDOWN (R58); `held` says that held-off was set. Where restrike used is set as well, held-off
goes first and no DROP_OUT_FINAL is raised, which is the model's choice (log 40). -/
def State.decideRestrike (s : State) (held : Bool) : State :=
  if held then s
  else if s.lamp.restrikeUsed then s.notify dropOutFinal
  else if s.inForce .serviceLock then
    (s.setLamp { s.lamp with restrikeUsed := true }).notify (pendingDropped .lamp)
  else s.setLamp { s.lamp with restrikeUsed := true, pendingOn := some .lamp }

/-- The fall of LAMP_SENSE in WARMUP or LIT is a drop-out (R58). -/
def State.senseFall (s : State) : State :=
  match s.lamp.state with
  | .warmup | .lit => (s.bookDropOut.enterCooldown Config.coolSeconds false).decideRestrike s.lamp.heldOff
  | .off | .striking | .retryPause | .cooldown | .fault => s

/-- The lamp's part of an overheat, by lamp state (R59). -/
def State.heatLamp (s : State) : State :=
  match s.lamp.state with
  | .striking | .retryPause | .warmup | .lit => s.enterCooldown Config.hotSeconds false
  | .cooldown => s.setLamp { s.lamp with timer := some Config.hotSeconds, run := s.lamp.run + 1, pendingOn := none }
  | .off | .fault => s

/-- An overheat: the lamp is cooled and THERMAL_LOCK is added (R59). -/
def State.heat (s : State) : State := s.heatLamp.addThermal

end Sys2Proof.Machine
end

