-- ==== Sys2Proof/Machine/Transfer.lean ====
section
/-! DEFINITION. Recomputes and the transfer of band tables to the scaler (R107, R115 to R122), with the link's numbers (R91). -/

namespace Sys2Proof.Machine

/-- The link number after n: 1..255, then 1 (R91). -/
def nextLink (n : Nat) : Nat := if n < 255 then n + 1 else 1

/-- A request takes the next link number (R91). -/
def State.bumpLink (s : State) : State := s.setEngine { s.engine with linkNext := nextLink s.engine.linkNext }

/-- A TABLE request is sent with the next sequence number; the table becomes the table in transfer (R118). -/
def State.sendTable (s : State) (t : BandTable) : State :=
  let g := s.geo
  (s.setGeo { g with inTransfer := some { num := s.engine.linkNext, seq := g.nextSeq, table := t },
                     nextSeq := (g.nextSeq + 1) % 256 }).bumpLink

/-- The newest handed table (R118). -/
def Geometry.newest (g : Geometry) : Option BandTable :=
  match g.pendingTable, g.inTransfer with
  | some t, _ => some t
  | none, some x => some x.table
  | none, none => g.scalerTable

/-- A recompute's result is handed towards the scaler (R118); a forced one skips the comparison (R116). -/
def State.hand (s : State) (t : BandTable) (forced : Bool) : State :=
  if !s.engine.powered then s
  else if !forced ∧ s.geo.newest = some t then s
  else if s.geo.inTransfer.isNone then s.sendTable t
  else s.setGeo { s.geo with pendingTable := some t }

/-- The table for what a recompute reads: the active profile's effective pair and the routed input's class (R107). -/
def State.computed (s : State) : BandTable := bandTable (s.effectivePair s.profiles.active) s.routedAspect

/-- A recompute (R107, R115); `forced` is the recompute of an entry to APPLYING (R116). -/
def State.recompute (s : State) (forced : Bool) : State :=
  (s.setGeo { s.geo with last := s.computed }).hand s.computed forced

/-- The input monitor tells the geometry unit of a change of the routed input's class since `old` (R86, R115). -/
def State.tellAspect (s : State) (old : AspectClass) : State := if s.routedAspect = old then s else s.recompute false

/-- The condition APPLYING waits for: no table pending and none in transfer (R122). -/
def State.tableSettled (s : State) : Bool := s.geo.inTransfer.isNone && s.geo.pendingTable.isNone

/-- The table in transfer is acknowledged (R119): it becomes the scaler table, and a pending table is sent. -/
def State.tableApplied (s : State) (t : Transfer) : State :=
  let s' := s.setGeo { s.geo with scalerTable := some t.table, inTransfer := none, pendingTable := none }
  match s.geo.pendingTable with
  | some q => s'.sendTable q
  | none => s'

/-- A SCALER notice of kind NO_ANSWER (R102, R120). -/
def noAnswer (kind extra : Nat) : Notice := { cls := .scaler, kind := 1, subject := kind, result := 0xA4, extra := extra }

/-- The table in transfer goes unanswered (R120). -/
def State.tableLost (s : State) (t : Transfer) : State :=
  (s.setGeo { s.geo with inTransfer := none, pendingTable := none, scalerTable := none }).notify (noAnswer 4 t.seq)

/-- The transfer state when the scaler becomes unpowered (R121). -/
def State.dropTables (s : State) : State :=
  s.setGeo { s.geo with inTransfer := none, pendingTable := none, scalerTable := none }

end Sys2Proof.Machine
end

