-- ==== Sys2Proof/Machine/Engine.lean ====
section
/-! DEFINITION. The switch engine up to the end of a switch: source records, blank control, the switch sequence, lock attempts,
selection (R83 to R101). The completion of a switch, which runs the floor's unit end, is in Switch.lean. -/

namespace Sys2Proof.Machine

/-! ## Source records (R84 to R87) -/

/-- s with one source record replaced. -/
def State.setSource (s : State) (n : InputIdx) (c : Source) : State := s.setSources (s.sources.set n c)

/-- An input's timing is cleared (R85). -/
def State.clearTiming (s : State) (n : InputIdx) : State := s.setSource n { s.source n with timing := none }

/-- An input's quick lock is invalidated (R87). -/
def State.forget (s : State) (n : InputIdx) : State := s.setSource n { s.source n with remembered := none }

/-- A SOURCE notice of kind PRESENCE (R84, R105). -/
def presenceNotice (n : InputIdx) (present : Bool) : Notice :=
  { cls := .source, kind := 3, subject := inputCode n, result := if present then 1 else 0, extra := 0 }

/-- A SOURCE notice of kind SWITCH_END (R99, R105). -/
def switchEnd (n : InputIdx) (result : Nat) (r : Option Requester) : Notice :=
  { cls := .source, kind := 1, subject := inputCode n, result := result, extra := requesterOrNone r }

/-- A SOURCE notice of kind PREEMPTED (R30, R100). -/
def preempted (r : Requester) (asked : Nat) : Notice :=
  { cls := .source, kind := 2, subject := requesterCode r, result := 0xA2, extra := asked }

/-- The results of a switch (R20, R99). -/
inductive SwitchResult where
  | switched | noLock | aborted | scalerFault
  deriving DecidableEq, Repr

/-- The code of a switch result (R20). -/
def SwitchResult.code : SwitchResult → Nat
  | .switched => 0xA0
  | .noLock => 0xA1
  | .aborted => 0xA3
  | .scalerFault => 0xA4

/-! ## The blank control (R92) -/

/-- A blank request goes out (R91, R92). -/
def State.sendBlank (s : State) (k : BlankKind) : State :=
  (s.setEngine { s.engine with blankReq := some { kind := k, num := s.engine.linkNext } }).bumpLink

/-- The blank control compares the blank record with the composition, no blank request being outstanding (R92). -/
def State.compareBlank (s : State) : State :=
  if !s.engine.powered ∨ s.engine.blankReq.isSome then s
  else if s.composition ∧ s.engine.blank ≠ .blanked then s.sendBlank .blank
  else if !s.composition ∧ s.engine.blank ≠ .unblanked then s.sendBlank .unblank
  else s

/-- The blank control acts when the composition has changed since it last looked (R92). -/
def State.watchBlank (s : State) : State :=
  if s.composition = s.engine.compHeld then s
  else (s.setEngine { s.engine with compHeld := s.composition }).compareBlank

/-! ## Lock attempts (R96) -/

/-- s with the in-flight switch replaced. -/
def State.setInFlight (s : State) (w : Option Switch) : State := s.setEngine { s.engine with inFlight := w }

/-- A lock attempt on the target begins: LOCK is sent and its window starts (R96). A LOCK still outstanding is abandoned. -/
def State.attempt (s : State) (w : Switch) (m : LockMode) : State :=
  let offered := match m with | .quick => (s.source w.target).remembered | .full => none
  let ms := match m with | .quick => Config.quickWindow | .full => Config.fullWindow
  (s.setEngine { s.engine with
    inFlight := some { w with lockMode := some m, window := some ms },
    lockReq := some { num := s.engine.linkNext, mode := m, timing := offered } }).bumpLink

/-- The entry to LOCKING: the overall limit starts and the first attempt is quick if the quick lock is valid (R96). -/
def State.enterLocking (s : State) (w : Switch) : State :=
  let m := if (s.source w.target).remembered.isSome then LockMode.quick else LockMode.full
  (s.setEngine { s.engine with state := .locking }).attempt { w with limit := some s.engine.linkNext } m

/-! ## The switch sequence (R94, R95, R98) -/

/-- ROUTING, as one action, and the entry to LOCKING (R95). The class change is judged over the whole action (log 21). -/
def State.route (s : State) (w : Switch) : State :=
  let old := s.routedAspect
  let s := if s.engine.routed = w.target then s else s.clearTiming s.engine.routed
  let s := (s.setEngine { s.engine with selected := w.target, routed := w.target }).clearTiming w.target
  (s.tellAspect old).watchBlank.enterLocking w

/-- MUTING ends when the blank record is BLANKED and no blank request is outstanding (R95). -/
def State.endMuting (s : State) : State :=
  match s.engine.inFlight with
  | some w =>
    if s.engine.state = .muting ∧ s.engine.blank = .blanked ∧ s.engine.blankReq.isNone then s.route w else s
  | none => s

/-- The entry to APPLYING, with its forced recompute (R98, R116). The lock attempt is over. -/
def State.enterApplying (s : State) (w : Switch) : State :=
  (s.setEngine { s.engine with state := .applying, lockReq := none,
                               inFlight := some { w with window := none, limit := none } }).recompute true

/-- A switch starts (R94): an APPLY enters APPLYING, any other enters MUTING with the picture to be blanked. -/
def State.startSwitch (s : State) (kind : SwitchKind) (target : InputIdx) (r : Option Requester) : State :=
  let w : Switch := { kind := kind, target := target, requester := r, lockMode := none, window := none, limit := none }
  let s := s.setEngine { s.engine with inFlight := some w, owedRelock := false }
  if kind = .apply then s.enterApplying w
  else
    ((s.setEngine { s.engine with state := .muting, switchCond := true, compHeld := true }).compareBlank).endMuting

/-- A wanted relock, treated by engine state (R101); in LOCKING the attempt is restarted, full (R97). -/
def State.wantRelock (s : State) : State :=
  match s.engine.state, s.engine.inFlight with
  | .idle, _ => s.startSwitch .relock s.engine.routed none
  | .locking, some w => s.attempt w .full
  | .applying, _ => s.setEngine { s.engine with owedRelock := true }
  | .unmuting, _ => s.setEngine { s.engine with owedRelock := true }
  | .muting, _ => s
  | .routing, _ => s
  | .locking, none => s

/-! ## Selection (R93, R100) -/

/-- The recall in flight whose input is this pending target's ends by displacement (R136). -/
def State.endRecall (s : State) (n : InputIdx) : State :=
  match s.recallNow with
  | some c => if c.input = n then s.setRecallNow none else s
  | none => s

/-- A pending target is displaced, with PREEMPTED (R100); a recall it carried ends (R136). -/
def State.displaceTarget (s : State) : State :=
  match s.engine.pendingTarget with
  | some q => ((s.setEngine { s.engine with pendingTarget := none }).notify (preempted q.requester (inputCode q.input))).endRecall q.input
  | none => s

/-- A busy engine is asked for input n: it joins, takes over the pending target, or places one (R93). -/
def State.askBusy (s : State) (w : Switch) (r : Requester) (n : InputIdx) : State × Verdict :=
  if n = w.target then (s.displaceTarget, .joined)
  else if s.engine.pendingTarget.map PendingTarget.input = some n then
    (s.setEngine { s.engine with pendingTarget := some { input := n, requester := r } }, .waiting)
  else
    let s := s.displaceTarget
    (s.setEngine { s.engine with pendingTarget := some { input := n, requester := r } }, .waiting)

/-- The picture of input n stands and the blank record is known (R93, R135). -/
def State.standing (s : State) (n : InputIdx) : Bool := s.routedAndLocked n && s.engine.blank != .unknown

/-- An accepted SELECT_INPUT (R93). -/
def State.selectInput (s : State) (r : Requester) (n : InputIdx) : State × Verdict :=
  if !s.engine.powered then (s.setEngine { s.engine with selected := n }, .done)
  else
    match s.engine.inFlight with
    | some w => s.askBusy w r n
    | none => if s.standing n then (s, .done) else (s.startSwitch .select n (some r), .started)

/-! ## Mute (R104) -/

/-- User mute takes a value; the blank composition acts at once (R104). -/
def State.mute (s : State) (m : Bool) : State := (s.setEngine { s.engine with userMute := m }).watchBlank

end Sys2Proof.Machine
end

