-- ==== Sys2Proof/Machine/Profiles.lean ====
section
/-! DEFINITION. Profiles, trial slots and scenes: their writes and what the geometry unit is told (R123 to R131), and the stored
settings of an input (R88, R89). -/

namespace Sys2Proof.Machine

/-! ## Places -/

/-- s with one stored profile replaced (R123). -/
def State.setStored (s : State) (p : ProfileIdx) (k : Keystone) : State :=
  s.setProfiles { s.profiles with stored := s.profiles.stored.set p k }

/-- s with one trial slot replaced (R126). -/
def State.setSlot (s : State) (t : SlotIdx) (x : Option Trial) : State :=
  s.setProfiles { s.profiles with slots := s.profiles.slots.set t x }

/-- Slot t is the winning slot of the active profile (R126). -/
def State.winsActive (s : State) (t : SlotIdx) : Bool := s.winner s.profiles.active == some t

/-- The geometry unit is told when the active profile's effective pair is no longer `old` (R125). -/
def State.tellPair (s : State) (old : Keystone) : State :=
  if s.effectivePair s.profiles.active = old then s else s.recompute false

/-! ## Keystone writes (R125) -/

/-- A pair is written for profile p: to the winning slot, or to the stored profile, whose record is queued (R125). -/
def State.writePair (s : State) (p : ProfileIdx) (k : Keystone) : State :=
  let old := s.effectivePair s.profiles.active
  match s.winner p with
  | some t => (s.setSlot t (some { target := p, pair := k })).tellPair old
  | none => ((s.setStored p k).queueRecord (.profile p)).tellPair old

/-- A nudge of profile p, with whether it was clamped (R110, R125). -/
def State.nudgePair (s : State) (p : ProfileIdx) (d : Direction) : State × Bool :=
  let r := nudge (s.effectivePair p) d
  (s.writePair p r.1, r.2)

/-- The active profile index becomes p, with a recompute when it changes (R124). -/
def State.selectProfile (s : State) (p : ProfileIdx) : State :=
  if s.profiles.active = p then s else (s.setProfiles { s.profiles with active := p }).recompute false

/-! ## Trial slots (R127 to R129) -/

/-- DISCARD_TRIAL (R129): the recompute is made when the slot was the active profile's winning slot. -/
def State.discardTrial (s : State) (t : SlotIdx) : State :=
  match s.slot t with
  | none => s
  | some _ => if s.winsActive t then (s.setSlot t none).recompute false else s.setSlot t none

/-- The slot takes the effective pair of p and is enabled with that target (R127, steps 2 and 3). -/
def State.enableTrial (s : State) (t : SlotIdx) (p : ProfileIdx) : State :=
  let s' := s.setSlot t (some { target := p, pair := s.effectivePair p })
  if s'.winsActive t then s'.recompute false else s'

/-- OPEN_TRIAL (R127). -/
def State.openTrial (s : State) (t : SlotIdx) (p : ProfileIdx) : State := (s.discardTrial t).enableTrial t p

/-- COMMIT_TRIAL of an enabled slot (R128). -/
def State.commitTrial (s : State) (t : SlotIdx) : State :=
  match s.slot t with
  | none => s
  | some x =>
    let s' := ((s.setStored x.target x.pair).queueRecord (.profile x.target)).setSlot t none
    if s.winsActive t then s'.recompute false else s'

/-! ## Scenes (R131) -/

/-- The level of a scene that stores the lamp level l (R131). -/
def sceneLevelOf : Level → SceneLevel
  | .normal => .normal
  | .eco => .eco

/-- What STORE_SCENE takes (R131). -/
def State.sceneNow (s : State) : Scene :=
  { input := s.engine.routed, profile := s.profiles.active, mute := s.engine.userMute, level := sceneLevelOf s.lamp.level,
    power := .on }

/-- STORE_SCENE (R131). -/
def State.storeScene (s : State) (k : SceneIdx) : State :=
  (s.setScenes (s.scenes.set k s.sceneNow)).queueRecord (.scene k)

/-! ## Stored settings of an input (R88, R89) -/

/-- SET_SOURCE_ASPECT (R88). -/
def State.setAspect (s : State) (n : InputIdx) (o : AspectOverride) : State :=
  let c := s.source n
  let t := s.setSource n { c with settings := { c.settings with aspect := o }, remembered := none }
  (t.tellAspect s.routedAspect).queueRecord (.source n)

/-- SET_INPUT_ENABLE (R89). -/
def State.setEnable (s : State) (n : InputIdx) (enabled : Bool) (role : Nat) : State :=
  let c := s.source n
  (s.setSource n { c with settings := { c.settings with enabled := enabled, role := role } }).queueRecord (.source n)

end Sys2Proof.Machine
end

