-- ==== Sys2Proof/Machine/Intake.lean ====
section
/-! DEFINITION. Intake: the checks of steps 4 to 8, 10 and 11 (R10 to R16). Step 9 is the floor's, in Floor.lean. -/

namespace Sys2Proof.Machine

/-! ## Step 4 (R12) -/

/-- SCHEDULE's fixed authority: PRESENT and POWER (R6). -/
def scheduleClasses : ClassSet := 0b0000110#7

/-- A requester's authority (R6, R8). -/
def State.classesOf (s : State) : Requester → ClassSet
  | .service => s.authority.service
  | .campus => s.authority.campus
  | .schedule => scheduleClasses
  | .panel => s.authority.panel
  | .console => s.authority.console

/-- The command's class is in the requester's authority (R12). -/
def State.mayUse (s : State) (r : Requester) (c : Code) : Bool := (s.classesOf r).getLsbD (classBit (codeClass c))

/-- A requester is SERVICE or CAMPUS (R12). -/
def trusted : Requester → Bool
  | .service | .campus => true
  | .schedule | .panel | .console => false

/-- The payload's entry index names a protected entry (R12). -/
def State.protectedAt (s : State) (k : Nat) : Bool :=
  match indexOf 24 k with
  | some e => s.schedule.entries[e].isProtected
  | none => false

/-- The conditions step 4 ties to particular commands (R12). -/
def State.conditionsHold (s : State) (r : Requester) (c : Code) (pl : List Byte) : Bool :=
  match c with
  | .setLockout => byteAt pl 0 != lockKindCode .serviceLock || r == .service
  | .writeEntry | .eraseEntry => !s.protectedAt (byteAt pl 0) || trusted r
  | .protectEntry => trusted r
  | _ => true

/-! ## Steps 5 and 6 (R13) -/

/-- Step 5 refuses: SERVICE_LOCK against all but SERVICE, VIEW apart (R13). -/
def State.lockedOut5 (s : State) (r : Requester) (c : Code) : Bool :=
  s.inForce .serviceLock && r != .service && codeClass c != .view

/-- What PANEL_HOLD refuses to PANEL and LOCAL (R13). -/
def heldFromPanel (c : Code) : Bool :=
  codeClass c == .present || codeClass c == .adjust || c == .lampOff || c == .setLampLevel

/-- Step 6 refuses (R13, R161). -/
def State.lockedOut6 (s : State) (r : Requester) (c : Code) : Bool :=
  (s.inForce .panelHold && atLectern r && heldFromPanel c)
    || (c == .lampOn && ((s.inForce .roomClosed && 3 ≤ rank r) || s.inForce .lampLock || s.inForce .thermalLock))

/-! ## Step 7, the checks that read the state (R14, R93, R132) -/

/-- An input is enabled (R83). -/
def State.enabled (s : State) (n : InputIdx) : Bool := (s.source n).settings.enabled

/-- The owners' value checks: an input selected or recalled is enabled (R93, R132). -/
def State.valuesOk (s : State) : Cmd → Bool
  | .selectInput n => s.enabled n
  | .recallScene k => s.enabled s.scenes[k].input
  | _ => true

/-! ## Step 8 (R15) -/

/-- The lamp state lets a replacement be made (R63, R78). -/
def State.lampDark (s : State) : Bool := s.lamp.state == .off || s.lamp.state == .fault

/-- The owners' state checks (R54, R78, R79, R128). -/
def State.stateOk (s : State) : Cmd → Bool
  | .lampOn => !s.replacing
  | .commitTrial t => (s.slot t).isSome
  | .replaceLamp .new _ => s.lampDark && !s.replacing
  | .replaceLamp .reinstate _ => s.lampDark && !s.replacing && !s.expiredLocked
  | _ => true

/-! ## Steps 10 and 11 (R16) -/

/-- What a command asks of the store at step 10: nothing, only that no fault stands, or a place for a record as well. -/
inductive StoreNeed where
  | nothing
  | noFault
  | place (r : RecordId)
  deriving DecidableEq, Repr

/-- A MANUAL record of kind k set by a requester of r's rank or weaker, which r may clear (R164). -/
def clearable (r : Requester) (k : LockKind) (l : Lockout) : Bool :=
  l.kind == k && (match l.origin with
    | .manual q => rank r ≤ rank q
    | .schedule _ | .lamp | .thermal => false)

/-- What each command asks of the store (R16, R125, R128, R163, R164). -/
def State.storeNeed (s : State) (r : Requester) : Cmd → StoreNeed
  | .writeAuthority _ _ => .place .authority
  | .setRatedLife _ | .setGrace _ | .setIrRoom _ => .place .config
  | .setSourceAspect n _ | .setInputEnable n _ _ => .place (.source n)
  | .setKeystone p _ | .nudgeKeystone p _ => if (s.winner p).isSome then .nothing else .place (.profile p)
  | .commitTrial t =>
    match s.slot t with
    | some x => .place (.profile x.target)
    | none => .nothing
  | .storeScene k => .place (.scene k)
  | .writeEntry e _ | .eraseEntry e | .protectEntry e _ => .place (.entry e)
  | .setLockout k _ => if k = .serviceLock then .place .lockout else .nothing
  | .clearLockout k =>
    if k = .serviceLock then
      if s.lockouts.any (clearable r k) then .place .lockout else .noFault
    else .nothing
  | .replaceLamp _ _ => .noFault
  | _ => .nothing

/-- Step 10 (R16). -/
def State.storeRefuses (s : State) (n : StoreNeed) : Option Verdict :=
  match n with
  | .nothing => none
  | .noFault => if s.store.fault then some .storeFault else none
  | .place r =>
    if s.store.fault then some .storeFault
    else if r ∉ s.store.queue ∧ Config.queuePlaces ≤ s.store.queue.length then some .storeBusy
    else none

/-- A record is of MANUAL origin (R159). -/
def Lockout.byHand (l : Lockout) : Bool :=
  match l.origin with
  | .manual _ => true
  | .schedule _ | .lamp | .thermal => false

/-- The record of kind k that requester r has set by hand, as a test (R163). -/
def ownRecord (r : Requester) (k : LockKind) (l : Lockout) : Bool := l.kind == k && l.origin == .manual r

/-- Step 11: SET_LOCKOUT of a new pair with five MANUAL records present (R16). -/
def State.setIsFull (s : State) (r : Requester) : Cmd → Bool
  | .setLockout k _ =>
    !s.lockouts.any (ownRecord r k) && Config.manualPlaces ≤ (s.lockouts.filter Lockout.byHand).length
  | _ => false

/-- Steps 10 and 11: the refusal, if any (R16). -/
def State.lateRefusal (s : State) (r : Requester) (c : Cmd) : Option Verdict :=
  match s.storeRefuses (s.storeNeed r c) with
  | some v => some v
  | none => if s.setIsFull r c then some .setFull else none

/-! ## The checks in order -/

/-- Steps 7, for what reads the state, and 8: the refusal, if any. -/
def State.ownerRefusal (s : State) (c : Cmd) : Option Verdict :=
  if !s.valuesOk c then some .badValue else if !s.stateOk c then some .wrongState else none

/-- Steps 4 to 8 for a command inside the part (R6): the refusal, if any. -/
def State.innerRefusal (s : State) (r : Requester) (c : Cmd) : Option Verdict :=
  if !s.mayUse r (cmdCode c) then some .noAuthority
  else if s.lockedOut5 r (cmdCode c) || s.lockedOut6 r (cmdCode c) then some .lockedOut
  else s.ownerRefusal c

/-- Steps 4 to 8 for a frame: the command with its values in range and whether one was clamped, or the refusal (R10). -/
def State.checkFrame (s : State) (r : Requester) (c : Code) (pl : List Byte) : Except Verdict (Cmd × Bool) :=
  if !(s.mayUse r c && s.conditionsHold r c pl) then .error .noAuthority
  else if s.lockedOut5 r c || s.lockedOut6 r c then .error .lockedOut
  else
    match parseCmd c pl with
    | none => .error .badValue
    | some x =>
      match s.ownerRefusal x.1 with
      | some v => .error v
      | none => .ok x

/-- Steps 6 to 8, 10 and 11 as they are run again at hand-over (R34): the refusal, if any. -/
def State.handOverRefusal (s : State) (r : Requester) (c : Cmd) : Option Verdict :=
  if s.lockedOut6 r (cmdCode c) then some .lockedOut
  else
    match s.ownerRefusal c with
    | some v => some v
    | none => s.lateRefusal r c

/-- A refusal with nothing else to say (R10). -/
def refusal (v : Verdict) : Reply := { verdict := v }

end Sys2Proof.Machine
end

