-- ==== Sys2Proof/Machine/Floor.lean ====
section
/-! DEFINITION. The presentation floor: decisions, units, recalls, hand-over, release (R25 to R40, R132 to R137), and the lamp commands as
their owner runs them for a requester (R54 to R56, R153, R155). -/

namespace Sys2Proof.Machine

/-! ## Notices (R30, R39) -/

/-- A FLOOR notice of kind HOLDER (R39). -/
def holderNotice (f : Floor) : Notice :=
  { cls := .floor, kind := 1, subject := requesterOrNone f.holder, result := 0, extra := if f.hold then 1 else 0 }

/-- A FLOOR notice of kind ELECT_REFUSED (R34). -/
def electRefused (r : Requester) (v : Verdict) (c : Cmd) : Notice :=
  { cls := .floor, kind := 2, subject := requesterCode r, result := v.code, extra := (codeByte (cmdCode c)).toNat }

/-- A FLOOR notice of kind ELECT_DROPPED; `result` is an outcome code, or 0 for a port reset (R39). -/
def electDropped (r : Requester) (result : Nat) (c : Cmd) : Notice :=
  { cls := .floor, kind := 3, subject := requesterCode r, result := result, extra := (codeByte (cmdCode c)).toNat }

/-- The extra field of an elect's PREEMPTED: its input, its scene, or 0 (R30). -/
def askedOf : Cmd → Nat
  | .selectInput n => inputCode n
  | .recallScene k => k.val
  | _ => 0

/-- HOLDER is raised when the holder or HOLD differs from what it was (R39). -/
def State.tellHolder (s : State) (before : Floor) : State :=
  if s.floor.holder = before.holder ∧ s.floor.hold = before.hold then s else s.notify (holderNotice s.floor)

/-! ## The elect (R30, R32, R36, R38) -/

/-- s with the elect replaced. -/
def State.setElect (s : State) (e : Option (Requester × Cmd)) : State := s.setFloor { s.floor with elect := e }

/-- The elect is dropped, with ELECT_DROPPED (R39). -/
def State.dropElect (s : State) (result : Nat) : State :=
  match s.floor.elect with
  | some (r, c) => (s.setElect none).notify (electDropped r result c)
  | none => s

/-- HOLD has become set: an elect weaker than the holder is dropped (R32). -/
def State.holdDropsElect (s : State) : State :=
  match s.floor.holder, s.floor.elect with
  | some h, some (e, _) => if stronger h e then s.dropElect Verdict.floorHeld.code else s
  | _, _ => s

/-- A competitor that wins the elect place displaces the elect there, with PREEMPTED (R30). -/
def State.becomeElect (s : State) (r : Requester) (c : Cmd) : State :=
  match s.floor.elect with
  | some (e, old) => (s.setElect (some (r, c))).notify (preempted e (askedOf old))
  | none => s.setElect (some (r, c))

/-! ## Lamp commands for a requester (R54 to R56, R153, R155) -/

/-- An accepted command of PANEL or LOCAL counts as activity (R153, log 22). -/
def State.touch (s : State) (r : Requester) : State := if atLectern r then s.noteActivity else s

/-- LAMP_ON acted on for a requester. -/
def State.runLampOn (s : State) (r : Requester) : State × Reply :=
  let x := (s.touch r).lampOn r
  (x.1, { verdict := x.2 })

/-- LAMP_OFF acted on for a requester; it ends the deferral first (log 13). -/
def State.runLampOff (s : State) (r : Requester) : State × Reply :=
  let x := ((s.touch r).lampOffEndsDeferral r).lampOff
  (x.1, { verdict := x.2 })

/-- SET_LAMP_LEVEL acted on for a requester. -/
def State.runLampLevel (s : State) (r : Requester) (l : Level) : State × Reply :=
  let x := (s.touch r).lampLevel l
  (x.1, { verdict := x.2.1, clamped := x.2.2 })

/-! ## Scene recall (R132 to R136) -/

/-- A lamp command that a recall issues passes steps 4, 6 and 8 for the recall's requester (R133). -/
def State.issuePasses (s : State) (r : Requester) (c : Cmd) : Bool :=
  s.mayUse r (cmdCode c) && !s.lockedOut6 r (cmdCode c) && s.stateOk c

/-- Step 1 of a recall: power (R133). -/
def State.recallPower (s : State) (r : Requester) (p : ScenePower) : State :=
  match p, s.lamp.state with
  | .on, .off | .on, .cooldown | .on, .fault => if s.issuePasses r .lampOn then (s.lampOn r).1 else s
  | .on, .striking | .on, .retryPause | .on, .warmup | .on, .lit => s
  | .keep, _ => s

/-- The level a scene asks for, if any (R130). -/
def sceneAsks : SceneLevel → Option Level
  | .normal => some .normal
  | .eco => some .eco
  | .keep => none

/-- Step 2 of a recall: level, with whether it was reduced (R133). -/
def State.recallLevel (s : State) (r : Requester) (l : SceneLevel) : State × Bool :=
  match sceneAsks l with
  | some l => if s.issuePasses r (.setLampLevel l) then ((s.lampLevel l).1, (s.lampLevel l).2.2) else (s, false)
  | none => (s, false)

/-- A recall that joins the switch in flight to n becomes its requester, for whom SWITCH_END is raised (R135, R136, log 38). -/
def State.joinRecall (s : State) (w : Switch) (r : Requester) (n : InputIdx) : State :=
  if n = w.target then s.setInFlight (some { w with requester := some r }) else s

/-- Step 5 of a recall, by the table of R135. -/
def State.recallInput (s : State) (r : Requester) (n : InputIdx) (indexChanged : Bool) : State × Verdict :=
  if !s.engine.powered then (s.setEngine { s.engine with selected := n }, .done)
  else
    match s.engine.inFlight with
    | some w => ((s.askBusy w r n).1.joinRecall w r n, .started)
    | none =>
      if !s.standing n then (s.startSwitch .select n (some r), .started)
      else if indexChanged then (s.startSwitch .apply n (some r), .started)
      else (s, .done)

/-- The recall record is taken when step 5 leaves a switch carrying the scene's input (R132, R136). -/
def State.takeRecall (s : State) (k : SceneIdx) (r : Requester) (n : InputIdx) (v : Verdict) : State :=
  if v = .started then s.setRecallNow (some { scene := k, requester := r, input := n }) else s

/-- A recall carried out for its requester, in five steps (R132 to R135, log 15). -/
def State.runRecall (s : State) (r : Requester) (k : SceneIdx) : State × Reply :=
  let c := s.scenes[k]
  let a := (s.recallPower r c.power).recallLevel r c.level
  let m := a.1.mute c.mute
  let x := (m.selectProfile c.profile).recallInput r c.input (m.profiles.active != c.profile)
  (x.1.takeRecall k r c.input x.2, { verdict := x.2, clamped := a.2 })

/-! ## Owners of floor commands (R26, R27) -/

/-- The owner's action on a floor command that proceeds for r; no other command is a floor command (R26). -/
def State.ownerActs (s : State) (r : Requester) : Cmd → State × Reply
  | .selectInput n => ((s.selectInput r n).1, { verdict := (s.selectInput r n).2 })
  | .recallScene k => s.runRecall r k
  | .setMute => (s.mute true, { verdict := .done })
  | .clearMute => (s.mute false, { verdict := .done })
  | .selectProfile p => (s.selectProfile p, { verdict := .done })
  | .setKeystone p k => (s.writePair p k, { verdict := .done })
  | .nudgeKeystone p d => ((s.nudgePair p d).1, { verdict := .done, clamped := (s.nudgePair p d).2 })
  | _ => (s, { verdict := .done })

/-- The answers that set the unit marker (R27). -/
def marks : Cmd → Verdict → Bool
  | .selectInput _, .started | .selectInput _, .joined | .selectInput _, .waiting => true
  | .recallScene _, .started => true
  | _, _ => false

/-- The unit marker is set when the owner took the command in one of the ways of R27. -/
def State.mark (s : State) (c : Cmd) (v : Verdict) : State :=
  if marks c v then s.setFloor { s.floor with marker := true } else s

/-- A floor command proceeds for r, who is the holder: HOLD_FLOOR sets HOLD, HOLDER is raised if the floor differs from `before`,
and the owner acts (R27, R31, R32). HOLDER comes before the ELECT_DROPPED of a weaker elect (log 36). -/
def State.proceed (s : State) (before : Floor) (r : Requester) (c : Cmd) : State × Reply :=
  if c = .holdFloor then
    let t := (s.setFloor { s.floor with hold := true }).tellHolder before
    (if s.floor.hold then t else t.holdDropsElect, { verdict := .done })
  else
    let x := (s.tellHolder before).ownerActs r c
    (x.1.mark c x.2.verdict, x.2)

/-- The floor passes to r (R31). -/
def State.passFloor (s : State) (r : Requester) : State := s.setFloor { s.floor with holder := some r, hold := false }

/-! ## Decisions (R28 to R30) -/

/-- The results of step 9: proceed as the holder, proceed with a passage, become the elect, or a refusal. -/
inductive FloorStep where
  | own | pass | wait | held | busy
  deriving DecidableEq, Repr

/-- A command that competes for elect (R30). -/
def State.compete (s : State) (r : Requester) : FloorStep :=
  match s.floor.elect with
  | none => .wait
  | some (e, _) => if stronger r e then .wait else .busy

/-- Step 9 for a floor command of r (R28, R29). -/
def State.decide (s : State) (r : Requester) : FloorStep :=
  match s.floor.holder with
  | none => if s.floor.marker then s.compete r else .pass
  | some h =>
    if h = r then .own
    else if s.floor.hold ∧ stronger h r then .held
    else if s.floor.marker then s.compete r else .pass

/-- A floor command is one of those R26 lists; a keystone command is one when it names the active profile. -/
def State.isFloor (s : State) : Cmd → Bool
  | .selectInput _ | .recallScene _ | .setMute | .clearMute | .selectProfile _ | .holdFloor => true
  | .setKeystone p _ | .nudgeKeystone p _ => s.profiles.active == p
  | _ => false

/-- A floor command of r from step 9 on (R15, R31): the decision, steps 10 and 11, and what the decision makes of it. -/
def State.floorIntake (s : State) (r : Requester) (c : Cmd) : State × Reply :=
  match s.decide r with
  | .held => (s, refusal .floorHeld)
  | .busy => (s, refusal .floorBusy)
  | d =>
    match s.lateRefusal r c with
    | some v => (s, refusal v)
    | none =>
      match d with
      | .wait => ((s.touch r).becomeElect r c, { verdict := .waiting })
      | .pass => ((s.touch r).passFloor r).proceed s.floor r c
      | _ => (s.touch r).proceed s.floor r c

/-! ## Hand-over, unit end, release (R33 to R38) -/

/-- Hand-over to the elect, if there is one, and the HOLDER notice against the floor `before` (R33, R34, log 11). -/
def State.handOver (s : State) (before : Floor) : State :=
  match s.floor.elect with
  | none => s.tellHolder before
  | some (r, c) =>
    match s.handOverRefusal r c with
    | some v => ((s.setElect none).notify (electRefused r v c)).tellHolder before
    | none => (((s.setElect none).passFloor r).proceed before r c).1

/-- The holder is freed (R33, R35, R37). -/
def State.freeFloor (s : State) : State := s.setFloor { s.floor with holder := none, hold := false }

/-- The holder is barred (R33). -/
def State.holderBarred (s : State) : Bool :=
  match s.floor.holder with
  | some h => s.barred h
  | none => false

/-- The unit-end processing after the marker has cleared (R33). -/
def State.unitEnd (s : State) : State := (if s.holderBarred then s.freeFloor else s).handOver s.floor

/-- The unit marker clears, if it is set, and the unit-end processing follows (R27, R33). -/
def State.chainEnds (s : State) : State :=
  if s.floor.marker then (s.setFloor { s.floor with marker := false }).unitEnd else s

/-- The floor is released by its holder (R35). -/
def State.releaseBy (s : State) (r : Requester) : State :=
  if s.floor.holder = some r then s.freeFloor.handOver s.floor else s

/-- What a port reset does to the standing of the port's requester (R38). -/
def State.loseStanding (s : State) (r : Requester) : State :=
  if s.floor.holder = some r then s.freeFloor.handOver s.floor
  else
    match s.floor.elect with
    | some (e, _) => if e = r then s.dropElect 0 else s
    | none => s

/-- A requester that a kind bars from the floor (R33). -/
def barredBy (k : LockKind) (r : Requester) : Bool :=
  match k with
  | .panelHold => atLectern r
  | .serviceLock => r != .service
  | .roomClosed | .lampLock | .thermalLock => false

/-- The elect is dropped when the kind coming into force bars it (R36). -/
def State.dropBarredElect (s : State) (k : LockKind) : State :=
  match s.floor.elect with
  | some (e, _) => if barredBy k e then s.dropElect Verdict.lockedOut.code else s
  | none => s

/-- The holder is freed at once when the kind coming into force bars it and no unit is in flight (R37). -/
def State.freeBarredHolder (s : State) (k : LockKind) : State :=
  match s.floor.holder with
  | some h => if barredBy k h && !s.floor.marker then s.freeFloor.tellHolder s.floor else s
  | none => s

end Sys2Proof.Machine
end

