-- ==== Sys2Proof/Machine/Switch.lean ====
section
/-! DEFINITION. The end of a switch, scaler power, and the end of an action (R98 to R103). -/

namespace Sys2Proof.Machine

/-! ## Completion (R99) -/

/-- Step 5 of R99: an owed relock starts when the engine is still IDLE, and is cleared otherwise. -/
def State.payRelock (s : State) : State :=
  if s.engine.owedRelock then
    if s.engine.inFlight.isNone then s.startSwitch .relock s.engine.routed none
    else s.setEngine { s.engine with owedRelock := false }
  else s

/-- The switch condition of R92 ends with the completion when no switch that holds it has started within it (log 16). -/
def State.endSwitchCond (s : State) : State :=
  match s.engine.inFlight with
  | none => (s.setEngine { s.engine with switchCond := false }).watchBlank
  | some w => if w.kind = .apply then (s.setEngine { s.engine with switchCond := false }).watchBlank else s

/-- The engine enters IDLE and reports the chain's end; then an owed relock (R99, steps 4 and 5). -/
def State.goIdle (s : State) : State :=
  ((s.setEngine { s.engine with state := .idle }).chainEnds).payRelock.endSwitchCond

/-- What follows a completion: the pending target's switch, or IDLE (R99, steps 3 to 5). -/
def State.nextSwitch (s : State) : State :=
  match s.engine.pendingTarget with
  | some q => (s.setEngine { s.engine with pendingTarget := none }).startSwitch .select q.input (some q.requester)
  | none => s.goIdle

/-- The switch in flight completes with a result (R99, R136). -/
def State.completeSwitch (s : State) (r : SwitchResult) : State :=
  match s.engine.inFlight with
  | none => s
  | some w =>
    let s := (s.notify (switchEnd w.target r.code w.requester)).endRecall w.target
    (s.setEngine { s.engine with inFlight := none, lockReq := none }).nextSwitch

/-! ## APPLYING and UNMUTING (R98, R99) -/

/-- UNMUTING is entered with no pending target: the switch condition stops holding and the blank control acts (R99). -/
def State.enterUnmuting (s : State) : State :=
  (s.setEngine { s.engine with state := .unmuting, switchCond := false }).watchBlank

/-- APPLYING ends when no table is pending or in transfer (R98, R122). -/
def State.endApplying (s : State) : State :=
  match s.engine.inFlight with
  | some w =>
    if s.engine.state = .applying ∧ s.tableSettled then
      if w.kind = .apply ∨ s.engine.pendingTarget.isSome then s.completeSwitch .switched else s.enterUnmuting
    else s
  | none => s

/-- UNMUTING ends when the blank record is UNBLANKED or the composition holds (R99, log 14). -/
def State.endUnmuting (s : State) : State :=
  if s.engine.state = .unmuting ∧ (s.engine.blank = .unblanked ∨ s.composition) then s.completeSwitch .switched else s

/-! ## Lock failure (R96, R97) -/

/-- A lock attempt has failed: a quick one gives way to a full one, a full one ends the switch NO_LOCK (R96). -/
def State.lockFails (s : State) : State :=
  match s.engine.state, s.engine.inFlight with
  | .locking, some w =>
    if w.lockMode = some .quick then (s.forget w.target).attempt w .full else s.completeSwitch .noLock
  | .locking, none => s
  | .idle, _ | .muting, _ | .routing, _ | .applying, _ | .unmuting, _ => s

/-! ## Scaler power (R103, R121) -/

/-- The engine takes the lamp controller's report of a power-up (R103). -/
def State.powerUp (s : State) : State :=
  (s.setEngine { s.engine with powered := true, blank := .blanked, powerUpOwed := false }).startSwitch .powerUp
    s.engine.selected none

/-- The requests outstanding at a power-down are abandoned, with the tables, the routed timing and the picture (R91, R103, R121). -/
def State.cutPower (s : State) : State :=
  let t := (s.setEngine { s.engine with powered := false, blankReq := none, lockReq := none, blank := .blanked }).dropTables
  (t.clearTiming t.engine.routed).tellAspect t.routedAspect

/-- The pending target's SWITCH_END of an abort (R103). -/
def State.abortPending (s : State) : State :=
  match s.engine.pendingTarget with
  | some q =>
    (s.setEngine { s.engine with selected := q.input, pendingTarget := none }).notify
      (switchEnd q.input SwitchResult.aborted.code (some q.requester))
  | none => s

/-- A switch in flight is aborted at a power-down, and the chain's end reported (R103). -/
def State.abortSwitch (s : State) : State :=
  match s.engine.inFlight with
  | none => s
  | some w =>
    let s := (s.setEngine { s.engine with selected := w.target, inFlight := none }).notify
      (switchEnd w.target SwitchResult.aborted.code w.requester)
    let s := s.abortPending
    let s := (s.setEngine { s.engine with state := .idle, owedRelock := false, switchCond := false }).setRecallNow none
    s.chainEnds

/-- The engine takes the report of a power-down (R103). -/
def State.powerDown (s : State) : State := s.cutPower.abortSwitch.watchBlank

/-! ## The end of an action -/

/-- A power-up that the action reported is taken (R135). -/
def State.takePowerUp (s : State) : State := if s.engine.powerUpOwed then s.powerUp else s

/-- What the engine does when an action is over: UNMUTING may have ended, and a power-up may be owed (log 14, R135). -/
def State.settle (s : State) : State := s.endUnmuting.takePowerUp

/-- The end of an event: the engine settles and the notices are offered (R179). -/
def State.finish (s : State) : State := s.settle.flush

end Sys2Proof.Machine
end

