-- ==== Sys2Proof/Machine/Force.lean ====
section
/-! DEFINITION. Lockouts as commands and the schedule set and clear them, with the effects of a kind's coming into force
(R161 to R167). -/

namespace Sys2Proof.Machine

/-- The requester on whose behalf ROOM_CLOSED asks for a lamp-off (R61, R161). -/
def behalf : Origin → Requester
  | .manual r => r
  | .schedule _ | .lamp | .thermal => .schedule

/-- The lamp-off that ROOM_CLOSED asks for, without intake (R61, R155). -/
def State.closureOff (s : State) (o : Origin) : State := (s.lampOffEndsDeferral (behalf o)).lampOff.1

/-- The effects of a kind's coming into force, in order (R161). -/
def State.comeIntoForce (s : State) (k : LockKind) (o : Origin) : State :=
  match k with
  | .panelHold => (s.dropBarredElect .panelHold).freeBarredHolder .panelHold
  | .roomClosed => s.closureOff o
  | .serviceLock => ((s.dropBarredElect .serviceLock).freeBarredHolder .serviceLock).dropPendingOn
  | .lampLock | .thermalLock => s

/-- A record is added, with its kind's effects when the kind was not in force (R160, R161). -/
def State.placeLockout (s : State) (l : Lockout) : State :=
  let t := s.addLockout l
  if s.inForce l.kind then t else t.comeIntoForce l.kind l.origin

/-! ## SET_LOCKOUT and CLEAR_LOCKOUT (R163, R164) -/

/-- The requester's own record of the kind with a new expiry, from this minute on (R163). -/
def renew (r : Requester) (k : LockKind) (expiry : Option Nat) (uptime : Nat) (l : Lockout) : Lockout :=
  if ownRecord r k l then { l with expiry := expiry, setAt := uptime } else l

/-- The persistent records are saved when the kind changed is SERVICE_LOCK (R163, R164, R168). -/
def State.saveIfService (s : State) (k : LockKind) : State := if k = .serviceLock then s.saveLockouts else s

/-- SET_LOCKOUT (R163). -/
def State.setByHand (s : State) (r : Requester) (k : LockKind) (expiry : Option Nat) : State :=
  let t :=
    if s.lockouts.any (ownRecord r k) then s.setLockouts (s.lockouts.map (renew r k expiry s.uptime))
    else s.placeLockout { kind := k, origin := .manual r, reason := none, setAt := s.uptime, expiry := expiry }
  t.saveIfService k

/-- CLEAR_LOCKOUT: the records the clearer may remove go; the answer says whether any of the kind is left (R164). -/
def State.clearByHand (s : State) (r : Requester) (k : LockKind) : State × Verdict :=
  let t := s.removeLockouts (clearable r k)
  (if s.lockouts.any (clearable r k) then t.saveIfService k else t, if t.inForce k then .noAuthority else .done)

/-- The MANUAL records due at the uptime count as it stands (R165, log 28). One set with expiry 1 just before a tick is due at that tick,
where R170 would have the tick find nothing due; following R165 there is the model's choice (log 39). -/
def State.lockoutDue (s : State) (l : Lockout) : Bool :=
  l.byHand && (match l.expiry with
    | some x => l.setAt + x ≤ s.uptime
    | none => false)

/-- The due records are removed; a SERVICE_LOCK among them is saved (R165). -/
def State.expireLockouts (s : State) : State :=
  let t := s.removeLockouts s.lockoutDue
  if s.lockouts.any fun l => s.lockoutDue l && l.kind == .serviceLock then t.saveLockouts else t

end Sys2Proof.Machine
end

