-- ==== Sys2Proof/Machine/Schedule.lean ====
section
/-! DEFINITION. Commands formed inside the part (R6), the schedule's matching and evaluation (R145 to R151), the start and the expiry of
the grace deferral (R153, R154), and the room clock (R138 to R140). -/

namespace Sys2Proof.Machine

/-! ## Commands of SCHEDULE and LOCAL (R6, R151, R176) -/

/-- Steps 4 to 8 for a command formed inside the part, then what follows them; while a reset is pending it is answered WRONG_STATE
(R6, R19, log 20). -/
def State.innerIntake (s : State) (r : Requester) (c : Cmd) (rest : State → State × Reply) : State × Reply :=
  if s.resetWait.isSome then (s, refusal .wrongState)
  else
    match s.innerRefusal r c with
    | some v => (s, refusal v)
    | none => rest s

/-- LAMP_ON of SCHEDULE or LOCAL. -/
def State.innerLampOn (s : State) (r : Requester) : State × Reply := s.innerIntake r .lampOn fun s => s.runLampOn r

/-- LAMP_OFF of SCHEDULE or LOCAL. -/
def State.innerLampOff (s : State) (r : Requester) : State × Reply := s.innerIntake r .lampOff fun s => s.runLampOff r

/-- SET_LAMP_LEVEL of LOCAL. -/
def State.innerLevel (s : State) (r : Requester) (l : Level) : State × Reply :=
  s.innerIntake r (.setLampLevel l) fun s => s.runLampLevel r l

/-- A floor command of SCHEDULE or LOCAL (R40). -/
def State.innerFloor (s : State) (r : Requester) (c : Cmd) : State × Reply := s.innerIntake r c fun s => s.floorIntake r c

/-! ## Matching (R145) -/

/-- A parity matches a term week (R145). -/
def parityMatches : Parity → Nat → Bool
  | .any, _ => true
  | .odd, w => w % 2 = 1
  | .even, w => w ≠ 0 ∧ w % 2 = 0

/-- An entry matches the clock's minute (R145). -/
def Entry.matchesClock (e : Entry) (c : Clock) : Bool :=
  e.inUse && e.days.getLsbD c.weekday && e.start ≤ c.minute && c.minute < e.finish && parityMatches e.parity c.week

/-- The twenty-four entries, highest index first (R145). -/
def entriesDown : List EntryIdx := (List.finRange 24).reverse

/-- The effective entry: the matching entry of highest index (R145). -/
def State.effective (s : State) : Option Effective :=
  if s.clock.isSet then
    (entriesDown.find? fun i => s.schedule.entries[i].matchesClock s.clock).map fun i =>
      { index := i, kind := s.schedule.entries[i].kind, scene := s.schedule.entries[i].scene }
  else none

/-! ## Notices (R157) -/

/-- A SCHEDULE notice of kind ENTRY (R146). -/
def entryNotice (e : Option Effective) : Notice :=
  { cls := .schedule, kind := 1, subject := (match e with | some x => x.index.val | none => 0xFF), result := 0,
    extra := (match e with | some x => entryKindCode x.kind | none => 0xFF) }

/-- A SCHEDULE notice of kind DEFERRAL_START (R153). -/
def deferralStartNotice (e : EntryIdx) (grace : Nat) : Notice :=
  { cls := .schedule, kind := 2, subject := e.val, result := 0, extra := grace }

/-! ## The grace deferral (R153, R154) -/

/-- The deferral issues its LAMP_OFF, which ends it (R154). -/
def State.fireDeferral (s : State) : State := ((s.endDeferral 0).innerLampOff .schedule).1

/-- A grace deferral starts; with a grace setting of 0 it fires at once (R153). -/
def State.startDeferral (s : State) (e : EntryIdx) : State :=
  let t := (s.setDeferral (some { entryLeft := e, start := s.uptime, quietFrom := s.uptime, due := false })).notify
    (deferralStartNotice e s.schedule.grace)
  if s.schedule.grace = 0 then t.fireDeferral else t

/-! ## Evaluation (R146 to R150) -/

/-- The kind of an effective entry, if any. -/
def kindOf (e : Option Effective) : Option EntryKind := e.map Effective.kind

/-- A SESSION or EXAM is governing (R147). -/
def teaching : Option EntryKind → Bool
  | some .session | some .exam => true
  | some .closed | none => false

/-- Leaving removes the schedule's record: EXAM gives way to anything but EXAM, CLOSED to anything but CLOSED (R147). -/
def removesRecord (old new : Option EntryKind) : Bool :=
  (old == some .exam && new != some .exam) || (old == some .closed && new != some .closed)

/-- The leaving actions (R147). -/
def State.leaveEntry (s : State) (old new : Option Effective) : State :=
  let s := if removesRecord (kindOf old) (kindOf new) then s.removeLockouts Lockout.ofSchedule else s
  match old, new with
  | some o, none => if teaching (kindOf old) then s.startDeferral o.index else s
  | some _, some _ => s
  | none, _ => s

/-- The schedule's record for an entry of this kind: carried over and renamed when the previous entry had the kind, added otherwise (R150). -/
def State.bookLockout (s : State) (e : Effective) (old : Option Effective) (k : LockKind) : State :=
  if kindOf old = some e.kind then s.renameSchedule e.index
  else s.placeLockout { kind := k, origin := .schedule e.index, reason := none, setAt := s.uptime, expiry := none }

/-- Step 2 of the entering actions (R148, R149). -/
def State.bookKind (s : State) (e : Effective) (old : Option Effective) : State :=
  match e.kind with
  | .session => s
  | .exam => s.bookLockout e old .panelHold
  | .closed => s.bookLockout e old .roomClosed

/-- Step 4 of R148: the recall of the entry's scene, unless the previous SESSION or EXAM had the same scene. -/
def State.bookScene (s : State) (e : Effective) (old : Option Effective) : State :=
  match e.scene with
  | some k =>
    if teaching (kindOf old) ∧ old.bind Effective.scene = some k then s else (s.innerFloor .schedule (.recallScene k)).1
  | none => s

/-- The entering actions (R148, R149). -/
def State.enterEntry (s : State) (e : Effective) (old : Option Effective) : State :=
  let s := (s.endDeferral 2).bookKind e old
  if e.kind = .closed then s else ((s.innerLampOn .schedule).1).bookScene e old

/-- An evaluation (R146). -/
def State.evaluate (s : State) : State :=
  let old := s.schedule.remembered
  let new := s.effective
  if new = old then s
  else
    let s := ((s.setSchedule { s.schedule with remembered := new }).notify (entryNotice new)).leaveEntry old new
    match new with
    | some e => s.enterEntry e old
    | none => s

/-! ## The room clock (R139, R140) -/

/-- The weekday after w (R139). -/
def nextWeekday (w : Nat) : Nat := if w = 6 then 0 else w + 1

/-- The term week after the wrap from Sunday to Monday (R139). -/
def nextWeek (w : Nat) : Nat := if 1 ≤ w ∧ w ≤ 59 then w + 1 else w

/-- The clock one minute later (R139). -/
def Clock.tick (c : Clock) : Clock :=
  if c.minute + 1 < 1440 then { c with minute := c.minute + 1, run := c.run + 1 }
  else
    { c with minute := 0, weekday := nextWeekday c.weekday, week := if c.weekday = 6 then nextWeek c.week else c.week, run := c.run + 1 }

/-- A minute tick of a set clock, with its evaluation; an unset clock does not advance (R138, R139). -/
def State.minuteTick (s : State) : State := if s.clock.isSet then (s.setClock s.clock.tick).evaluate else s

/-- SET_CLOCK, which restarts the minute, with its evaluation (R140). -/
def State.takeClock (s : State) (minute weekday week : Nat) : State :=
  (s.setClock { isSet := true, minute := minute, weekday := weekday, week := week, run := s.clock.run + 1 }).evaluate

/-! ## Entries (R143, R144) -/

/-- s with one schedule entry replaced, its record queued, and the schedule evaluated (R143, R144). -/
def State.changeEntry (s : State) (e : EntryIdx) (c : Entry) : State :=
  ((s.setSchedule { s.schedule with entries := s.schedule.entries.set e c }).queueRecord (.entry e)).evaluate

/-- The entry WRITE_ENTRY makes of an old one (R143). -/
def Entry.written (c : Entry) (f : EntryFields) : Entry :=
  { inUse := true, kind := f.kind, days := f.days, start := f.start, finish := f.finish, parity := f.parity, scene := f.scene,
    isProtected := c.isProtected }

/-- The entry ERASE_ENTRY makes of an old one (R143). -/
def Entry.erased (c : Entry) : Entry := { Entry.factory with isProtected := c.isProtected }

/-! ## The uptime count (R141, R154) -/

/-- The deferral as an uptime tick leaves it: due when a count has reached its limit (R154, log 9). -/
def State.examineDeferral (s : State) : State :=
  match s.schedule.deferral with
  | some d => s.setDeferral (some { d with due := d.expired s.uptime s.schedule.grace })
  | none => s

/-- An uptime tick (R141). -/
def State.tickUptime (s : State) : State := (s.setUptime (satAdd Config.top32 s.uptime 1)).examineDeferral

/-- The deferral's expiry: it fires when the last tick found it due and its counts still stand at a limit (R154, R155, log 9). -/
def State.expireDeferral (s : State) : State :=
  match s.schedule.deferral with
  | some d => if d.due ∧ d.expired s.uptime s.schedule.grace then s.fireDeferral else s
  | none => s

end Sys2Proof.Machine
end

