-- ==== Sys2Proof/Machine/Commands.lean ====
section
/-! DEFINITION. A port's command from its input buffer to its response: the owners' actions on the commands that are not floor commands,
and intake's steps 1 to 3 (R1 to R19). -/

namespace Sys2Proof.Machine

/-! ## Lamp replacement (R78, R79) -/

/-- The lamp in FAULT enters OFF at an accepted replacement; the attempt count is kept (R63). -/
def State.leaveFault (s : State) : State := if s.lamp.state = .fault then s.enterLamp .off none else s

/-- The wear record of a new lamp (R78, steps 1 to 4). -/
def WearRecord.renewed (r : WearRecord) (identity : Vector Byte 8) : WearRecord :=
  { wu := 0, lit := 0, realMinutes := 0, strikes := 0, dropOuts := 0, uncleanOffs := 0,
    replacements := satAdd Config.top8 r.replacements 1, reinstatements := r.reinstatements, identity := some identity,
    litMarker := false, defaulted := false }

/-- The wear record of a lamp put back (R79, steps 1 to 3). -/
def WearRecord.reinstated (r : WearRecord) : WearRecord :=
  { r with reinstatements := satAdd Config.top8 r.reinstatements 1, litMarker := false }

/-- Replacement pending is set, the record is checkpointed and REPLACED is raised, the last notice of a replacement (R78, R79). -/
def State.endReplacement (s : State) (m : ReplaceMode) : State :=
  (s.setWear { s.wear with replacement := .toBegin }).checkpoint.notify (replacedNotice m)

/-- REPLACE_LAMP in NEW mode (R78). -/
def State.replaceNew (s : State) (identity : Vector Byte 8) : State :=
  let s := s.setWear { s.wear with record := s.wear.record.renewed identity, warnReported := false }
  (((s.leaveFault.removeLampLock fun _ => true).testThresholds)).endReplacement .new

/-- REPLACE_LAMP in REINSTATE mode (R79). -/
def State.replaceOld (s : State) : State :=
  let s := s.setWear { s.wear with record := s.wear.record.reinstated }
  (s.leaveFault.removeLampLock fun l => l.reason == some .ignition).endReplacement .reinstate

/-! ## Other owners -/

/-- The set WRITE_AUTHORITY writes: SERVICE keeps VIEW and SERVICE (R9). -/
def keptClasses (row : AuthorityRow) (c : ClassSet) : ClassSet :=
  match row with
  | .service => c ||| 0b1000001#7
  | .campus | .panel | .console => c

/-- The authority table with one entry replaced (R9). -/
def AuthTable.put (t : AuthTable) (row : AuthorityRow) (c : ClassSet) : AuthTable :=
  match row with
  | .service => { t with service := c }
  | .campus => { t with campus := c }
  | .panel => { t with panel := c }
  | .console => { t with console := c }

/-- WRITE_AUTHORITY, with whether classes were added (R9). -/
def State.writeAuthority (s : State) (row : AuthorityRow) (c : ClassSet) : State × Bool :=
  ((s.setAuthority (s.authority.put row (keptClasses row c))).queueRecord .authority, keptClasses row c != c)

/-- SET_RATED_LIFE: the CONFIG record is queued, then the thresholds are tested (R70). -/
def State.setRatedLife (s : State) (hours : Nat) : State :=
  ((s.setWear { s.wear with ratedLife := hours }).queueRecord .config).testThresholds

/-- SET_GRACE (R152). -/
def State.setGrace (s : State) (minutes : Nat) : State :=
  (s.setSchedule { s.schedule with grace := minutes }).queueRecord .config

/-- SET_IR_ROOM (R175). -/
def State.setRoom (s : State) (room : Option Nat) : State := (s.setConsole { s.console with room := room }).queueRecord .config

/-- CONTROLLER_RESET: reset is pending; a checkpoint is taken unless the store fault stands (R19, log 27). -/
def State.askReset (s : State) : State :=
  if s.store.fault then s.setResetWait (some .settled) else (s.setResetWait (some .toBegin)).checkpoint

/-- READ_COUNTS zeroes the counts of its port (R181). -/
def State.zeroCounts (s : State) (p : Port) : State := s.setPort p { s.port p with counts := Vector.replicate 9 0 }

/-- SET_NOTICE_MASK (R180). -/
def State.setMask (s : State) (p : Port) (m : BitVec 9) : State := s.setPort p { s.port p with mask := m }

/-! ## Answers -/

/-- DONE. -/
def done (s : State) : State × Reply := (s, { verdict := .done })

/-- DONE with data (R17, R22). -/
def answer (s : State) (data : List Byte) : State × Reply := (s, { verdict := .done, data := data })

/-- The owner's action on an accepted command from port p that is not a floor command, by the rules of its chapter. -/
def State.act (s : State) (p : Port) (c : Cmd) : State × Reply :=
  let r := portRequester p
  match c with
  | .readStatus => answer s s.statusData
  | .readSource n => answer s (s.sourceData n)
  | .readWear => answer s s.wearData
  | .readProfile q => answer s (s.profileData q)
  | .readScene k => answer s (s.sceneData k)
  | .readEntry e => answer s (s.entryData e)
  | .readLockouts => answer s s.lockoutData
  | .readAuthority => answer s s.authorityData
  | .readCounts => answer (s.zeroCounts p) (s.port p).countData
  | .setNoticeMask m => answer (s.setMask p m) (bytes16 m.toNat)
  | .selectInput _ | .recallScene _ | .setMute | .clearMute | .selectProfile _ | .setKeystone _ _ | .nudgeKeystone _ _
  | .holdFloor => s.ownerActs r c
  | .releaseFloor => done (s.releaseBy r)
  | .lampOn => s.runLampOn r
  | .lampOff => s.runLampOff r
  | .setLampLevel l => s.runLampLevel r l
  | .openTrial t q => done (s.openTrial t q)
  | .commitTrial t => done (s.commitTrial t)
  | .discardTrial t => done (s.discardTrial t)
  | .storeScene k => done (s.storeScene k)
  | .setSourceAspect n o => done (s.setAspect n o)
  | .setInputEnable n e role => done (s.setEnable n e role)
  | .setClock minute weekday week => done (s.takeClock minute weekday week)
  | .writeEntry e f => done (s.changeEntry e (s.schedule.entries[e].written f))
  | .eraseEntry e => done (s.changeEntry e s.schedule.entries[e].erased)
  | .setGrace minutes => done (s.setGrace minutes)
  | .setLockout k x => done (s.setByHand r k x)
  | .clearLockout k => ((s.clearByHand r k).1, { verdict := (s.clearByHand r k).2 })
  | .protectEntry e f => done (s.changeEntry e { s.schedule.entries[e] with isProtected := f })
  | .replaceLamp .new i => (s.replaceNew i, { verdict := .started })
  | .replaceLamp .reinstate _ => (s.replaceOld, { verdict := .started })
  | .writeAuthority row cs => ((s.writeAuthority row cs).1, { verdict := .done, clamped := (s.writeAuthority row cs).2 })
  | .clearStoreFault => done s.clearFault
  | .setRatedLife h => done (s.setRatedLife h)
  | .setIrRoom room => done (s.setRoom room)
  | .controllerReset => done s.askReset

/-! ## Intake of a frame (R10, R11, R19) -/

/-- A command of port p that has passed steps 1 to 8, from step 9 on (R10, R31). -/
def State.accept (s : State) (p : Port) (c : Cmd) : State × Reply :=
  if s.isFloor c then s.floorIntake (portRequester p) c
  else
    match s.lateRefusal (portRequester p) c with
    | some v => (s, refusal v)
    | none => s.act p c

/-- A response to an accepted command carries CLAMPED when step 7 changed a value (R14, log 33). -/
def Reply.withClamp (r : Reply) (clamped : Bool) : Reply := { r with clamped := r.clamped || (clamped && r.verdict.accepted) }

/-- Steps 3 to 11 and the owner's action, for a frame of port p whose code is c (R10, R19). -/
def State.intakeFrame (s : State) (p : Port) (c : Code) (pl : List Byte) : State × Reply :=
  if pl.length ≠ codeLength c then (s, refusal .badLength)
  else if s.resetWait.isSome then (s, refusal .wrongState)
  else
    match s.checkFrame (portRequester p) c pl with
    | .error v => (s, refusal v)
    | .ok (cmd, clamped) => ((s.accept p cmd).1, (s.accept p cmd).2.withClamp clamped)

/-- The oldest entry leaves the input buffer (R3). -/
def State.popInbox (s : State) (p : Port) : State := s.setPort p { s.port p with inbox := (s.port p).inbox.tail }

/-- The end of a command's action: the engine settles, the response is placed, the notices are offered (R4, R18). -/
def State.answerPort (s : State) (p : Port) (tag code : Byte) (r : Reply) : State := (s.settle.respond p tag code r).flush

/-- Intake takes the frame with command code c that is the oldest entry of port p's input buffer; with another entry there, or with no
free place in the outbound queue, nothing happens (R3, log 1). -/
def takeCommand (c : Code) (p : Port) (s : State) : State :=
  match (s.port p).inbox.head? with
  | some (.frame f) =>
    if f.code = codeByte c ∧ (s.port p).hasPlace then
      let x := (s.popInbox p).intakeFrame p c f.payload
      x.1.answerPort p f.tag (codeByte c) x.2
    else s
  | some (.bad _) | none => s

/-- Intake takes a BAD_FRAME entry: BAD_FRAME with the tag received and code byte 00 (R11). -/
def takeBadFrame (p : Port) (s : State) : State :=
  match (s.port p).inbox.head? with
  | some (.bad tag) =>
    if (s.port p).hasPlace then (s.popInbox p).answerPort p tag 0 (refusal .badFrame) else s
  | some (.frame _) | none => s

/-- Intake takes a frame whose code is no command code: UNKNOWN_COMMAND with the code echoed (R11). -/
def takeUnknown (p : Port) (s : State) : State :=
  match (s.port p).inbox.head? with
  | some (.frame f) =>
    if (codeOf f.code).isNone ∧ (s.port p).hasPlace then
      (s.popInbox p).answerPort p f.tag f.code (refusal .unknownCommand)
    else s
  | some (.bad _) | none => s

end Sys2Proof.Machine
end

