-- ==== Sys2Proof/Machine/AdjustRows.lean ====
section
/-! DEFINITION. The ADJUST commands (R88, R89, R124 to R131). Each row takes the oldest entry of a port through intake to its owner
and its response (`takeCommand`); what the owner does with the command is its arm of `State.act`. -/

namespace Sys2Proof.Machine

/-- SET_KEYSTONE from port p (R125). -/
def execSetKeystone (p : Port) (s : State) : Host.Outcome State Fault Refusal := .next (takeCommand .setKeystone p s)

/-- NUDGE_KEYSTONE from port p (R110, R125). -/
def execNudgeKeystone (p : Port) (s : State) : Host.Outcome State Fault Refusal := .next (takeCommand .nudgeKeystone p s)

/-- SELECT_PROFILE from port p (R124). -/
def execSelectProfile (p : Port) (s : State) : Host.Outcome State Fault Refusal := .next (takeCommand .selectProfile p s)

/-- OPEN_TRIAL from port p (R127). -/
def execOpenTrial (p : Port) (s : State) : Host.Outcome State Fault Refusal := .next (takeCommand .openTrial p s)

/-- COMMIT_TRIAL from port p (R128). -/
def execCommitTrial (p : Port) (s : State) : Host.Outcome State Fault Refusal := .next (takeCommand .commitTrial p s)

/-- DISCARD_TRIAL from port p (R129). -/
def execDiscardTrial (p : Port) (s : State) : Host.Outcome State Fault Refusal := .next (takeCommand .discardTrial p s)

/-- STORE_SCENE from port p (R131). -/
def execStoreScene (p : Port) (s : State) : Host.Outcome State Fault Refusal := .next (takeCommand .storeScene p s)

/-- SET_SOURCE_ASPECT from port p (R88). -/
def execSetSourceAspect (p : Port) (s : State) : Host.Outcome State Fault Refusal := .next (takeCommand .setSourceAspect p s)

/-- SET_INPUT_ENABLE from port p (R89). -/
def execSetInputEnable (p : Port) (s : State) : Host.Outcome State Fault Refusal := .next (takeCommand .setInputEnable p s)

end Sys2Proof.Machine
end

