-- ==== Sys2Proof/Machine/ClockRows.lean ====
section
/-! DEFINITION. The rows of the clocks: the room clock's minute, the uptime minute, and what falls due at it (R139, R141, R154, R165). -/

namespace Sys2Proof.Machine

/-- CLOCK_MINUTE_TICK of a minute; a SET_CLOCK taken first has begun another (R139, R140, log 6). -/
def execClockMinuteTick (s : State) (run : Nat) : Host.Outcome State Fault Refusal :=
  .next (if s.clock.run = run then s.minuteTick.finish else s)

/-- UPTIME_TICK (R141). -/
def execUptimeTick (s : State) : Host.Outcome State Fault Refusal := .next s.tickUptime.finish

/-- DEFERRAL_EXPIRY (R154, log 9). -/
def execDeferralExpiry (s : State) : Host.Outcome State Fault Refusal := .next s.expireDeferral.finish

/-- LOCKOUT_EXPIRY (R165, log 28). -/
def execLockoutExpiry (s : State) : Host.Outcome State Fault Refusal := .next s.expireLockouts.finish

end Sys2Proof.Machine
end

