-- ==== Sys2Proof/Machine/ConsoleRows.lean ====
section
/-! DEFINITION. The local console: the keypad's debounce, the infrared decoder, keys and the commands they form (R172 to R178). -/

namespace Sys2Proof.Machine

/-! ## Keys (R174, R176, R177) -/

/-- The eleven keys (R176). -/
inductive Key where
  | power | source | mute | eco | normal
  | input (n : InputIdx)
  deriving DecidableEq, Repr

/-- The inputs the SOURCE cycle examines from input n, in turn (R177). -/
def cycleFrom (n : InputIdx) : List InputIdx := [n + 1, n + 2, n + 3, n + 4, n + 5]

/-- The input the SOURCE cycle finds: the first that is enabled and present (R177). -/
def State.nextSource (s : State) : Option InputIdx :=
  (cycleFrom s.engine.selected).find? fun n => s.enabled n && (s.source n).present

/-- POWER asks for light in OFF and FAULT, and in COOLDOWN with no pending-on (R176). -/
def State.powerLights (s : State) : Bool :=
  match s.lamp.state with
  | .off | .fault => true
  | .cooldown => s.lamp.pendingOn.isNone
  | .striking | .retryPause | .warmup | .lit => false

/-- The command a key forms, if any (R176). -/
def State.keyCommand (s : State) : Key → Option Cmd
  | .power => some (if s.powerLights then .lampOn else .lampOff)
  | .source => s.nextSource.map .selectInput
  | .mute => some (if s.engine.userMute then .clearMute else .setMute)
  | .eco => some (.setLampLevel .eco)
  | .normal => some (.setLampLevel .normal)
  | .input n => some (.selectInput n)

/-- Intake takes a LOCAL command (R6, R176). -/
def State.runLocal (s : State) (c : Cmd) : State × Reply :=
  match c with
  | .lampOn => s.innerLampOn .console
  | .lampOff => s.innerLampOff .console
  | .setLampLevel l => s.innerLevel .console l
  | c => s.innerFloor .console c

/-- A LOCAL notice of kind KEY_OUTCOME (R178). -/
def keyOutcome (c : Cmd) (r : Reply) : Notice :=
  { cls := .console, kind := 1, subject := (codeByte (cmdCode c)).toNat, result := r.verdict.code,
    extra := if r.clamped then 1 else 0 }

/-- An accepted key is handed to intake; KEY_OUTCOME precedes the notices of the command's action (R176, R178). -/
def State.takeKey (s : State) (k : Key) : State :=
  match s.keyCommand k with
  | none => s
  | some c =>
    let x := (s.setRaised []).runLocal c
    (x.1.setRaised (s.raised ++ keyOutcome c x.2 :: x.1.raised)).settle

/-! ## Keypad (R172) -/

/-- The class of a keypad sample; none is between bands (R172). -/
inductive SampleClass where
  | key (k : PanelKey)
  | idle
  | between
  deriving DecidableEq, Repr

/-- The band a sample falls in (R172). -/
def classify (v : Byte) : SampleClass :=
  if v.toNat ≤ 31 then .key .power
  else if v.toNat ≤ 63 then .between
  else if v.toNat ≤ 95 then .key .source
  else if v.toNat ≤ 127 then .between
  else if v.toNat ≤ 159 then .key .mute
  else if v.toNat ≤ 223 then .between
  else .idle

/-- What a sample does to the debounce state, and the key it accepts, if any (R172). -/
def Debounce.take (d : Debounce) (c : SampleClass) : Debounce × Option PanelKey :=
  match c, d with
  | .between, d => (d, none)
  | .idle, .released => (.released, none)
  | .idle, .candidate _ => (.released, none)
  | .idle, .pressed k => (.releaseSeen k, none)
  | .idle, .releaseSeen _ => (.released, none)
  | .key k, .released => (.candidate k, none)
  | .key k, .candidate j => if k = j then (.pressed (some k), some k) else (.candidate k, none)
  | .key _, .pressed j => (.pressed j, none)
  | .key _, .releaseSeen j => (.pressed j, none)

/-- The key of a panel key (R176). -/
def panelKey : PanelKey → Key
  | .power => .power
  | .source => .source
  | .mute => .mute

/-- A keypad sample (R172). -/
def State.sample (s : State) (v : Byte) : State :=
  let x := s.console.keypad.take (classify v)
  let t := s.setConsole { s.console with keypad := x.1 }
  match x.2 with
  | some k => t.takeKey (panelKey k)
  | none => t

/-! ## Infrared (R173, R174) -/

/-- A count at which the width counter has overflowed (R173). -/
def overflowed (n : Nat) : Bool := 255 ≤ n

/-- Where an element outside its window leaves the decoder: DISCARD, but IDLE when a space overflowed (R173). -/
def afterBad : IrElement → IrDecoder
  | .mark _ => .discard
  | .space n => if overflowed n then .idle else .discard

/-- A count lies in a window, both ends included (R173). -/
def within (lo hi n : Nat) : Bool := lo ≤ n ∧ n ≤ hi

/-- The decoder with one more bit received (R173). -/
def withBit (bits : List Bool) (b : Bool) : IrDecoder :=
  if bits.length + 1 = 16 then .closingMark .data (bits ++ [b]) else .bitMark (bits ++ [b])

/-- The decoder takes one measured level: its next state, and the bits of a data frame that this level completes (R173). -/
def IrDecoder.take (d : IrDecoder) (e : IrElement) : IrDecoder × Option (List Bool) :=
  match d, e with
  | .idle, .mark n => (if within 40 60 n then .leaderSpace else .discard, none)
  | .idle, .space _ => (.idle, none)
  | .leaderSpace, .space n =>
    (if within 20 30 n then .bitMark [] else if within 10 16 n then .closingMark .again [] else afterBad e, none)
  | .bitMark bits, .mark n => (if within 4 8 n then .bitSpace bits else .discard, none)
  | .bitSpace bits, .space n =>
    (if within 4 8 n then withBit bits false else if within 12 18 n then withBit bits true else afterBad e, none)
  | .closingMark kind bits, .mark n => (if within 4 8 n then .idleGap kind bits else .discard, none)
  | .idleGap .data bits, .space n => if overflowed n then (.idle, some bits) else (.discard, none)
  | .idleGap .again _, .space n => if overflowed n then (.idle, none) else (.discard, none)
  | .discard, .space n => (if overflowed n then .idle else .discard, none)
  | .discard, .mark _ => (.discard, none)
  | .leaderSpace, .mark _ | .bitMark _, .space _ | .bitSpace _, .mark _ | .closingMark _ _, .space _ | .idleGap _ _, .mark _ =>
    (afterBad e, none)

/-- The number of bits sent most significant first (R174). -/
def fromBits (l : List Bool) : Nat := l.foldl (fun n b => 2 * n + (if b then 1 else 0)) 0

/-- The fields of a complete data frame: room code, key code, check (R174). -/
def irRoom (bits : List Bool) : Nat := fromBits (bits.take 4)
@[inherit_doc irRoom] def irKey (bits : List Bool) : Nat := fromBits ((bits.drop 4).take 8)
@[inherit_doc irRoom] def irCheck (bits : List Bool) : Nat := fromBits (bits.drop 12)

/-- The check of a frame is right (R174). -/
def checkOk (bits : List Bool) : Bool := irCheck bits == (irRoom bits ^^^ irKey bits / 16 ^^^ irKey bits % 16)

/-- The room code of a frame is the configured one, or any is configured (R174, R175). -/
def roomOk (room : Option Nat) (bits : List Bool) : Bool :=
  match room with
  | some k => k == irRoom bits
  | none => true

/-- The key of a key code (R174). -/
def keyOf : Nat → Option Key
  | 0x0A => some .power
  | 0x14 => some .source
  | 0x1E => some .mute
  | 0x28 => some .eco
  | 0x29 => some .normal
  | 0x31 => some (.input 0)
  | 0x32 => some (.input 1)
  | 0x33 => some (.input 2)
  | 0x34 => some (.input 3)
  | 0x35 => some (.input 4)
  | 0x36 => some (.input 5)
  | _ => none

/-- A complete data frame: its key acts when its check and its room code pass (R174). -/
def State.takeFrame (s : State) (bits : List Bool) : State :=
  if checkOk bits ∧ roomOk s.console.room bits then
    match keyOf (irKey bits) with
    | some k => s.takeKey k
    | none => s
  else s

/-- The decoder takes one measured level (R173, R174). -/
def State.takeElement (s : State) (e : IrElement) : State :=
  let x := s.console.ir.take e
  let t := s.setConsole { s.console with ir := x.1 }
  match x.2 with
  | some bits => t.takeFrame bits
  | none => t

/-- The decoder takes measured levels in turn (R173, log 8). -/
def State.takeElements (s : State) (l : List IrElement) : State := l.foldl State.takeElement s

/-! ## Rows -/

/-- KEYPAD_SAMPLE (R172). -/
def execKeypadSample (v : Byte) (s : State) : Host.Outcome State Fault Refusal := .next (s.sample v).finish

/-- IR_FRAME: the levels of a frame that its idle gap completes (R174, log 8). -/
def execIrFrame (elements : List IrElement) (s : State) : Host.Outcome State Fault Refusal :=
  .next (s.takeElements elements).finish

/-- IR_FRAME_DISCARD: the levels of a frame that is discarded (R173, log 8). -/
def execIrFrameDiscard (elements : List IrElement) (s : State) : Host.Outcome State Fault Refusal :=
  .next (s.takeElements elements).finish

/-- IR_IDLE_GAP: a space overflows (R173, log 8). -/
def execIrIdleGap (s : State) : Host.Outcome State Fault Refusal := .next (s.takeElement (.space 255)).finish

end Sys2Proof.Machine
end

