-- ==== Sys2Proof/Machine/GuardRows.lean ====
section
/-! DEFINITION. The GUARD commands (R144, R163, R164). Each row takes the oldest entry of a port through intake to its owner
and its response (`takeCommand`); what the owner does with the command is its arm of `State.act`. -/

namespace Sys2Proof.Machine

/-- SET_LOCKOUT from port p (R163). -/
def execSetLockout (p : Port) (s : State) : Host.Outcome State Fault Refusal := .next (takeCommand .setLockout p s)

/-- CLEAR_LOCKOUT from port p (R164). -/
def execClearLockout (p : Port) (s : State) : Host.Outcome State Fault Refusal := .next (takeCommand .clearLockout p s)

/-- PROTECT_ENTRY from port p (R144). -/
def execProtectEntry (p : Port) (s : State) : Host.Outcome State Fault Refusal := .next (takeCommand .protectEntry p s)

end Sys2Proof.Machine
end

