-- ==== Sys2Proof/Machine/LampRows.lean ====
section
/-! DEFINITION. The rows of the lamp's lines and timers (R48 to R53, R58 to R60, R68), with the end of a cooldown. -/

namespace Sys2Proof.Machine

/-- s with the LAMP_SENSE line at a level. -/
def State.setSense (s : State) (b : Bool) : State := s.setLines { s.lines with lampSense := b }

/-- s with the THERM_HOT line at a level. -/
def State.setHot (s : State) (b : Bool) : State := s.setLines { s.lines with thermHot := b }

/-! ## The end of a cooldown (R53) -/

/-- The one a pending-on is recorded for is of rank 3 or weaker, the lamp itself included (R53). -/
def weakAsker : LampAsker → Bool
  | .requester r => 3 ≤ rank r
  | .lamp => true

/-- The step 6 checks of a pending-on at the end of a cooldown (R53). -/
def State.askerPasses (s : State) (a : LampAsker) : Bool :=
  !s.inForce .lampLock && !s.inForce .thermalLock && !(s.inForce .roomClosed && weakAsker a)

/-- PENDING_DROPPED for a pending-on that was present (R53). -/
def State.dropNotice (s : State) (a : Option LampAsker) : State :=
  match a with
  | some a => s.notify (pendingDropped a)
  | none => s

/-- The scaler's power goes, if it had any: a start-up cooldown's end finds nothing to abort (R45). -/
def State.loseSupply (s : State) (supplied : Bool) : State := if supplied then s.powerDown else s

/-- A cooldown ends in OFF (R53): STATE, the power-down, the THERMAL record, PENDING_DROPPED (log 26). -/
def State.restInOff (s : State) : State :=
  (((s.enterRest .off).loseSupply s.scalerSupplied).examineThermal).dropNotice s.lamp.pendingOn

/-- A cooldown ends in FAULT (R53): STATE and the power-down, then LAMP_LOCK, the checkpoint, the THERMAL record, PENDING_DROPPED
(log 12, log 26). -/
def State.restInFault (s : State) : State :=
  (((((s.enterRest .fault).loseSupply s.scalerSupplied).addLampLock .ignition).checkpoint).examineThermal).dropNotice
    s.lamp.pendingOn

/-- The cooldown timer expires (R53). -/
def State.coolEnds (s : State) : State :=
  if s.lamp.state ≠ .cooldown then s
  else if s.lamp.faultPending then s.restInFault
  else
    match s.lamp.pendingOn with
    | some a => if s.askerPasses a then (s.setLamp { s.lamp with pendingOn := none }).strike else s.restInOff
    | none => s.restInOff

/-! ## Rows -/

/-- LAMP_SENSE_RISE (R48, log 18). -/
def execLampSenseRise (s : State) : Host.Outcome State Fault Refusal :=
  .next (if s.lines.lampSense then s else (s.setSense true).senseRise.finish)

/-- DROP_OUT: LAMP_SENSE falls (R58, log 18). -/
def execDropOut (s : State) : Host.Outcome State Fault Refusal :=
  .next (if s.lines.lampSense then (s.setSense false).senseFall.finish else s)

/-- STRIKE_WINDOW_EXPIRY of a run of the lamp timer (R49, log 6). -/
def execStrikeWindowExpiry (s : State) (run : Nat) : Host.Outcome State Fault Refusal :=
  .next (if s.lamp.run = run then s.strikeFails.finish else s)

/-- RETRY_PAUSE_END of a run of the lamp timer (R50, log 6). -/
def execRetryPauseEnd (s : State) (run : Nat) : Host.Outcome State Fault Refusal :=
  .next (if s.lamp.run = run then s.retryEnds.finish else s)

/-- WARMUP_END of a run of the lamp timer (R51, log 6). -/
def execWarmupEnd (s : State) (run : Nat) : Host.Outcome State Fault Refusal :=
  .next (if s.lamp.run = run then s.warmupEnds.finish else s)

/-- COOLDOWN_END of a run of the lamp timer; an overheat taken first has begun another (R53, log 6). -/
def execCooldownEnd (s : State) (run : Nat) : Host.Outcome State Fault Refusal :=
  .next (if s.lamp.run = run then s.coolEnds.finish else s)

/-- OVERHEAT: THERM_HOT is asserted (R59, log 18). -/
def execOverheat (s : State) : Host.Outcome State Fault Refusal :=
  .next (if s.lines.thermHot then s else (s.setHot true).heat.finish)

/-- THERM_HOT_DEASSERT (R60, log 18). -/
def execThermHotDeassert (s : State) : Host.Outcome State Fault Refusal :=
  .next (if s.lines.thermHot then (s.setHot false).examineThermal.finish else s)

/-- LIT_SECOND (R68). -/
def execLitSecond (s : State) : Host.Outcome State Fault Refusal := .next s.litSecond.finish

end Sys2Proof.Machine
end

