-- ==== Sys2Proof/Machine/PlanRows.lean ====
section
/-! DEFINITION. The PLAN commands (R140, R143, R152). Each row takes the oldest entry of a port through intake to its owner
and its response (`takeCommand`); what the owner does with the command is its arm of `State.act`. -/

namespace Sys2Proof.Machine

/-- SET_CLOCK from port p (R140). -/
def execSetClock (p : Port) (s : State) : Host.Outcome State Fault Refusal := .next (takeCommand .setClock p s)

/-- WRITE_ENTRY from port p (R143). -/
def execWriteEntry (p : Port) (s : State) : Host.Outcome State Fault Refusal := .next (takeCommand .writeEntry p s)

/-- ERASE_ENTRY from port p (R143). -/
def execEraseEntry (p : Port) (s : State) : Host.Outcome State Fault Refusal := .next (takeCommand .eraseEntry p s)

/-- SET_GRACE from port p (R152). -/
def execSetGrace (p : Port) (s : State) : Host.Outcome State Fault Refusal := .next (takeCommand .setGrace p s)

end Sys2Proof.Machine
end

