-- ==== Sys2Proof/Machine/PortRows.lean ====
section
/-! DEFINITION. The rows of the serial lines and of intake's steps 1 and 2 (R1, R4, R5, R11, R38). -/

namespace Sys2Proof.Machine

/-- Bytes arrive on a port's line (R1). -/
def State.receive (s : State) (p : Port) (l : List Byte) : State := s.setPort p ((s.port p).takeBytes l)

/-- Bytes arrive, and then the frame being collected is abandoned (R1). -/
def State.receiveBroken (s : State) (p : Port) (l : List Byte) : State := s.setPort p ((s.port p).takeBytes l).abandon

/-- A port block as a reset of its port leaves it, its line still in the break (R5). -/
def PortBlock.broken (b : PortBlock) : PortBlock :=
  { rx := .breakHeld, inbox := [], outq := [], mask := 0x1FF#9, counts := Vector.replicate 9 0, overrun := false,
    rate := b.rate }

/-- FRAME_RECEIVE: good bytes arrive that complete a frame (R1, log 7). -/
def execFrameReceive (p : Port) (bytes : List Byte) (s : State) : Host.Outcome State Fault Refusal :=
  .next (s.receive p bytes)

/-- FRAME_GAP_TIMEOUT: bytes arrive, and then more than 50 ms pass (R1). -/
def execFrameGapTimeout (p : Port) (bytes : List Byte) (s : State) : Host.Outcome State Fault Refusal :=
  .next (s.receiveBroken p bytes)

/-- FRAME_STOP_BIT_ERROR: bytes arrive, and then a byte with a stop-bit error (R1). -/
def execFrameStopBitError (p : Port) (bytes : List Byte) (s : State) : Host.Outcome State Fault Refusal :=
  .next (s.receiveBroken p bytes)

/-- FRAME_LEN_OVER_48: bytes arrive, and then a LEN above 48 (R1). -/
def execFrameLenOver48 (p : Port) (bytes : List Byte) (len : Byte) (s : State) : Host.Outcome State Fault Refusal :=
  .next (s.receive p (bytes ++ [len]))

/-- BAD_FRAME_ENTRY (R11). -/
def execBadFrameEntry (p : Port) (s : State) : Host.Outcome State Fault Refusal := .next (takeBadFrame p s)

/-- UNKNOWN_COMMAND (R11). -/
def execUnknownCommand (p : Port) (s : State) : Host.Outcome State Fault Refusal := .next (takeUnknown p s)

/-- OUTBOUND_FRAME_SENT: the oldest outbound frame gives up its place (R4). -/
def execOutboundFrameSent (p : Port) (s : State) : Host.Outcome State Fault Refusal :=
  .next (s.setPort p { s.port p with outq := (s.port p).outq.tail })

/-- PORT_RESET (R5, R38). -/
def execPortReset (p : Port) (s : State) : Host.Outcome State Fault Refusal :=
  .next ((s.setPort p (s.port p).broken).loseStanding (portRequester p)).finish

/-- LINE_RETURNS_TO_MARK: after a break the receiver hunts again (R5). -/
def execLineReturnsToMark (p : Port) (s : State) : Host.Outcome State Fault Refusal :=
  .next (if (s.port p).rx = .breakHeld then s.setPort p { s.port p with rx := .hunting } else s)

end Sys2Proof.Machine
end

