-- ==== Sys2Proof/Machine/PowerRows.lean ====
section
/-! DEFINITION. The POWER commands (R54 to R56). Each row takes the oldest entry of a port through intake to its owner
and its response (`takeCommand`); what the owner does with the command is its arm of `State.act`. -/

namespace Sys2Proof.Machine

/-- LAMP_ON from port p (R54). -/
def execLampOn (p : Port) (s : State) : Host.Outcome State Fault Refusal := .next (takeCommand .lampOn p s)

/-- LAMP_OFF from port p (R55). -/
def execLampOff (p : Port) (s : State) : Host.Outcome State Fault Refusal := .next (takeCommand .lampOff p s)

/-- SET_LAMP_LEVEL from port p (R56). -/
def execSetLampLevel (p : Port) (s : State) : Host.Outcome State Fault Refusal := .next (takeCommand .setLampLevel p s)

end Sys2Proof.Machine
end

