-- ==== Sys2Proof/Machine/PresentRows.lean ====
section
/-! DEFINITION. The PRESENT commands (R32, R35, R93, R104, R132). Each row takes the oldest entry of a port through intake to its owner
and its response (`takeCommand`); what the owner does with the command is its arm of `State.act`. -/

namespace Sys2Proof.Machine

/-- SELECT_INPUT from port p (R93). -/
def execSelectInput (p : Port) (s : State) : Host.Outcome State Fault Refusal := .next (takeCommand .selectInput p s)

/-- RECALL_SCENE from port p (R132). -/
def execRecallScene (p : Port) (s : State) : Host.Outcome State Fault Refusal := .next (takeCommand .recallScene p s)

/-- SET_MUTE from port p (R104). -/
def execSetMute (p : Port) (s : State) : Host.Outcome State Fault Refusal := .next (takeCommand .setMute p s)

/-- CLEAR_MUTE from port p (R104). -/
def execClearMute (p : Port) (s : State) : Host.Outcome State Fault Refusal := .next (takeCommand .clearMute p s)

/-- HOLD_FLOOR from port p (R32). -/
def execHoldFloor (p : Port) (s : State) : Host.Outcome State Fault Refusal := .next (takeCommand .holdFloor p s)

/-- RELEASE_FLOOR from port p (R35). -/
def execReleaseFloor (p : Port) (s : State) : Host.Outcome State Fault Refusal := .next (takeCommand .releaseFloor p s)

end Sys2Proof.Machine
end

