-- ==== Sys2Proof/Machine/ResetRows.lean ====
section
/-! DEFINITION. The resets and the start that follows them (R8, R19, R65, R81, R90, R117, R156, R169, R182, R188). -/

namespace Sys2Proof.Machine

/-! ## Validity of the store's records (R182) -/

/-- The owner's check of the AUTHORITY record (R8). -/
def AuthTable.valid (t : AuthTable) : Bool :=
  t.service.getLsbD (classBit .view) && t.service.getLsbD (classBit .service)

/-- The owner's check of the WEAR record: every field in its range (R66). -/
def WearRecord.valid (r : WearRecord) : Bool :=
  r.wu ≤ Config.top32 ∧ r.lit ≤ 59 ∧ r.realMinutes ≤ Config.top32 ∧ r.strikes ≤ Config.top16 ∧ r.dropOuts ≤ Config.top16
    ∧ r.uncleanOffs ≤ Config.top16 ∧ r.replacements ≤ Config.top8 ∧ r.reinstatements ≤ Config.top8

/-- A CLOSED entry has no scene, and any other has one (R142, log 34). -/
def sceneFits (k : EntryKind) (c : Option SceneIdx) : Bool :=
  match k with
  | .closed => c.isNone
  | .session | .exam => c.isSome

/-- The owner's check of an ENTRY record (R142). -/
def Entry.valid (e : Entry) : Bool := e.start ≤ 1439 ∧ e.finish ≤ 1440 ∧ e.start < e.finish ∧ sceneFits e.kind e.scene

/-- The owner's check of a SOURCE record (R83). -/
def SourceSettings.valid (c : SourceSettings) : Bool := c.role ≤ 15

/-- An expiry a persistent record may hold (R182). -/
def expiryFits : Option Nat → Bool
  | some x => 1 ≤ x ∧ x ≤ 1440
  | none => true

/-- The owner's check of one persistent lockout record (R182). -/
def LockImage.valid (l : LockImage) : Bool :=
  (l.kind == .serviceLock && l.origin == .manual .service && l.reason == none && expiryFits l.expiry)
    || (l.kind == .lampLock && l.origin == .lamp && l.reason.isSome && l.expiry == none)

/-- The owner's check of the LOCKOUT record: at most one record of each kind (R182). -/
def lockImagesValid (l : List LockImage) : Bool :=
  l.all LockImage.valid && (l.filter fun x => x.kind == .serviceLock).length ≤ 1
    && (l.filter fun x => x.kind == .lampLock).length ≤ 1

/-- The owner's check of the CONFIG record (R182). -/
def ConfigImage.valid (c : ConfigImage) : Bool :=
  500 ≤ c.ratedLife && c.ratedLife ≤ 20000 && c.ratedLife % 100 == 0 && c.grace ≤ 30
    && (match c.room with | some k => k ≤ 15 | none => true)

/-- The content check of a record's owner (R182). -/
def Memory.contentOk (m : Memory) : RecordId → Bool
  | .authority => m.authority.valid
  | .wear => m.wear.valid
  | .profile p => Keystone.inLimits m.profiles[p]
  | .scene _ => true
  | .entry e => m.entries[e].valid
  | .source n => m.sources[n].valid
  | .lockout => lockImagesValid m.lockouts
  | .config => m.config.valid

/-- A record passes its validity check (R182). -/
def Memory.valid (m : Memory) (r : RecordId) : Bool := !m.bad.contains r && m.contentOk r

/-- The records that fail, in order of code (R182). -/
def Memory.failed (m : Memory) : List RecordId := allRecords.filter fun r => !m.valid r

/-- What a start takes for a record: its content, or the factory value when the record fails (R182). -/
def Memory.take {α : Type} (m : Memory) (r : RecordId) (content factory : α) : α := if m.valid r then content else factory

/-- A lockout record restored from its image, with set-at 0 (R169). -/
def LockImage.restored (l : LockImage) : Lockout :=
  { kind := l.kind, origin := l.origin, reason := l.reason, setAt := 0, expiry := l.expiry }

/-! ## Working state loaded from the store -/

/-- A port block after a power-on or controller reset (R2, R5, R180, R181). -/
def PortBlock.cleared (rate : LineRate) : PortBlock :=
  { rx := .hunting, inbox := [], outq := [], mask := 0x1FF#9, counts := Vector.replicate 9 0, overrun := false, rate := rate }

/-- The four working profiles (R123). -/
def Memory.loadProfiles (m : Memory) : Vector Keystone 4 :=
  Vector.ofFn fun (p : Fin 4) => m.take (.profile p) m.profiles[p] zeroPair

/-- The eight working scenes (R130). -/
def Memory.loadScenes (m : Memory) : Vector Scene 8 :=
  Vector.ofFn fun (k : Fin 8) => m.take (.scene k) m.scenes[k] (Scene.factory k)

/-- The twenty-four working entries (R142). -/
def Memory.loadEntries (m : Memory) : Vector Entry 24 :=
  Vector.ofFn fun (e : Fin 24) => m.take (.entry e) m.entries[e] Entry.factory

/-- The six source records, presence from the SIG lines as found (R83). -/
def Memory.loadSources (m : Memory) (sig : Vector Bool 6) : Vector Source 6 :=
  Vector.ofFn fun (n : Fin 6) =>
    { settings := m.take (.source n) m.sources[n] SourceSettings.factory, present := sig[n], timing := none,
      remembered := none }

/-- The CONFIG record a start takes (R182). -/
def Memory.loadConfig (m : Memory) : ConfigImage := m.take .config m.config ConfigImage.factory

/-- The persistent lockout records a start restores, in set order (R159, R169). -/
def Memory.loadLockouts (m : Memory) : List Lockout :=
  (m.take .lockout m.lockouts []).foldl (fun set l => insertLockout l.restored set) []

/-- The lamp controller before it chooses its start state: the reset values of R46. The timer's runs are counted on (log 6). -/
def Lamp.dark (run : Nat) : Lamp :=
  { state := .off, timer := none, level := .normal, attempts := 0, pendingOn := none, heldOff := false, heldLevel := none,
    restrikeUsed := false, faultPending := false, startUp := false, run := run }

/-- The switch engine at a start, from scene 0 (R90). -/
def Engine.start (c : Scene) : Engine :=
  { state := .idle, inFlight := none, pendingTarget := none, owedRelock := false, selected := c.input, routed := c.input,
    userMute := c.mute, blank := .blanked, blankReq := none, lockReq := none, powered := false, linkNext := 1,
    switchCond := false, compHeld := true, powerUpOwed := false }

/-- The store's working state at a start: a defaulted WEAR record's factory image in the wear slot, every other defaulted record in
the repair set (R182, R183). The writes are counted on (log 6). -/
def Memory.loadStore (m : Memory) (writes : Nat) : Store :=
  { inFlight := none, slot := if m.valid .wear then none else some WearRecord.factory, retry := none, queue := [],
    repair := m.failed.filter (· != .wear), fault := false, writes := writes }

/-- Every block loaded from the store and from the lines as found; the notices raised are the DEFAULTED ones (R182). -/
def State.load (s : State) (sig : Vector Bool 6) : State :=
  let m := s.memory
  let scenes := m.loadScenes
  { ports := s.ports,
    authority := m.take .authority m.authority AuthTable.factory,
    resetWait := none,
    floor := { holder := none, hold := false, elect := none, marker := false },
    lamp := Lamp.dark s.lamp.run,
    lines := s.lines,
    wear := { record := m.take .wear m.wear WearRecord.factory, running := false, sinceCheckpoint := 0, band := .good,
              warnReported := false, replacement := .settled, ratedLife := m.loadConfig.ratedLife },
    sources := m.loadSources sig,
    engine := Engine.start scenes[0],
    geo := { last := BandTable.flat, inTransfer := none, pendingTable := none, scalerTable := none, nextSeq := 0 },
    profiles := { stored := m.loadProfiles, active := scenes[0].profile, slots := Vector.replicate 2 none },
    scenes := scenes,
    recallNow := none,
    clock := s.clock,
    uptime := 0,
    schedule := { entries := m.loadEntries, remembered := none, deferral := none, grace := m.loadConfig.grace },
    lockouts := m.loadLockouts,
    saveOwed := false,
    console := { keypad := .pressed none, ir := .discard, room := m.loadConfig.room },
    store := m.loadStore s.store.writes,
    memory := m,
    raised := m.failed.map defaultedNotice,
    pending := s.pending }

/-! ## The start (R65, R81, R117, R156, R169) -/

/-- An expired lamp without its lock is locked at start; the IN_FORCE notices follow together (R81, R169). -/
def State.startExpired (s : State) : State :=
  if s.wear.band = .expired ∧ !s.expiredLocked then (s.addLampLock .expired).setRaised s.raised else s

/-- One IN_FORCE notice for each kind in force, in kind order (R169). -/
def State.startNotices (s : State) : State :=
  allKinds.foldl (fun t k =>
    match s.lockouts.find? fun l => l.kind == k with
    | some l => t.notify (inForceNotice k l.origin)
    | none => t) s

/-- The start in COOLDOWN: an unclean-off is counted when the lit marker was found set, then the cooldown is entered (R65, R69). -/
def State.startCooling (s : State) : State :=
  let s := if s.wear.record.litMarker then s.bookUnclean else s
  let s := s.setLamp { s.lamp with faultPending := s.inForce .lampLock, startUp := true }
  (s.enterLamp .cooldown (some Config.coolSeconds)).bookCooldown

/-- The lamp controller's level and start state (R44, R65). -/
def State.startLamp (s : State) : State :=
  let s := s.setLamp { s.lamp with level := if spent s.wear.band then .eco else .normal }
  if s.lines.lampSense ∨ s.wear.record.litMarker then s.startCooling
  else if s.inForce .lampLock then s.enterLamp .fault none
  else s.enterLamp .off none

/-- A THERM_HOT asserted at the start is an overheat in the start state (R65). -/
def State.startHeat (s : State) : State := if s.lines.thermHot then s.heat else s

/-- The geometry unit's first table (R117). -/
def State.startTable (s : State) : State := s.setGeo { s.geo with last := s.computed }

/-- The start after a reset: load, wear and lockouts, lamp, geometry, and last the schedule's evaluation when the clock is set. -/
def State.start (s : State) (sig : Vector Bool 6) : State :=
  ((((s.load sig).kick.startTable.startBand.startExpired.startNotices.startLamp).startHeat).evaluate).finish

/-- The SIG lines as they stand: presence follows them (R84, log 30). -/
def State.sigLines (s : State) : Vector Bool 6 := s.sources.map Source.present

/-! ## The resets -/

/-- A controller reset: the room clock, its set flag and the line rates are kept (R5, R138, R188). -/
def State.controllerReset (s : State) : State := (s.setPorts (s.ports.each fun b => .cleared b.rate)).start s.sigLines

/-- The unset room clock (R138). -/
def Clock.unset (c : Clock) : Clock := { isSet := false, minute := 0, weekday := 0, week := 0, run := c.run }

/-- The store with the records the supply's failure spoiled (R182, log 29). -/
def Memory.spoil (m : Memory) (codes : List Nat) : Memory :=
  { m with bad := m.bad ++ allRecords.filter fun r => codes.contains (recordCode r) && !m.bad.contains r }

/-- A power-on reset: lines, straps and spoiled records as found; the room clock is unset (R65, R138, R182). -/
def State.powerOn (s : State) (x : PowerOn) : State :=
  let s := s.setPorts { service := .cleared x.serviceRate, campus := .cleared x.campusRate, panel := .cleared x.panelRate }
  let s := (s.setLines { lampSense := x.lampSense, thermHot := x.thermHot }).setClock s.clock.unset
  (s.setMemory (s.memory.spoil x.spoiled)).start x.sig

/-- A frame is the DONE response to CONTROLLER_RESET (R19). -/
def Frame.isResetDone (f : Frame) : Bool :=
  f.code == byte Verdict.done.code && f.payload[1]? == some (codeByte .controllerReset)

/-- The DONE response still waits in some port's outbound queue (R19). -/
def State.resetDoneQueued (s : State) : Bool :=
  s.ports.service.outq.any Frame.isResetDone || s.ports.campus.outq.any Frame.isResetDone
    || s.ports.panel.outq.any Frame.isResetDone

/-- A pending controller reset may begin (R19). -/
def State.resetReady (s : State) : Bool := s.resetWait == some .settled && !s.resetDoneQueued

/-- POWER_ON_RESET. -/
def execPowerOnReset (x : PowerOn) (s : State) : Host.Outcome State Fault Refusal := .next (s.powerOn x)

/-- RESET_N: a controller reset at once (R19). -/
def execResetN (s : State) : Host.Outcome State Fault Refusal := .next s.controllerReset

/-- CONTROLLER_RESET_BEGIN: the pending controller reset takes place once both conditions of R19 hold. -/
def execControllerResetBegin (s : State) : Host.Outcome State Fault Refusal :=
  .next (if s.resetReady then s.controllerReset else s)

end Sys2Proof.Machine
end

