-- ==== Sys2Proof/Machine/ScalerRows.lean ====
section
/-! DEFINITION. The rows of the SIG lines and of the scaler link (R84, R92, R95 to R102, R119, R120). -/

namespace Sys2Proof.Machine

/-! ## SIG lines (R84, R101) -/

/-- SIG rises on an input: PRESENCE, and on the routed input of a powered scaler a wanted relock; in LOCKING it invalidates the
quick lock like a timing change (R84, R97, R101). -/
def State.sigRises (s : State) (n : InputIdx) : State :=
  let t := ((s.setSource n { s.source n with present := true }).notify (presenceNotice n true)).watchBlank
  if n = s.engine.routed ∧ s.engine.powered then
    (if s.engine.state = .locking then t.forget n else t).wantRelock
  else t

/-- SIG falls on an input: PRESENCE, the quick lock and the timing go, and the blank composition acts (R84, R85, R87, R101). A TABLE for
the changed class takes its link number before the BLANK (log 37). -/
def State.sigFalls (s : State) (n : InputIdx) : State :=
  let t := (s.setSource n { s.source n with present := false, timing := none, remembered := none }).notify
    (presenceNotice n false)
  (t.tellAspect s.routedAspect).watchBlank

/-! ## Blank requests (R92, R95, R99, R102) -/

/-- A blank request is answered when a reply of its kind carries its number (R91, R92). -/
def State.blankAnswered (s : State) (k : BlankKind) (num : Nat) (b : BlankRecord) : State :=
  if s.engine.blankReq = some { kind := k, num := num } then
    ((s.setEngine { s.engine with blankReq := none, blank := b }).compareBlank).endMuting
  else s

/-- A blank request goes unanswered, if it is the one outstanding (R102). -/
def State.blankLost (s : State) (num : Nat) : State :=
  match s.engine.blankReq with
  | none => s
  | some r =>
    if r.num ≠ num then s else
    let t := (s.setEngine { s.engine with blankReq := none, blank := .unknown }).notify (noAnswer (blankKindCode r.kind) 0)
    if s.engine.state = .muting ∨ s.engine.state = .unmuting then t.completeSwitch .scalerFault else t

/-! ## Locks (R96, R97) -/

/-- The number is that of the LOCK outstanding (R91). -/
def State.answersLock (s : State) (num : Nat) : Bool :=
  match s.engine.lockReq with
  | some q => q.num == num
  | none => false

/-- The scaler has locked: the timing is recorded and remembered, and APPLYING is entered; a timing out of range, or one that finds no
signal, is a failure (R87, R96). -/
def State.lockAnswered (s : State) (t : Timing) : State :=
  match s.engine.state, s.engine.inFlight with
  | .locking, some w =>
    if t.inRange ∧ (s.source w.target).present then
      ((s.setSource w.target { s.source w.target with timing := some t, remembered := some t }).enterApplying w).watchBlank
    else s.lockFails
  | .locking, none => s
  | .idle, _ | .muting, _ | .routing, _ | .applying, _ | .unmuting, _ => s

/-- The lock window of the attempt with this LOCK expires, if it runs (R96). -/
def State.windowEnds (s : State) (num : Nat) : State :=
  match s.engine.inFlight with
  | some w => if w.window.isSome ∧ s.answersLock num then s.lockFails else s
  | none => s

/-- The overall lock limit that began with this LOCK expires in LOCKING, if it runs (R97). -/
def State.limitEnds (s : State) (num : Nat) : State :=
  match s.engine.inFlight with
  | some w => if s.engine.state = .locking ∧ w.limit = some num then s.completeSwitch .noLock else s
  | none => s

/-! ## Tables and timing reports (R119, R120, R101) -/

/-- APPLIED ends the transfer when both its link number and its sequence number match (R119). -/
def State.tableAnswered (s : State) (num seq : Nat) : State :=
  match s.geo.inTransfer with
  | some t => if t.num = num ∧ t.seq = seq then (s.tableApplied t).endApplying else s
  | none => s

/-- The TABLE request with this number goes unanswered, if it is the one outstanding (R120). -/
def State.tableLate (s : State) (num : Nat) : State :=
  match s.geo.inTransfer with
  | some t =>
    if t.num ≠ num then s
    else if s.engine.state = .applying then (s.tableLost t).completeSwitch .scalerFault else s.tableLost t
  | none => s

/-- TIMING_CHANGED on the routed input of a powered scaler (R101, R97); TABLE before BLANK (log 37). -/
def State.timingChanges (s : State) : State :=
  if s.engine.powered then
    let t := (s.forget s.engine.routed).clearTiming s.engine.routed
    (t.tellAspect s.routedAspect).watchBlank.wantRelock
  else s

/-! ## Rows -/

/-- SIG_RISE (R101, log 18, log 30). -/
def execSigRise (n : InputIdx) (s : State) : Host.Outcome State Fault Refusal :=
  .next (if (s.source n).present then s else (s.sigRises n).finish)

/-- SIG_FALL (R101, log 18, log 30). -/
def execSigFall (n : InputIdx) (s : State) : Host.Outcome State Fault Refusal :=
  .next (if (s.source n).present then (s.sigFalls n).finish else s)

/-- BLANKED (R92, R95). -/
def execBlanked (msg : List Byte) (s : State) : Host.Outcome State Fault Refusal :=
  .next (match readKind 0x81 0 msg with
    | some m => (s.blankAnswered .blank m.num .blanked).finish
    | none => s)

/-- UNBLANKED (R92, R99). -/
def execUnblanked (msg : List Byte) (s : State) : Host.Outcome State Fault Refusal :=
  .next (match readKind 0x82 0 msg with
    | some m => (s.blankAnswered .unblank m.num .unblanked).finish
    | none => s)

/-- LOCKED (R96). -/
def execLocked (msg : List Byte) (s : State) : Host.Outcome State Fault Refusal :=
  .next (match readKind 0x83 6 msg with
    | some m => if s.answersLock m.num then (s.lockAnswered m.timing).finish else s
    | none => s)

/-- LOCK_FAILED (R96). -/
def execLockFailed (msg : List Byte) (s : State) : Host.Outcome State Fault Refusal :=
  .next (match readKind 0x84 0 msg with
    | some m => if s.answersLock m.num then s.lockFails.finish else s
    | none => s)

/-- APPLIED (R119). -/
def execApplied (msg : List Byte) (s : State) : Host.Outcome State Fault Refusal :=
  .next (match readKind 0x85 1 msg with
    | some m => (s.tableAnswered m.num (byteAt m.payload 0)).finish
    | none => s)

/-- TIMING_CHANGED; it carries number 0 (R91, R101, log 19). -/
def execTimingChanged (msg : List Byte) (s : State) : Host.Outcome State Fault Refusal :=
  .next (match readKind 0xC1 0 msg with
    | some m => if m.num = 0 then s.timingChanges.finish else s
    | none => s)

/-- LOCK_WINDOW_EXPIRY for a request of the link (R96, log 6). -/
def execLockWindowExpiry (s : State) (num : Nat) : Host.Outcome State Fault Refusal := .next (s.windowEnds num).finish

/-- OVERALL_LOCK_LIMIT_EXPIRY for a request of the link (R97, log 6). -/
def execOverallLockLimitExpiry (s : State) (num : Nat) : Host.Outcome State Fault Refusal := .next (s.limitEnds num).finish

/-- BLANK_REQUEST_TIMEOUT for a request of the link (R102, log 6). -/
def execBlankRequestTimeout (s : State) (num : Nat) : Host.Outcome State Fault Refusal := .next (s.blankLost num).finish

/-- TABLE_TIMEOUT for a request of the link (R120, log 6). -/
def execTableTimeout (s : State) (num : Nat) : Host.Outcome State Fault Refusal := .next (s.tableLate num).finish

end Sys2Proof.Machine
end

