-- ==== Sys2Proof/Machine/ServiceRows.lean ====
section
/-! DEFINITION. The SERVICE commands (R9, R19, R70, R78, R79, R175, R187). Each row takes the oldest entry of a port through intake to its owner
and its response (`takeCommand`); what the owner does with the command is its arm of `State.act`. -/

namespace Sys2Proof.Machine

/-- REPLACE_LAMP from port p (R78, R79). -/
def execReplaceLamp (p : Port) (s : State) : Host.Outcome State Fault Refusal := .next (takeCommand .replaceLamp p s)

/-- WRITE_AUTHORITY from port p (R9). -/
def execWriteAuthority (p : Port) (s : State) : Host.Outcome State Fault Refusal := .next (takeCommand .writeAuthority p s)

/-- CLEAR_STORE_FAULT from port p (R187). -/
def execClearStoreFault (p : Port) (s : State) : Host.Outcome State Fault Refusal := .next (takeCommand .clearStoreFault p s)

/-- SET_RATED_LIFE from port p (R70). -/
def execSetRatedLife (p : Port) (s : State) : Host.Outcome State Fault Refusal := .next (takeCommand .setRatedLife p s)

/-- SET_IR_ROOM from port p (R175). -/
def execSetIrRoom (p : Port) (s : State) : Host.Outcome State Fault Refusal := .next (takeCommand .setIrRoom p s)

/-- CONTROLLER_RESET from port p (R19). -/
def execControllerReset (p : Port) (s : State) : Host.Outcome State Fault Refusal := .next (takeCommand .controllerReset p s)

end Sys2Proof.Machine
end

