-- ==== Sys2Proof/Machine/StoreRows.lean ====
section
/-! DEFINITION. The rows of the settings store's memory device (R185, R186). -/

namespace Sys2Proof.Machine

/-- STORE_WRITE_COMPLETE of a write; that of an abandoned one is not acted on (R185, R186, log 6). -/
def execStoreWriteComplete (s : State) (write : Nat) : Host.Outcome State Fault Refusal :=
  .next (if s.store.writes = write then s.completeWrite.finish else s)

/-- STORE_WRITE_TIMEOUT of a write; that of a completed one finds it no longer in flight (R186, log 6). -/
def execStoreWriteTimeout (s : State) (write : Nat) : Host.Outcome State Fault Refusal :=
  .next (if s.store.writes = write then s.failWrite.finish else s)

end Sys2Proof.Machine
end

