-- ==== Sys2Proof/Machine/ViewRows.lean ====
section
/-! DEFINITION. The VIEW commands (R22, R180, R181). Each row takes the oldest entry of a port through intake to its owner
and its response (`takeCommand`); what the owner does with the command is its arm of `State.act`. -/

namespace Sys2Proof.Machine

/-- READ_STATUS from port p (R22). -/
def execReadStatus (p : Port) (s : State) : Host.Outcome State Fault Refusal := .next (takeCommand .readStatus p s)

/-- READ_SOURCE from port p (R22, R83). -/
def execReadSource (p : Port) (s : State) : Host.Outcome State Fault Refusal := .next (takeCommand .readSource p s)

/-- READ_WEAR from port p (R22, R75). -/
def execReadWear (p : Port) (s : State) : Host.Outcome State Fault Refusal := .next (takeCommand .readWear p s)

/-- READ_PROFILE from port p (R22, R123). -/
def execReadProfile (p : Port) (s : State) : Host.Outcome State Fault Refusal := .next (takeCommand .readProfile p s)

/-- READ_SCENE from port p (R22, R130). -/
def execReadScene (p : Port) (s : State) : Host.Outcome State Fault Refusal := .next (takeCommand .readScene p s)

/-- READ_ENTRY from port p (R22, R142). -/
def execReadEntry (p : Port) (s : State) : Host.Outcome State Fault Refusal := .next (takeCommand .readEntry p s)

/-- READ_LOCKOUTS from port p (R22, R159). -/
def execReadLockouts (p : Port) (s : State) : Host.Outcome State Fault Refusal := .next (takeCommand .readLockouts p s)

/-- READ_AUTHORITY from port p (R9, R22). -/
def execReadAuthority (p : Port) (s : State) : Host.Outcome State Fault Refusal := .next (takeCommand .readAuthority p s)

/-- READ_COUNTS from port p (R22, R181). -/
def execReadCounts (p : Port) (s : State) : Host.Outcome State Fault Refusal := .next (takeCommand .readCounts p s)

/-- SET_NOTICE_MASK from port p (R180). -/
def execSetNoticeMask (p : Port) (s : State) : Host.Outcome State Fault Refusal := .next (takeCommand .setNoticeMask p s)

end Sys2Proof.Machine
end

