-- ==== Sys2Proof/Machine/Dispatch.lean ====
section
/-! DEFINITION. One arm per command: each calls its meaning. -/

namespace Sys2Proof.Machine

/-- The meaning of a command: what it does to everything but the queue of waiting commands. -/
def exec (i : Instr) (s : State) : Host.Outcome State Fault Refusal :=
  match i with
  | .frameReceive p bytes => Sys2Proof.Machine.execFrameReceive p bytes s
  | .frameGapTimeout p bytes => Sys2Proof.Machine.execFrameGapTimeout p bytes s
  | .badFrameEntry p => Sys2Proof.Machine.execBadFrameEntry p s
  | .unknownCommand p => Sys2Proof.Machine.execUnknownCommand p s
  | .outboundFrameSent p => Sys2Proof.Machine.execOutboundFrameSent p s
  | .portReset p => Sys2Proof.Machine.execPortReset p s
  | .powerOnReset found => Sys2Proof.Machine.execPowerOnReset found s
  | .resetN => Sys2Proof.Machine.execResetN s
  | .controllerResetBegin => Sys2Proof.Machine.execControllerResetBegin s
  | .readStatus p => Sys2Proof.Machine.execReadStatus p s
  | .readSource p => Sys2Proof.Machine.execReadSource p s
  | .readWear p => Sys2Proof.Machine.execReadWear p s
  | .readProfile p => Sys2Proof.Machine.execReadProfile p s
  | .readScene p => Sys2Proof.Machine.execReadScene p s
  | .readEntry p => Sys2Proof.Machine.execReadEntry p s
  | .readLockouts p => Sys2Proof.Machine.execReadLockouts p s
  | .readAuthority p => Sys2Proof.Machine.execReadAuthority p s
  | .readCounts p => Sys2Proof.Machine.execReadCounts p s
  | .setNoticeMask p => Sys2Proof.Machine.execSetNoticeMask p s
  | .selectInput p => Sys2Proof.Machine.execSelectInput p s
  | .recallScene p => Sys2Proof.Machine.execRecallScene p s
  | .setMute p => Sys2Proof.Machine.execSetMute p s
  | .clearMute p => Sys2Proof.Machine.execClearMute p s
  | .holdFloor p => Sys2Proof.Machine.execHoldFloor p s
  | .releaseFloor p => Sys2Proof.Machine.execReleaseFloor p s
  | .lampOn p => Sys2Proof.Machine.execLampOn p s
  | .lampOff p => Sys2Proof.Machine.execLampOff p s
  | .setLampLevel p => Sys2Proof.Machine.execSetLampLevel p s
  | .setKeystone p => Sys2Proof.Machine.execSetKeystone p s
  | .nudgeKeystone p => Sys2Proof.Machine.execNudgeKeystone p s
  | .selectProfile p => Sys2Proof.Machine.execSelectProfile p s
  | .openTrial p => Sys2Proof.Machine.execOpenTrial p s
  | .commitTrial p => Sys2Proof.Machine.execCommitTrial p s
  | .discardTrial p => Sys2Proof.Machine.execDiscardTrial p s
  | .storeScene p => Sys2Proof.Machine.execStoreScene p s
  | .setSourceAspect p => Sys2Proof.Machine.execSetSourceAspect p s
  | .setInputEnable p => Sys2Proof.Machine.execSetInputEnable p s
  | .setClock p => Sys2Proof.Machine.execSetClock p s
  | .writeEntry p => Sys2Proof.Machine.execWriteEntry p s
  | .eraseEntry p => Sys2Proof.Machine.execEraseEntry p s
  | .setGrace p => Sys2Proof.Machine.execSetGrace p s
  | .setLockout p => Sys2Proof.Machine.execSetLockout p s
  | .clearLockout p => Sys2Proof.Machine.execClearLockout p s
  | .protectEntry p => Sys2Proof.Machine.execProtectEntry p s
  | .replaceLamp p => Sys2Proof.Machine.execReplaceLamp p s
  | .writeAuthority p => Sys2Proof.Machine.execWriteAuthority p s
  | .clearStoreFault p => Sys2Proof.Machine.execClearStoreFault p s
  | .setRatedLife p => Sys2Proof.Machine.execSetRatedLife p s
  | .setIrRoom p => Sys2Proof.Machine.execSetIrRoom p s
  | .controllerReset p => Sys2Proof.Machine.execControllerReset p s
  | .lampSenseRise => Sys2Proof.Machine.execLampSenseRise s
  | .dropOut => Sys2Proof.Machine.execDropOut s
  | .strikeWindowExpiry run => Sys2Proof.Machine.execStrikeWindowExpiry s run
  | .retryPauseEnd run => Sys2Proof.Machine.execRetryPauseEnd s run
  | .warmupEnd run => Sys2Proof.Machine.execWarmupEnd s run
  | .cooldownEnd run => Sys2Proof.Machine.execCooldownEnd s run
  | .overheat => Sys2Proof.Machine.execOverheat s
  | .thermHotDeassert => Sys2Proof.Machine.execThermHotDeassert s
  | .litSecond => Sys2Proof.Machine.execLitSecond s
  | .sigRise n => Sys2Proof.Machine.execSigRise n s
  | .sigFall n => Sys2Proof.Machine.execSigFall n s
  | .blanked msg => Sys2Proof.Machine.execBlanked msg s
  | .unblanked msg => Sys2Proof.Machine.execUnblanked msg s
  | .locked msg => Sys2Proof.Machine.execLocked msg s
  | .lockFailed msg => Sys2Proof.Machine.execLockFailed msg s
  | .applied msg => Sys2Proof.Machine.execApplied msg s
  | .timingChanged msg => Sys2Proof.Machine.execTimingChanged msg s
  | .lockWindowExpiry num => Sys2Proof.Machine.execLockWindowExpiry s num
  | .overallLockLimitExpiry num => Sys2Proof.Machine.execOverallLockLimitExpiry s num
  | .blankRequestTimeout num => Sys2Proof.Machine.execBlankRequestTimeout s num
  | .tableTimeout num => Sys2Proof.Machine.execTableTimeout s num
  | .clockMinuteTick run => Sys2Proof.Machine.execClockMinuteTick s run
  | .uptimeTick => Sys2Proof.Machine.execUptimeTick s
  | .deferralExpiry => Sys2Proof.Machine.execDeferralExpiry s
  | .lockoutExpiry => Sys2Proof.Machine.execLockoutExpiry s
  | .storeWriteComplete write => Sys2Proof.Machine.execStoreWriteComplete s write
  | .storeWriteTimeout write => Sys2Proof.Machine.execStoreWriteTimeout s write
  | .keypadSample v => Sys2Proof.Machine.execKeypadSample v s
  | .irFrame elements => Sys2Proof.Machine.execIrFrame elements s
  | .frameStopBitError p bytes => Sys2Proof.Machine.execFrameStopBitError p bytes s
  | .frameLenOver48 p bytes len => Sys2Proof.Machine.execFrameLenOver48 p bytes len s
  | .lineReturnsToMark p => Sys2Proof.Machine.execLineReturnsToMark p s
  | .irFrameDiscard elements => Sys2Proof.Machine.execIrFrameDiscard elements s
  | .irIdleGap => Sys2Proof.Machine.execIrIdleGap s

end Sys2Proof.Machine
end

