-- ==== Sys2Proof/WellFormed.lean ====
section
/-! DEFINITION. Which commands are well formed: the operands of a row are what its name says arrived. A command that is not well formed still
has a meaning; the line, the link or the infrared receiver would report it under another row. -/

namespace Sys2Proof

open Sys2Proof.Machine

/-- The store record codes a power-on may find spoiled: 0..45, each at most once (R182). -/
def spoiledCodesOk (l : List Nat) : Bool := l.all (· < 46) && l.Nodup

/-- A measured level: the width counter counts from 1 and stops at 255 (R173, log 31). -/
def IrElement.measured : IrElement → Bool
  | .mark n | .space n => 1 ≤ n && n ≤ 255

/-- Levels alternate, since the counter restarts at every change of level (R173). -/
def alternating : List IrElement → Bool
  | .mark _ :: .mark _ :: _ => false
  | .space _ :: .space _ :: _ => false
  | _ :: e :: r => alternating (e :: r)
  | _ => true

/-- Levels as the infrared line gives them (R173). -/
def irLevelsOk (l : List IrElement) : Bool := l.all IrElement.measured && alternating l

/-- The last level is a space that overflowed, the idle gap (R173). -/
def endsInGap (l : List IrElement) : Bool := l.getLast? == some (.space 255)

/-- A message of this kind and payload length, with a good check (R91). -/
def messageOk (kind : Byte) (len : Nat) (l : List Byte) : Bool := (readKind kind len l).isSome

/-- TIMING_CHANGED carries number 0 (R91). -/
def timingReportOk (l : List Byte) : Bool :=
  match readKind 0xC1 0 l with
  | some m => m.num == 0
  | none => false

/-- A number the part gives a request: 1..255 (R91). -/
def linkNumberOk (k : Nat) : Bool := 1 ≤ k && k ≤ 255

/-- The well-formedness of a command, row by row. -/
def Instr.WellFormed : Instr → Bool
  | .frameReceive _ _ | .frameGapTimeout _ _ | .frameStopBitError _ _ => true
  | .frameLenOver48 _ _ len => 48 < len.toNat
  | .powerOnReset x => spoiledCodesOk x.spoiled
  | .badFrameEntry _ | .unknownCommand _ | .outboundFrameSent _ | .portReset _ | .lineReturnsToMark _ => true
  | .resetN | .controllerResetBegin => true
  | .readStatus _ | .readSource _ | .readWear _ | .readProfile _ | .readScene _ | .readEntry _ | .readLockouts _
  | .readAuthority _ | .readCounts _ | .setNoticeMask _ => true
  | .selectInput _ | .recallScene _ | .setMute _ | .clearMute _ | .holdFloor _ | .releaseFloor _ => true
  | .lampOn _ | .lampOff _ | .setLampLevel _ => true
  | .setKeystone _ | .nudgeKeystone _ | .selectProfile _ | .openTrial _ | .commitTrial _ | .discardTrial _ | .storeScene _
  | .setSourceAspect _ | .setInputEnable _ => true
  | .setClock _ | .writeEntry _ | .eraseEntry _ | .setGrace _ => true
  | .setLockout _ | .clearLockout _ | .protectEntry _ => true
  | .replaceLamp _ | .writeAuthority _ | .clearStoreFault _ | .setRatedLife _ | .setIrRoom _ | .controllerReset _ => true
  | .lampSenseRise | .dropOut | .strikeWindowExpiry _ | .retryPauseEnd _ | .warmupEnd _ | .cooldownEnd _ | .overheat
  | .thermHotDeassert | .litSecond => true
  | .sigRise _ | .sigFall _ => true
  | .blanked m => messageOk 0x81 0 m
  | .unblanked m => messageOk 0x82 0 m
  | .locked m => messageOk 0x83 6 m
  | .lockFailed m => messageOk 0x84 0 m
  | .applied m => messageOk 0x85 1 m
  | .timingChanged m => timingReportOk m
  | .lockWindowExpiry k | .overallLockLimitExpiry k | .blankRequestTimeout k | .tableTimeout k => linkNumberOk k
  | .clockMinuteTick _ | .uptimeTick | .deferralExpiry | .lockoutExpiry => true
  | .storeWriteComplete _ | .storeWriteTimeout _ => true
  | .keypadSample _ | .irIdleGap => true
  | .irFrame l => irLevelsOk l && endsInGap l
  | .irFrameDiscard l => irLevelsOk l

end Sys2Proof
end

