-- ==== Sys2Proof/Safety.lean ====
section
/-! DEFINITION. The terms in which claims about the block are stated: what must hold between commands, when a port's command passes the
first steps of intake, and what its answer leaves at its port. -/

namespace Sys2Proof.Machine

/-! ## Rows and codes -/

/-- The row of a command code from a port (R21). -/
def rowOf : Code → Port → Instr
  | .readStatus, p => .readStatus p
  | .readSource, p => .readSource p
  | .readWear, p => .readWear p
  | .readProfile, p => .readProfile p
  | .readScene, p => .readScene p
  | .readEntry, p => .readEntry p
  | .readLockouts, p => .readLockouts p
  | .readAuthority, p => .readAuthority p
  | .readCounts, p => .readCounts p
  | .setNoticeMask, p => .setNoticeMask p
  | .selectInput, p => .selectInput p
  | .recallScene, p => .recallScene p
  | .setMute, p => .setMute p
  | .clearMute, p => .clearMute p
  | .holdFloor, p => .holdFloor p
  | .releaseFloor, p => .releaseFloor p
  | .lampOn, p => .lampOn p
  | .lampOff, p => .lampOff p
  | .setLampLevel, p => .setLampLevel p
  | .setKeystone, p => .setKeystone p
  | .nudgeKeystone, p => .nudgeKeystone p
  | .selectProfile, p => .selectProfile p
  | .openTrial, p => .openTrial p
  | .commitTrial, p => .commitTrial p
  | .discardTrial, p => .discardTrial p
  | .storeScene, p => .storeScene p
  | .setSourceAspect, p => .setSourceAspect p
  | .setInputEnable, p => .setInputEnable p
  | .setClock, p => .setClock p
  | .writeEntry, p => .writeEntry p
  | .eraseEntry, p => .eraseEntry p
  | .setGrace, p => .setGrace p
  | .setLockout, p => .setLockout p
  | .clearLockout, p => .clearLockout p
  | .protectEntry, p => .protectEntry p
  | .replaceLamp, p => .replaceLamp p
  | .writeAuthority, p => .writeAuthority p
  | .clearStoreFault, p => .clearStoreFault p
  | .setRatedLife, p => .setRatedLife p
  | .setIrRoom, p => .setIrRoom p
  | .controllerReset, p => .controllerReset p

/-- The rows that rebuild the working state: the power-on reset and the two ways into a controller reset (Introduction, Reset kinds). -/
def isReset : Instr → Bool
  | .powerOnReset _ | .resetN | .controllerResetBegin => true
  | _ => false

/-- The power-on reset. -/
def isPowerOn : Instr → Bool
  | .powerOnReset _ => true
  | _ => false

/-- The port whose block a row reads or writes before any notice is offered: a row of a serial line or of intake (R1 to R5). -/
def portOf : Instr → Option Port
  | .frameReceive p _ | .frameGapTimeout p _ | .frameStopBitError p _ | .frameLenOver48 p _ _ | .badFrameEntry p
  | .unknownCommand p | .outboundFrameSent p | .portReset p | .lineReturnsToMark p => some p
  | .readStatus p | .readSource p | .readWear p | .readProfile p | .readScene p | .readEntry p | .readLockouts p
  | .readAuthority p | .readCounts p | .setNoticeMask p => some p
  | .selectInput p | .recallScene p | .setMute p | .clearMute p | .holdFloor p | .releaseFloor p => some p
  | .lampOn p | .lampOff p | .setLampLevel p => some p
  | .setKeystone p | .nudgeKeystone p | .selectProfile p | .openTrial p | .commitTrial p | .discardTrial p | .storeScene p
  | .setSourceAspect p | .setInputEnable p => some p
  | .setClock p | .writeEntry p | .eraseEntry p | .setGrace p => some p
  | .setLockout p | .clearLockout p | .protectEntry p => some p
  | .replaceLamp p | .writeAuthority p | .clearStoreFault p | .setRatedLife p | .setIrRoom p | .controllerReset p => some p
  | _ => none

/-- The rows that move the room clock (R138 to R140). -/
def movesClock : Instr → Bool
  | .setClock _ | .clockMinuteTick _ | .powerOnReset _ => true
  | _ => false

/-- The rows that move the uptime count (R141). -/
def movesUptime : Instr → Bool
  | .uptimeTick => true
  | c => isReset c

/-- The rows that report a level of LAMP_SENSE or THERM_HOT (R48, R58 to R60, R65). -/
def movesLines : Instr → Bool
  | .lampSenseRise | .dropOut | .overheat | .thermHotDeassert | .powerOnReset _ => true
  | _ => false

/-- The rows that change the authority table (R8, R9). -/
def writesAuthority : Instr → Bool
  | .writeAuthority _ => true
  | c => isReset c

/-- The rows that change a working scene (R130, R131). -/
def writesScenes : Instr → Bool
  | .storeScene _ => true
  | c => isReset c

/-- The rows that change a stored record: the completion of a write, and a power-on that finds records spoiled (R182, R185). -/
def writesMemory : Instr → Bool
  | .storeWriteComplete _ | .powerOnReset _ => true
  | _ => false

/-! ## Between commands -/

/-- UNMUTING is over and the engine has still to notice it (R99). -/
abbrev UnmutingOver (s : State) : Prop :=
  s.engine.state = .unmuting ∧ (s.engine.blank = .unblanked ∨ s.composition = true)

/-- Nothing of an action is left over: no notice to offer, no power-up to take, no UNMUTING to end (R3, R99, R135). -/
abbrev Quiet (s : State) : Prop := s.raised = [] ∧ s.engine.powerUpOwed = false ∧ ¬ UnmutingOver s

/-- The engine is IDLE exactly when no switch is in flight, an unpowered engine has none, a pending target stands behind one, and
ROUTING is over within its action (R90, R93, R95). -/
abbrev EngineSound (s : State) : Prop :=
  (s.engine.state = .idle ↔ s.engine.inFlight = none) ∧ (s.engine.powered = false → s.engine.inFlight = none)
    ∧ (s.engine.inFlight = none → s.engine.pendingTarget = none) ∧ s.engine.state ≠ .routing

/-- The engine's knowledge of scaler power agrees with the lamp controller's supply, and the start-up mark stands in COOLDOWN
alone (R41, R45, R103). -/
abbrev PowerSound (s : State) : Prop :=
  s.engine.powered = s.scalerSupplied ∧ (s.lamp.startUp = true → s.lamp.state = .cooldown)

/-- One port block within its bounds (R2, R4, R181). -/
abbrev PortSound (b : PortBlock) : Prop :=
  b.inbox.length ≤ Config.inboxPlaces ∧ b.outq.length ≤ Config.outboundPlaces ∧ ∀ n ∈ b.counts.toList, n ≤ Config.countTop

/-- The three port blocks within their bounds. -/
abbrev PortsSound (s : State) : Prop :=
  PortSound s.ports.service ∧ PortSound s.ports.campus ∧ PortSound s.ports.panel

/-- The write queue: at most eight entries, none twice, never WEAR, none that the repair set also holds (R183, R184). -/
abbrev QueueSound (s : State) : Prop :=
  s.store.queue.length ≤ Config.queuePlaces ∧ s.store.queue.Nodup ∧ RecordId.wear ∉ s.store.queue
    ∧ ∀ r ∈ s.store.queue, r ∉ s.store.repair

/-- A command waiting as elect carries a pair within the limits, if it carries one (R25, R109). -/
def electPairOk : Option (Requester × Cmd) → Bool
  | some (_, .setKeystone _ k) => Keystone.inLimits k
  | _ => true

/-- A trial slot's pair is within the limits (R126). -/
def trialOk : Option Trial → Bool
  | some x => Keystone.inLimits x.pair
  | none => true

/-- Every stored, trial and waiting pair is within the limits of R109. -/
abbrev PairsSound (s : State) : Prop :=
  (∀ k ∈ s.profiles.stored.toList, Keystone.inLimits k = true) ∧ (∀ x ∈ s.profiles.slots.toList, trialOk x = true)
    ∧ electPairOk s.floor.elect = true

/-- A source record's settings and its two timings are within their limits (R83, R96). -/
abbrev SourceInRange (c : Source) : Prop :=
  c.settings.valid = true ∧ (∀ x ∈ c.timing, x.inRange = true) ∧ (∀ x ∈ c.remembered, x.inRange = true)

/-- Every counted or stored number is in its range (R66, R67, R70, R83, R91, R106, R138, R141, R142, R152, R158, R175). -/
abbrev RangesSound (s : State) : Prop :=
  s.wear.record.valid = true ∧ s.wear.sinceCheckpoint < Config.checkpointMinutes
    ∧ (ConfigImage.valid { ratedLife := s.wear.ratedLife, grace := s.schedule.grace, room := s.console.room }) = true
    ∧ (∀ c ∈ s.sources.toList, SourceInRange c) ∧ 1 ≤ s.engine.linkNext ∧ s.engine.linkNext ≤ 255
    ∧ s.geo.nextSeq ≤ 255 ∧ s.clock.minute ≤ 1439 ∧ s.clock.weekday ≤ 6 ∧ s.clock.week ≤ 60 ∧ s.uptime ≤ Config.top32
    ∧ (∀ e ∈ s.schedule.entries.toList, e.valid = true) ∧ s.lamp.attempts ≤ Config.maxAttempts
    ∧ (s.lamp.state = .retryPause → s.lamp.attempts < Config.maxAttempts)
    ∧ (∀ l ∈ s.lockouts, ∀ x ∈ l.expiry, 1 ≤ x ∧ x ≤ 1440)

/-- The lockout kind the schedule holds while an entry of this kind governs (R147 to R150). -/
def bookedKind : Option EntryKind → Option LockKind
  | some .exam => some .panelHold
  | some .closed => some .roomClosed
  | some .session | none => none

/-- The lockout set: in set order with no kind and origin twice; at most five MANUAL records; the schedule's record present exactly when
the remembered entry calls for one; kinds and origins paired, a reason on the LAMP record alone, an expiry on MANUAL records alone
(R150, R158, R159). -/
abbrev LockoutsSound (s : State) : Prop :=
  (s.lockouts.map Lockout.key).Pairwise (· < ·) ∧ (s.lockouts.filter Lockout.byHand).length ≤ Config.manualPlaces
    ∧ (s.lockouts.filter Lockout.ofSchedule).map Lockout.kind = (bookedKind (kindOf s.schedule.remembered)).toList
    ∧ ∀ l ∈ s.lockouts, (l.origin = .lamp ↔ l.kind = .lampLock) ∧ (l.origin = .thermal ↔ l.kind = .thermalLock)
        ∧ (l.reason ≠ none ↔ l.kind = .lampLock) ∧ (l.expiry ≠ none → l.byHand = true)

/-- The schedule remembers the effective entry of the clock and the entries as they stand: every evaluation has been made (R145, R146). -/
abbrev ScheduleSound (s : State) : Prop := s.schedule.remembered = s.effective

/-- The wear state is the band its ratio lies in (R71). -/
abbrev BandSound (s : State) : Prop := s.wear.band = bandOfRatio s.ratio

/-- A locked input is the routed one, its signal is present and the scaler powered; from LOCKING on a switch's target is routed
(R85, R95). -/
abbrev TimingSound (s : State) : Prop :=
  (∀ n : InputIdx, (s.source n).timing.isSome = true →
    n = s.engine.routed ∧ (s.source n).present = true ∧ s.engine.powered = true)
    ∧ (s.engine.state = .locking ∨ s.engine.state = .applying ∨ s.engine.state = .unmuting →
        s.engine.inFlight.map Switch.target = some s.engine.routed)

/-- The blank control has seen the composition as it stands, and with no blank request outstanding a powered scaler is not left
unblanked under a holding composition, nor blanked under a clear one (R92). -/
abbrev BlankSound (s : State) : Prop :=
  s.engine.compHeld = s.composition
    ∧ (s.engine.powered = true → s.engine.blankReq = none →
        (s.composition = true → s.engine.blank ≠ .unblanked) ∧ (s.composition = false → s.engine.blank ≠ .blanked))

/-- HOLD needs a holder; an elect is not the holder, stands with a unit in flight, and under HOLD is stronger than the holder
(R25, R32). -/
abbrev FloorSound (s : State) : Prop :=
  (s.floor.holder = none → s.floor.hold = false)
    ∧ (∀ e ∈ s.floor.elect, s.floor.marker = true ∧ s.floor.holder ≠ some e.1)
    ∧ (∀ e ∈ s.floor.elect, ∀ h ∈ s.floor.holder, s.floor.hold = true → stronger e.1 h = true)

/-! ## A port's command and its answer -/

/-- Port p's oldest entry is a frame of command c that passes intake's steps 1 to 6, and the response will find a place
(R3, R10 to R13, R19). -/
abbrev Passes (s : State) (p : Port) (c : Code) (tag : Byte) (pl : List Byte) : Prop :=
  (s.port p).inbox.head? = some (.frame { tag := tag, code := codeByte c, payload := pl }) ∧ (s.port p).hasPlace = true
    ∧ s.resetWait = none ∧ pl.length = codeLength c ∧ s.mayUse (portRequester p) c = true
    ∧ s.conditionsHold (portRequester p) c pl = true ∧ s.lockedOut5 (portRequester p) c = false
    ∧ s.lockedOut6 (portRequester p) c = false

/-- A port block after its oldest entry has been taken and answered, before any notice (R3, R4, R18). -/
def PortBlock.answered (b : PortBlock) (tag code : Byte) (r : Reply) : PortBlock :=
  PortBlock.respond { b with inbox := b.inbox.tail } tag code r

/-- s with port p's oldest entry taken and answered, and nothing else changed. -/
def State.answered (s : State) (p : Port) (tag : Byte) (c : Code) (r : Reply) : State :=
  s.setPort p ((s.port p).answered tag (codeByte c) r)

/-- From s to t, port p's oldest entry has been taken and its response placed next after what the queue held; notices may follow it
(R3, R4). -/
abbrev Answers (s t : State) (p : Port) (tag : Byte) (c : Code) (r : Reply) : Prop :=
  (t.port p).inbox = (s.port p).inbox.tail ∧ ((s.port p).answered tag (codeByte c) r).outq <+: (t.port p).outq

/-- The ports after port p's oldest entry has been answered and these notices have been offered, in order (R4, R179). -/
def State.told (s : State) (p : Port) (tag : Byte) (c : Code) (r : Reply) (l : List Notice) : Ports :=
  (s.answered p tag c r).ports.offerAll l

/-! ## The store -/

/-- The record waits in the write queue, or its image as it now stands is being written (R184, R185). -/
abbrev Saving (s : State) (r : RecordId) : Prop := r ∈ s.store.queue ∨ s.store.inFlight = some (s.imageOf r)

/-- The LOCKOUT record is saved, or owed while the queue is full (R168). -/
abbrev LockoutsSaving (s : State) : Prop := Saving s .lockout ∨ s.saveOwed = true

/-- The store can take a change of record r (R16). -/
abbrev StoreTakes (s : State) (r : RecordId) : Prop :=
  s.store.fault = false ∧ (r ∈ s.store.queue ∨ s.store.queue.length < Config.queuePlaces)

/-- The wear slot holds this image, or the memory device is writing it (R77). -/
abbrev Imaged (s : State) (r : WearRecord) : Prop := s.store.slot = some r ∨ s.store.inFlight = some (.wear r)

/-- Every part of the state but the store and what the beginning of a store write touches is that of u: something that waits for a wear
slot write to begin may find it begun, and an owed LOCKOUT save is queued, or owed anew with the queue full (R19, R80, R168). -/
abbrev OnlySaved (u t : State) : Prop :=
  t = { u with store := t.store, saveOwed := t.saveOwed, resetWait := t.resetWait,
               wear := { u.wear with replacement := t.wear.replacement } }
    ∧ (t.wear.replacement = u.wear.replacement ∨ (u.wear.replacement = .toBegin ∧ t.wear.replacement = .toEnd))
    ∧ (t.resetWait = u.resetWait ∨ (u.resetWait = some .toBegin ∧ t.resetWait = some .toEnd))
    ∧ (t.saveOwed = u.saveOwed
        ∨ (if t.saveOwed = true then Config.queuePlaces ≤ t.store.queue.length else RecordId.lockout ∈ t.store.queue))

/-- The store once the next write has begun, with none in flight and the fault clear: the wear slot's, else the retry's, else that of the
oldest queue entry, whose place an owed LOCKOUT save takes, else that of the repair set's lowest code (R168, R185). -/
def State.resumed (s : State) : Store :=
  let q := s.store
  let begun (i : Image) : Store := { q with inFlight := some i, writes := q.writes + 1 }
  match q.slot, q.retry, q.queue, q.repair with
  | some r, _, _, _ => { begun (.wear r) with slot := none }
  | none, some r, _, _ => { begun (s.imageOf r) with retry := none, queue := q.queue.filter (· != r) }
  | none, none, r :: rest, _ =>
    if s.saveOwed then
      { begun (s.imageOf r) with
        queue := if .lockout ∈ rest then rest else rest ++ [.lockout], repair := q.repair.filter (· != .lockout) }
    else { begun (s.imageOf r) with queue := rest }
  | none, none, [], r :: rest => { begun (s.imageOf r) with repair := rest }
  | none, none, [], [] => q

/-- Save-owed once the next write has begun: a write taken from the queue clears it (R168). -/
def State.owedOn (s : State) : Bool :=
  s.saveOwed && (s.store.slot.isSome || s.store.retry.isSome || s.store.queue.isEmpty)

/-- A wait for a wear slot write once the next write has begun (R19, R80, R185). -/
def State.waitOn (s : State) (w : SlotWait) : SlotWait := if w = .toBegin ∧ s.store.slot.isSome then .toEnd else w

/-- The image a stored record holds (R182). -/
def Memory.holds (m : Memory) : RecordId → Image
  | .authority => .authority m.authority
  | .wear => .wear m.wear
  | .profile p => .profile p m.profiles[p]
  | .scene k => .scene k m.scenes[k]
  | .entry e => .entry e m.entries[e]
  | .source n => .source n m.sources[n]
  | .lockout => .lockout m.lockouts
  | .config => .config m.config

/-! ## The floor -/

/-- A floor command of r proceeds: from the holder, or with no unit in flight and no HOLD of a stronger holder (R28, R29). -/
abbrev FloorOpens (s : State) (r : Requester) : Prop :=
  s.floor.holder = some r
    ∨ (s.floor.marker = false ∧ ∀ h ∈ s.floor.holder, s.floor.hold = true → stronger r h = true)

/-- The HOLD of a stronger holder refuses r (R28, R29). -/
abbrev FloorHeld (s : State) (r : Requester) : Prop := s.floor.hold = true ∧ (s.floor.holder.any fun h => stronger h r) = true

/-- A unit in flight that another holds makes r's command compete, and an elect not weaker than r refuses it (R28 to R30). -/
abbrev FloorBusy (s : State) (r : Requester) : Prop :=
  ¬ FloorHeld s r ∧ s.floor.holder ≠ some r ∧ s.floor.marker = true ∧ (s.floor.elect.any fun e => !stronger r e.1) = true

/-- A unit in flight that another holds makes r's command the elect's, a weaker elect being displaced (R28 to R30). -/
abbrev FloorWaits (s : State) (r : Requester) : Prop :=
  ¬ FloorHeld s r ∧ s.floor.holder ≠ some r ∧ s.floor.marker = true ∧ ∀ e ∈ s.floor.elect, stronger r e.1 = true

/-- The PREEMPTED of an elect displaced by another (R30, R31). -/
def Floor.displacedNotice (f : Floor) : List Notice :=
  f.elect.toList.map fun e => { cls := .source, kind := 2, subject := requesterCode e.1, result := 0xA2, extra := askedOf e.2 }

/-- The floor once r's command has proceeded: r holds it, and a passage cleared HOLD (R31). -/
def Floor.taken (f : Floor) (r : Requester) : Floor :=
  if f.holder = some r then f else { f with holder := some r, hold := false }

/-- The HOLDER notice of a floor (R39). -/
def Floor.notice (f : Floor) : Notice :=
  { cls := .floor, kind := 1, subject := requesterOrNone f.holder, result := 0, extra := if f.hold then 1 else 0 }

/-- The HOLDER notice of a passage (R39); the holder's own command raises none. -/
def Floor.takenNotice (f : Floor) (r : Requester) : List Notice := if f.holder = some r then [] else [(f.taken r).notice]

/-- The requesters a kind bars from the floor: PANEL and LOCAL under PANEL_HOLD, all but SERVICE under SERVICE_LOCK (R33, R36). -/
def bars (k : LockKind) (r : Requester) : Bool :=
  decide ((k = .panelHold ∧ (r = .panel ∨ r = .console)) ∨ (k = .serviceLock ∧ r ≠ .service))

/-- The floor once a kind has come into force: a barred elect is dropped, a barred holder is freed with no unit in flight (R36, R37). -/
def Floor.under (f : Floor) (k : LockKind) : Floor :=
  { holder := if f.marker then f.holder else f.holder.filter fun h => !bars k h,
    hold := f.hold && (f.marker || !f.holder.any (bars k)),
    elect := f.elect.filter fun e => !bars k e.1,
    marker := f.marker }

/-- The notices of that: ELECT_DROPPED with LOCKED_OUT, then HOLDER (R36, R37, R161). -/
def Floor.underNotices (f : Floor) (k : LockKind) : List Notice :=
  ((f.elect.filter fun e => bars k e.1).toList.map fun e =>
      { cls := .floor, kind := 3, subject := requesterCode e.1, result := 0x94, extra := (codeByte (cmdCode e.2)).toNat })
    ++ (if f.holder.any (bars k) && !f.marker then [{ cls := .floor, kind := 1, subject := 0xFF, result := 0, extra := 0 }] else [])

/-! ## Tables, wear and the lamp -/

/-- u once the table of a recompute is last computed and handed towards the scaler: not handed when the scaler is unpowered or the table is
the newest handed one, sent when no transfer is open, else pending (R118). -/
def State.tabled (u : State) (b : BandTable) : State :=
  if u.engine.powered = false ∨ u.geo.newest = some b then { u with geo := { u.geo with last := b } }
  else if u.geo.inTransfer = none then
    { u with geo := { u.geo with last := b, inTransfer := some { num := u.engine.linkNext, seq := u.geo.nextSeq, table := b },
                                 nextSeq := (u.geo.nextSeq + 1) % 256 },
             engine := { u.engine with linkNext := nextLink u.engine.linkNext } }
  else { u with geo := { u.geo with last := b, pendingTable := some b } }

/-- u once a recompute of what it shows has been made: the active profile's effective pair in the routed input's class (R107, R115). -/
def State.retabled (u : State) : State := u.tabled (bandTable (u.effectivePair u.profiles.active) u.routedAspect)

/-- The table of a recompute is last computed and handed towards the scaler, as from s (R118). -/
abbrev Handed (s t : State) (b : BandTable) : Prop :=
  t.geo = (s.tabled b).geo ∧ t.engine.linkNext = (s.tabled b).engine.linkNext

/-- A wear state from END_OF_LIFE on, at which the lamp burns at ECO alone (R44, R73). -/
def worn (b : WearBand) : Bool := decide (b = .endOfLife ∨ b = .expired)

/-- u's record changes its wear state to END_OF_LIFE or EXPIRED while the lamp is LIT at NORMAL, which forces ECO (R73). -/
def State.ecoForced (u : State) : Bool :=
  worn (bandOfRatio u.ratio) && !worn u.wear.band && Decidable.decide (u.lamp.state = .lit ∧ u.lamp.level = .normal)

/-- u's record changes its wear state to EXPIRED, and the LAMP record does not say so yet (R74, R166). -/
def State.newlyExpired (u : State) : Bool :=
  Decidable.decide (bandOfRatio u.ratio = .expired ∧ u.wear.band ≠ .expired ∧ u.lampRecord.map Lockout.reason ≠ some (some .expired))

/-- The notices of u's record changing its wear state: WEAR_STATE; WARN_REACHED at the first rise from GOOD; LEVEL_FORCED; IN_FORCE of a
LAMP_LOCK (R71 to R74, R166). -/
def State.bandNotices (u : State) : List Notice :=
  let b := bandOfRatio u.ratio
  if b = u.wear.band then []
  else
    [{ cls := .wear, kind := 1, subject := bandCode b, result := 0, extra := 0 }]
      ++ (if u.wear.band = .good ∧ u.wear.warnReported = false then
            [{ cls := .lamp, kind := 4, subject := bandCode b, result := 0, extra := 0 }] else [])
      ++ (if u.ecoForced then [{ cls := .wear, kind := 2, subject := 1, result := 0, extra := 0 }] else [])
      ++ (if u.newlyExpired = true ∧ u.lampRecord = none ∧ u.inForce .lampLock = false then
            [{ cls := .lockout, kind := 1, subject := 3, result := 0, extra := 0x40 }] else [])

/-- u once its wear state is the band of its record: a warning reported, the level forced to ECO, and at EXPIRED the LAMP record added with
that reason, or merged to it (R71 to R74, R166). -/
def State.rebanded (u : State) : State :=
  let b := bandOfRatio u.ratio
  { u with
    wear := { u.wear with band := b, warnReported := u.wear.warnReported || Decidable.decide (u.wear.band = .good ∧ b ≠ .good) },
    lamp := { u.lamp with level := if u.ecoForced then .eco else u.lamp.level },
    lockouts :=
      if u.newlyExpired then
        match u.lampRecord with
        | none =>
          insertLockout { kind := .lampLock, origin := .lamp, reason := some .expired, setAt := u.uptime, expiry := none } u.lockouts
        | some _ => u.lockouts.map fun l => if l.origin = .lamp then { l with reason := some .expired } else l
      else u.lockouts }

/-- From u, whose record is new and whose wear state is still the old one, to t: the wear state follows, and a changed lockout table is
saved (R71 to R74, R166, R168). -/
abbrev Rebanded (u t : State) : Prop := OnlySaved u.rebanded t ∧ (u.newlyExpired = true → LockoutsSaving t)

/-- The wear record after a strike (R69). -/
def WearRecord.struck (r : WearRecord) : WearRecord :=
  { r with wu := min 4294967295 (r.wu + 24), strikes := min 65535 (r.strikes + 1), litMarker := true }

/-- u once a strike with this attempt count has begun and is charged, the wear state still to follow (R47, R69, R76). -/
def State.struck (u : State) (attempts : Nat) : State :=
  { u with
    lamp := { u.lamp with state := .striking, timer := some 2, run := u.lamp.run + 1, attempts := attempts, startUp := false },
    wear := { u.wear with record := u.wear.record.struck, sinceCheckpoint := 0 } }

/-- The STATE notice of a lamp state with this code (R41, R64). -/
def lampNotice (state attempts : Nat) : Notice := { cls := .lamp, kind := 1, subject := state, result := 0, extra := attempts }

/-- The scaler is powered in t, and its POWER_UP switch to input n is routed and in LOCKING (R95, R103). -/
abbrev PoweredUp (s t : State) (n : InputIdx) : Prop :=
  t.engine.powered = true ∧ t.engine.blank = .blanked ∧ t.engine.state = .locking ∧ t.engine.selected = n ∧ t.engine.routed = n
    ∧ t.engine.inFlight.map (fun w => (w.kind, w.target, w.requester)) = some (.powerUp, n, none)
    ∧ ∀ m : InputIdx, t.source m = if m = n ∨ m = s.engine.routed then { s.source m with timing := none } else s.source m

/-- A lamp that has entered COOLDOWN for so many seconds (R52). -/
def Lamp.cooled (l : Lamp) (seconds : Nat) (faultPending : Bool) : Lamp :=
  { l with state := .cooldown, timer := some seconds, run := l.run + 1, heldOff := false, heldLevel := none, faultPending := faultPending }

/-- The wear counter after an entry to COOLDOWN, with its checkpoint (R52, R68, R76). -/
def Wear.cooled (w : Wear) : Wear :=
  { w with running := false, sinceCheckpoint := 0, record := { w.record with litMarker := false } }

/-! ## What the owners do with a command

In each, u is the state with the floor passed to r, t the state after, and the ports are given: `told v l` is what they hold once a command
answered v has been followed by the notices l. -/

/-- LAMP_OFF, or a ROOM_CLOSED lamp-off, by lamp state: nothing in OFF and FAULT, held-off in WARMUP, the pending-on cleared in COOLDOWN,
and COOLDOWN for 90 s with a checkpoint from STRIKING, RETRY_PAUSE and LIT (R52, R55, R61). -/
abbrev Darkens (u t : State) (told : Verdict → List Notice → Ports) : Prop :=
  (u.lamp.state = .off ∨ u.lamp.state = .fault → t = { u with ports := told .done [] })
    ∧ (u.lamp.state = .warmup → t = { u with ports := told .waiting [], lamp := { u.lamp with heldOff := true } })
    ∧ (u.lamp.state = .cooldown → t = { u with ports := told .done [], lamp := { u.lamp with pendingOn := none } })
    ∧ (u.lamp.state = .striking ∨ u.lamp.state = .retryPause ∨ u.lamp.state = .lit →
        OnlySaved { u with ports := told .done [lampNotice 5 u.lamp.attempts], lamp := u.lamp.cooled 90 false, wear := u.wear.cooled } t
          ∧ Imaged t u.wear.cooled.record)

/-- LAMP_ON for r, by lamp state: from OFF a strike with attempt count 1, its charge and checkpoint, the effects of a new wear state, and the
scaler powered with a POWER_UP switch to the selected input; no effect in STRIKING, RETRY_PAUSE and LIT; held-off cleared in WARMUP; the
pending-on in COOLDOWN (R47, R54, R69, R71 to R74, R76, R95, R103). -/
abbrev Lights (u t : State) (told : Verdict → List Notice → Ports) (r : Requester) : Prop :=
  (u.lamp.state = .off → EngineSound u → u.engine.powered = false → u.engine.blankReq = none →
      Rebanded { u.struck 1 with ports := told .started (lampNotice 1 1 :: (u.struck 1).bandNotices),
                                 sources := t.sources, engine := t.engine, geo := t.geo } t
        ∧ Imaged t (u.struck 1).wear.record ∧ PoweredUp u t u.engine.selected ∧ t.engine.userMute = u.engine.userMute)
    ∧ (u.lamp.state = .striking ∨ u.lamp.state = .retryPause ∨ u.lamp.state = .lit → t = { u with ports := told .joined [] })
    ∧ (u.lamp.state = .warmup → t = { u with ports := told .joined [], lamp := { u.lamp with heldOff := false } })
    ∧ (u.lamp.state = .cooldown → t = { u with ports := told .waiting [], lamp := { u.lamp with pendingOn := some (.requester r) } })

/-- SET_LAMP_LEVEL of l: NORMAL becomes ECO with CLAMPED at END_OF_LIFE and EXPIRED; held in WARMUP, the lamp level at once elsewhere
(R56). -/
abbrev Levels (u t : State) (told : Verdict → Bool → Ports) (l : Level) : Prop :=
  let a : Level := if worn u.wear.band then .eco else l
  (u.lamp.state = .warmup → t = { u with ports := told .waiting (Decidable.decide (a ≠ l)), lamp := { u.lamp with heldLevel := some a } })
    ∧ (u.lamp.state ≠ .warmup → t = { u with ports := told .done (Decidable.decide (a ≠ l)), lamp := { u.lamp with level := a } })

/-- u once the blank control has looked: BLANK or UNBLANK goes out with the next link number when the composition has changed since it last
looked, no blank request is outstanding and the record disagrees (R92). -/
def State.watched (u : State) : State :=
  let asks : Bool := Decidable.decide (u.composition ≠ u.engine.compHeld ∧ u.engine.powered = true ∧ u.engine.blankReq = none
    ∧ u.engine.blank ≠ (if u.composition then .blanked else .unblanked))
  { u with engine := { u.engine with
      compHeld := u.composition,
      blankReq :=
        if asks then some { kind := if u.composition then .blank else .unblank, num := u.engine.linkNext } else u.engine.blankReq,
      linkNext := if asks then nextLink u.engine.linkNext else u.engine.linkNext } }

/-- The blank control has looked at u (R92). -/
abbrev Watched (u t : State) : Prop := t = u.watched

/-- The SWITCH_END of a switch with this result code (R99, R105). -/
def Switch.ended (w : Switch) (result : Nat) : Notice :=
  { cls := .source, kind := 1, subject := inputCode w.target, result := result, extra := requesterOrNone w.requester }

/-- Nothing follows the switch in flight: no pending target, no elect to hand over to, no holder to free (R33, R99). -/
abbrev ChainLast (s : State) : Prop := s.engine.pendingTarget = none ∧ s.floor.elect = none ∧ s.holderBarred = false

/-- u with the switch w over and the engine IDLE: the unit marker clear, the recall it carried ended (R27, R99, R136). -/
def State.idled (u : State) (w : Switch) : State :=
  { u with
    floor := { u.floor with marker := false }, recallNow := u.recallNow.filter fun c => !Decidable.decide (c.input = w.target),
    engine := { u.engine with state := .idle, inFlight := none, lockReq := none, switchCond := false } }

/-- u with a new full attempt of the switch w in LOCKING (R96, R97). -/
def State.reattempted (u : State) (w : Switch) : State :=
  { u with engine := { u.engine with inFlight := some { w with lockMode := some .full, window := some 3000 },
                                     lockReq := some { num := u.engine.linkNext, mode := .full, timing := none },
                                     linkNext := nextLink u.engine.linkNext } }

/-- A RELOCK of the routed input has begun, by way of MUTING (R94, R101). -/
abbrev Relocking (s t : State) : Prop :=
  t.engine.routed = s.engine.routed ∧ (t.engine.state = .muting ∨ t.engine.state = .locking)
    ∧ t.engine.inFlight.map (fun w => (w.kind, w.target, w.requester)) = some (.relock, s.engine.routed, none)

/-- What the end of the switch w in u leaves, with the ports told its SWITCH_END first: the engine IDLE and the unit over, a barred holder
freed; an owed relock's switch; or the pending target's, in an unbroken chain. An elect is given the floor by `ElectActs` (R27, R33, R94,
R99, R100, R136). -/
abbrev Completes (u t : State) (tell : List Notice → Ports) (w : Switch) : Prop :=
  (let idle : State := u.idled w
   let free : Floor := { holder := none, hold := false, elect := none, marker := false }
   (u.engine.pendingTarget = none → u.floor.elect = none → u.engine.owedRelock = false →
      (u.holderBarred = false → t = { idle with ports := tell [] })
      ∧ (u.holderBarred = true → u.floor.marker = true → t = { idle with ports := tell [free.notice], floor := free }))
     ∧ (ChainLast u → u.engine.owedRelock = true →
      t = { idle with ports := tell [], sources := t.sources, engine := t.engine, geo := t.geo } ∧ Relocking u t)
     ∧ (∀ x, u.engine.pendingTarget = some x →
      t = { u with ports := tell [], recallNow := idle.recallNow, sources := t.sources, engine := t.engine, geo := t.geo }
        ∧ t.engine.pendingTarget = none
        ∧ t.engine.inFlight.map (fun y => (y.kind, y.target, y.requester)) = some (.select, x.input, some x.requester)
        ∧ (t.engine.state = .muting ∨ (t.engine.state = .locking ∧ t.engine.routed = x.input))))

/-- User mute becomes m and the blank control acts (R92, R104). -/
abbrev Mutes (u t : State) (ports : Ports) (m : Bool) : Prop :=
  Watched { u with ports := ports, engine := { u.engine with userMute := m } } t

/-- SET_MUTE or CLEAR_MUTE: the blank control acts; a SET_MUTE that turns the composition in UNMUTING ends the switch SWITCHED, with
SWITCH_END after the action's own effects (R92, R99, R104, log 14). -/
abbrev Muting (u t : State) (told : List Notice → Ports) (m : Bool) : Prop :=
  (let on : State := { u with engine := { u.engine with userMute := true } }
   (u.engine.state ≠ .unmuting ∨ m = false → Mutes u t (told []) m)
     ∧ (∀ w, u.engine.state = .unmuting → m = true → u.engine.inFlight = some w → u.engine.compHeld = false →
      Completes on.watched t (fun l => told (w.ended 0xA0 :: l)) w))

/-- Profile q becomes active, with its effective pair's table handed towards the scaler when it was not (R118, R124). -/
abbrev Reprofiles (u t : State) (ports : Ports) (q : ProfileIdx) : Prop :=
  (u.profiles.active = q → t = { u with ports := ports })
    ∧ (u.profiles.active ≠ q →
      t = { u with ports := ports, profiles := { u.profiles with active := q }, geo := t.geo,
                   engine := { u.engine with linkNext := t.engine.linkNext } }
        ∧ Handed u t (bandTable (u.effectivePair q) u.routedAspect))

/-- Pair x is written for profile q: to the winning slot, or to the stored profile, whose record is saved; and when that changes the active
profile's effective pair, its table is handed towards the scaler (R118, R125). -/
abbrev Rekeys (u t : State) (ports : Ports) (q : ProfileIdx) (x : Keystone) : Prop :=
  (∀ i, u.winner q = some i →
      t = { u with ports := ports, geo := t.geo, engine := { u.engine with linkNext := t.engine.linkNext },
                   profiles := { u.profiles with slots := u.profiles.slots.set i (some { target := q, pair := x }) } })
    ∧ (u.winner q = none →
      OnlySaved
        { u with ports := ports, geo := t.geo, engine := { u.engine with linkNext := t.engine.linkNext },
                 profiles := { u.profiles with stored := u.profiles.stored.set q x } } t
        ∧ Saving t (.profile q))
    ∧ (if u.profiles.active ≠ q ∨ u.effectivePair q = x then t.geo = u.geo ∧ t.engine = u.engine
       else Handed u t (bandTable x u.routedAspect))

/-- The pending target that r's request for input n displaces from the switch to `target`: none when n itself is pending and not joined
(R93, R100). -/
def Engine.displaced (e : Engine) (target n : InputIdx) : Option PendingTarget :=
  if n ≠ target ∧ e.pendingTarget.map PendingTarget.input = some n then none else e.pendingTarget

/-- The PREEMPTED of a displaced pending target (R100). -/
def PendingTarget.lost (q : PendingTarget) : Notice :=
  { cls := .source, kind := 2, subject := requesterCode q.requester, result := 0xA2, extra := inputCode q.input }

/-- SELECT_INPUT of n that starts no switch: the selected input alone with the scaler unpowered, nothing for a standing picture, and with a
switch in flight joined, or kept as pending target, displacing another, whose recall ends (R93, R100, R136). -/
abbrev Selects (u t : State) (told : Verdict → List Notice → Ports) (r : Requester) (n : InputIdx) : Prop :=
  (u.engine.powered = false → t = { u with ports := told .done [], engine := { u.engine with selected := n } })
    ∧ (u.engine.powered = true → u.engine.inFlight = none → u.engine.routed = n → (u.source n).timing ≠ none →
        u.engine.blank ≠ .unknown → t = { u with ports := told .done [] })
    ∧ (∀ w, u.engine.powered = true → u.engine.inFlight = some w →
        t = { u with
              ports := told (if n = w.target then .joined else .waiting) ((u.engine.displaced w.target n).toList.map PendingTarget.lost),
              floor := { u.floor with marker := true },
              engine := { u.engine with pendingTarget := if n = w.target then none else some { input := n, requester := r } },
              recallNow := u.recallNow.filter fun c =>
                !decide ((u.engine.displaced w.target n).map PendingTarget.input = some c.input) })

/-- SELECT_INPUT of n that starts a switch: MUTING with BLANK asked for, or already routed and in LOCKING, the first attempt quick exactly
when a timing is remembered (R27, R93 to R96). -/
abbrev Starts (u t : State) (told : Verdict → List Notice → Ports) (r : Requester) (n : InputIdx) : Prop :=
  u.engine.powered = true → u.engine.inFlight = none → u.engine.pendingTarget = none → u.standing n = false →
    (let w : Switch := { kind := .select, target := n, requester := some r, lockMode := none, window := none, limit := none }
     let v : State := { u with ports := told .started [], floor := { u.floor with marker := true } }
     let muting : Engine := { u.engine with state := .muting, inFlight := some w, owedRelock := false, switchCond := true,
                                            compHeld := true }
     (u.engine.blankReq ≠ none → t = { v with engine := muting })
       ∧ (u.engine.blankReq = none → u.engine.blank ≠ .blanked →
          t = { v with engine := { muting with blankReq := some { kind := .blank, num := u.engine.linkNext },
                                               linkNext := nextLink u.engine.linkNext } })
       ∧ (u.engine.blankReq = none → u.engine.blank = .blanked →
          t = { v with sources := t.sources, geo := t.geo, engine := t.engine }
            ∧ t.engine.state = .locking ∧ t.engine.routed = n ∧ t.engine.selected = n ∧ t.engine.blank = .blanked
            ∧ t.engine.lockReq.map LockRequest.timing = some (u.source n).remembered
            ∧ t.engine.inFlight = some { w with
                lockMode := some (if (u.source n).remembered = none then .full else .quick),
                window := some (if (u.source n).remembered = none then 3000 else 400),
                limit := t.engine.lockReq.map LockRequest.num }
            ∧ ∀ m : InputIdx, t.source m =
                if m = n ∨ m = u.engine.routed then { u.source m with timing := none } else u.source m))

/-- The level that a recall of this scene gives the lamp for r, once its SET_LAMP_LEVEL has passed and been reduced to ECO where the wear
state asks it; with whether it was reduced (R56, R133). -/
def State.levelGiven (u : State) (r : Requester) (c : Scene) : Option Level × Bool :=
  let asked : Option Level := match c.level with | .normal => some .normal | .eco => some .eco | .keep => none
  let passed := asked.filter fun l => u.issuePasses r (.setLampLevel l)
  let given := passed.map fun l => if worn u.wear.band then .eco else l
  (given, given != passed)

/-- A lamp given a level: held in WARMUP, applied at once otherwise (R56). -/
def Lamp.given (l : Lamp) (x : Option Level) : Lamp :=
  match x with
  | none => l
  | some v => if l.state = .warmup then { l with heldLevel := some v } else { l with level := v }

/-- A recall of scene k for r issues a LAMP_ON that passes (R133). -/
def State.recallLights (u : State) (r : Requester) (k : SceneIdx) : Bool := u.scenes[k].power == .on && u.issuePasses r .lampOn

/-- The lamp and the active profile after a recall's steps 1, 2 and 4 where no strike begins (R133, R134). -/
def State.recalled (u : State) (r : Requester) (k : SceneIdx) : State :=
  let waits : Lamp :=
    if u.recallLights r k = true ∧ u.lamp.state = .cooldown then { u.lamp with pendingOn := some (.requester r) } else u.lamp
  { u with lamp := waits.given (u.levelGiven r u.scenes[k]).1, profiles := { u.profiles with active := u.scenes[k].profile } }

/-- A scene recalled in the action in which the lamp strikes from OFF: the strike is charged, the level is set in STRIKING, the scene's
profile and mute are taken, and the scaler's POWER_UP switch shows its input (R47, R69, R133 to R135). -/
abbrev Relights (u t : State) (ports : Ports) (r : Requester) (k : SceneIdx) : Prop :=
  let v := u.struck 1
  let w : State := { v with
    lamp := v.lamp.given (v.rebanded.levelGiven r u.scenes[k]).1, profiles := { u.profiles with active := u.scenes[k].profile } }
  Rebanded { w with ports := ports, sources := t.sources, engine := t.engine, geo := t.geo } t
    ∧ Imaged t v.wear.record ∧ PoweredUp u t u.scenes[k].input ∧ t.engine.userMute = u.scenes[k].mute

/-- The switch w once a recall for r of a scene with input n has met it: r's own when n is its target (R135, log 38). -/
def Switch.carrying (w : Switch) (n : InputIdx) (r : Requester) : Switch := if n = w.target then { w with requester := some r } else w

/-- u once a recall of k for r has met the switch w in flight: mute, with the blank control acting, then the profile's table, then the
switch joined or the scene's input its pending target, the unit marked and the recall in flight (R133 to R136, log 15, log 38). -/
def State.recallJoined (u : State) (r : Requester) (k : SceneIdx) (w : Switch) : State :=
  let c := u.scenes[k]
  let v := u.recalled r k
  let m : State := ({ v with engine := { v.engine with userMute := c.mute } } : State).watched
  let g : State := if u.profiles.active = c.profile then m else m.retabled
  { g with
    floor := { u.floor with marker := true }, recallNow := some { scene := k, requester := r, input := c.input },
    engine := { g.engine with inFlight := some (w.carrying c.input r),
                              pendingTarget := if c.input = w.target then none else some { input := c.input, requester := r } } }

/-- RECALL_SCENE of k for r where no strike begins, by what step 5 meets: the scaler unpowered, an IDLE engine without the picture, with the
picture and another profile, with the picture and the same profile, and a switch in flight, joined in r's name or followed by the scene's
input as pending target; a scene's mute that turns the composition in UNMUTING ends that switch SWITCHED (R99, R132 to R136, log 14, log 15,
log 38). -/
abbrev Recalls (u t : State) (told : Reply → List Notice → Ports) (r : Requester) (k : SceneIdx) : Prop :=
  (let c := u.scenes[k]
   let v := u.recalled r k
   let reply (x : Verdict) : Reply := { verdict := x, clamped := (u.levelGiven r c).2 }
   let table := bandTable (u.effectivePair c.profile) u.routedAspect
   let flying : Option Recall := some { scene := k, requester := r, input := c.input }
   let marked : Floor := { u.floor with marker := true }
   (u.engine.powered = false → u.engine.inFlight = none → u.engine.state = .idle →
      t = { v with ports := told (reply .done) [], geo := t.geo,
                   engine := { u.engine with userMute := c.mute, selected := c.input, compHeld := t.composition } }
        ∧ (if u.profiles.active = c.profile then t.geo = u.geo else Handed u t table))
     ∧ (u.engine.powered = true → u.engine.inFlight = none → u.engine.state = .idle → u.engine.pendingTarget = none →
      (u.standing c.input = false →
        t = { v with ports := told (reply .started) [], floor := marked, recallNow := flying, geo := t.geo, engine := t.engine,
                     sources := t.sources }
          ∧ t.engine.userMute = c.mute
          ∧ t.engine.inFlight.map (fun w => (w.kind, w.target, w.requester)) = some (.select, c.input, some r)
          ∧ (t.engine.state = .muting ∨ (t.engine.state = .locking ∧ t.engine.routed = c.input)))
      ∧ (u.standing c.input = true → u.profiles.active ≠ c.profile →
        t = { v with ports := told (reply .started) [], floor := marked, recallNow := flying, geo := t.geo, engine := t.engine }
          ∧ t.engine.userMute = c.mute ∧ t.engine.state = .applying ∧ t.engine.routed = u.engine.routed
          ∧ t.engine.inFlight
              = some { kind := .apply, target := c.input, requester := some r, lockMode := none, window := none, limit := none }
          ∧ t.geo.last = table ∧ t.geo.inTransfer ≠ none)
      ∧ (u.standing c.input = true → u.profiles.active = c.profile →
        t = { v with ports := told (reply .done) [],
                     engine := { u.engine with userMute := c.mute, compHeld := t.composition, blankReq := t.engine.blankReq,
                                               linkNext := t.engine.linkNext } }))
     ∧ (∀ w, u.engine.powered = true → u.engine.inFlight = some w →
      (let lost : List Notice := (u.engine.displaced w.target c.input).toList.map PendingTarget.lost
       (u.engine.state ≠ .unmuting ∨ c.mute = false → t = { u.recallJoined r k w with ports := told (reply .started) lost })
         ∧ (u.engine.state = .unmuting → c.mute = true → u.engine.compHeld = false →
          Completes (u.recallJoined r k w) t (fun l => told (reply .started) (lost ++ (w.carrying c.input r).ended 0xA0 :: l))
            (w.carrying c.input r)))))

/-- A floor freed by its holder h is handed to the elect e, whose command c is refused, leaving the floor empty, or acts with e as holder.
That ELECT_REFUSED comes before HOLDER is the model's choice (log 11), and that e's activity is not noted again is another (log 22)
(R33 to R35, R39). -/
abbrev HandedOver (s t : State) (tell : List Notice → Ports) (e : Requester) (c : Cmd) (n : InputIdx) (q : ProfileIdx) (k : SceneIdx)
    (x : Keystone) (d : Direction) (m : Bool) : Prop :=
  (let passed : Floor := { holder := some e, hold := false, elect := none, marker := s.floor.marker }
   let kept : Floor := { passed with holder := none }
   let u : State := { s with floor := passed }
   let told (l : List Notice) : Ports := tell (passed.notice :: l)
   (∀ y, s.handOverRefusal e c = some y →
      t = { s with
            ports := tell [{ cls := .floor, kind := 2, subject := requesterCode e, result := y.code,
                             extra := (codeByte (cmdCode c)).toNat }, kept.notice],
            floor := kept })
     ∧ (s.handOverRefusal e c = none →
      (c = .holdFloor →
        t = { s with ports := tell [{ passed with hold := true }.notice], floor := { passed with hold := true } })
      ∧ (c = (if m then .setMute else .clearMute) → Muting u t told m)
      ∧ (c = .selectProfile q → Reprofiles u t (told []) q)
      ∧ (c = .setKeystone q x → Rekeys u t (told []) q x)
      ∧ (c = .nudgeKeystone q d → Rekeys u t (told []) q (nudge (s.effectivePair q) d).1)
      ∧ (c = .selectInput n → Selects u t (fun _ => told) e n ∧ Starts u t (fun _ => told) e n)
      ∧ (c = .recallScene k →
        (s.recallLights e k = false ∨ s.lamp.state ≠ .off → Recalls u t (fun _ => told) e k)
          ∧ (s.recallLights e k = true → s.lamp.state = .off → EngineSound s → s.engine.powered = false → s.engine.blankReq = none →
            Relights u t (told (lampNotice 1 1 :: (s.struck 1).bandNotices)) e k))))

/-- At a unit's end the elect e's command c is tried in u, whose marker is clear: refused, it is discarded, with ELECT_REFUSED, and the floor
stays with the holder, or is empty if that one is barred; otherwise e takes the floor and it acts (R33, R34, R39, log 11, log 22). -/
abbrev ElectActs (u t : State) (tell : List Notice → Ports) (e : Requester) (c : Cmd) (n : InputIdx) (q : ProfileIdx) (k : SceneIdx)
    (x : Keystone) (d : Direction) (m : Bool) : Prop :=
  (let free : Floor := { holder := none, hold := false, elect := none, marker := false }
   let kept : Floor := if u.holderBarred then free else { u.floor with elect := none }
   (∀ y, u.handOverRefusal e c = some y →
      t = { u with
            ports := tell
              ({ cls := .floor, kind := 2, subject := requesterCode e, result := y.code, extra := (codeByte (cmdCode c)).toNat }
                :: if u.holderBarred then [free.notice] else []),
            floor := kept })
     ∧ (u.handOverRefusal e c = none → HandedOver u t tell e c n q k x d m))

/-- What the end of the switch w in u leaves, an elect e with command c behind it or none (R33, R99). -/
abbrev Chains (u t : State) (tell : List Notice → Ports) (w : Switch) (e : Requester) (c : Cmd) (n : InputIdx) (q : ProfileIdx)
    (k : SceneIdx) (x : Keystone) (d : Direction) (m : Bool) : Prop :=
  Completes u t tell w
    ∧ (u.engine.pendingTarget = none → u.engine.owedRelock = false → u.floor.marker = true → u.floor.elect = some (e, c) →
      u.floor.holder ≠ some e → ElectActs (u.idled w) t tell e c n q k x d m)

/-! ## The console -/

/-- The infrared code of a key (R174). -/
def irCode : Key → Nat
  | .power => 0x0A
  | .source => 0x14
  | .mute => 0x1E
  | .eco => 0x28
  | .normal => 0x29
  | .input n => 0x31 + n.val

/-- A key has formed command c with the console left as x, and intake takes it for LOCAL: KEY_OUTCOME comes first; refused, it does nothing
more; otherwise it acts as its owner has it, or waits as elect, or is refused at the floor. That it is answered WRONG_STATE while a reset
is pending is the model's reading (log 20) (R6, R28 to R31, R40, R153, R155, R176, R178). -/
abbrev Ordered (s t : State) (x : Console) (c : Cmd) : Prop :=
  let told (v : Verdict) (b : Bool) (l : List Notice) : Ports :=
    s.ports.offerAll
      ({ cls := .console, kind := 1, subject := (codeByte (cmdCode c)).toNat, result := v.code, extra := if b then 1 else 0 } :: l)
  let u : State := { s.touch .console with console := x }
  let dark : State := { s with console := x, schedule := { s.schedule with deferral := none } }
  let ended : List Notice :=
    if s.schedule.deferral = none then [] else [{ cls := .schedule, kind := 3, subject := 0, result := 1, extra := 0 }]
  let w : State := { u with floor := s.floor.taken .console }
  let passed (v : Verdict) (l : List Notice) : Ports := told v false (s.floor.takenNotice .console ++ l)
  (s.resetWait ≠ none → t = { s with ports := told .wrongState false [], console := x })
    ∧ (s.resetWait = none →
      (∀ v, s.innerRefusal .console c = some v → t = { s with ports := told v false [], console := x })
      ∧ (s.innerRefusal .console c = none →
        (c = .lampOn → Lights u t (fun v l => told v false l) .console)
        ∧ (c = .lampOff → Darkens dark t (fun v l => told v false (ended ++ l)))
        ∧ (c = .setLampLevel .normal → Levels u t (fun v b => told v b []) .normal)
        ∧ (c = .setLampLevel .eco → Levels u t (fun v b => told v b []) .eco)
        ∧ (s.isFloor c = true →
          (FloorHeld s .console → t = { s with ports := told .floorHeld false [], console := x })
          ∧ (FloorBusy s .console → t = { s with ports := told .floorBusy false [], console := x })
          ∧ (FloorWaits s .console → t = { u with ports := told .waiting false [], floor := { s.floor with elect := some (.console, c) } })
          ∧ (FloorOpens s .console →
            (∀ n : InputIdx, c = .selectInput n → Selects w t passed .console n ∧ Starts w t passed .console n)
            ∧ (c = .setMute → Muting w t (passed .done) true)
            ∧ (c = .clearMute → Muting w t (passed .done) false)))))

/-- Key k is accepted, with the console left as x, and forms its command: POWER's by the lamp state, SOURCE's by the first other input from
the selected one on that is enabled and present, or none (R176, R177). -/
abbrev Pressed (s t : State) (x : Console) (k : Key) : Prop :=
  let from0 (d : InputIdx) : InputIdx := s.engine.selected + d
  let candidate (n : InputIdx) : Bool := s.enabled n && (s.source n).present
  let lights : Bool :=
    Decidable.decide (s.lamp.state = .off ∨ s.lamp.state = .fault ∨ (s.lamp.state = .cooldown ∧ s.lamp.pendingOn = none))
  (k = .power → Ordered s t x (if lights then .lampOn else .lampOff))
    ∧ (k = .source →
      ((∀ d : InputIdx, d ≠ 0 → candidate (from0 d) = false) → t = { s with console := x })
      ∧ ∀ d : InputIdx, d ≠ 0 → candidate (from0 d) = true → (∀ e : InputIdx, e ≠ 0 → e < d → candidate (from0 e) = false) →
          Ordered s t x (.selectInput (from0 d)))
    ∧ (k = .mute → Ordered s t x (if s.engine.userMute then .clearMute else .setMute))
    ∧ (k = .eco → Ordered s t x (.setLampLevel .eco))
    ∧ (k = .normal → Ordered s t x (.setLampLevel .normal))
    ∧ ∀ n : InputIdx, k = .input n → Ordered s t x (.selectInput n)

/-! ## The schedule -/

/-- The OUT_OF_FORCE notices of the kinds in force among some records and not among those left, in order of code (R160). -/
def lostNotices (before left : List Lockout) : List Notice :=
  ([.panelHold, .roomClosed, .serviceLock, .lampLock, .thermalLock].filter fun k =>
      (before.any fun l => l.kind == k) && !left.any fun l => l.kind == k).map fun k =>
    { cls := .lockout, kind := 2, subject := lockKindCode k, result := 0, extra := 0 }

/-- u's remembered entry x ends with none to follow: ENTRY is raised and an EXAM's PANEL_HOLD or a CLOSED's ROOM_CLOSED removed; after a
SESSION or EXAM the grace deferral starts, and with a grace of 0 ends at once and issues SCHEDULE's LAMP_OFF. That this is refused while a
reset is pending is the model's reading (log 20) (R19, R52, R55, R146, R147, R151, R153, R154, R157). -/
abbrev EntryEnds (u t : State) (tell : List Notice → Ports) (x : Effective) : Prop :=
  (let left : List Lockout := if x.kind = .session then u.lockouts else u.lockouts.filter fun l => !l.ofSchedule
   let notices : List Notice :=
     { cls := .schedule, kind := 1, subject := 0xFF, result := 0, extra := 0xFF } :: lostNotices u.lockouts left
   let starts : Notice := { cls := .schedule, kind := 2, subject := x.index.val, result := 0, extra := u.schedule.grace }
   let fires : Notice := { cls := .schedule, kind := 3, subject := 0, result := 0, extra := 0 }
   let gone : State := { u with lockouts := left, schedule := { u.schedule with remembered := none } }
   let fired : State := { gone with schedule := { gone.schedule with deferral := none } }
   let told (l : List Notice) : Ports := tell (notices ++ l)
   (x.kind = .closed → t = { gone with ports := told [] })
     ∧ (x.kind ≠ .closed → u.schedule.grace ≠ 0 → t =
        { gone with
          ports := told [starts],
          schedule := { gone.schedule with
            deferral := some { entryLeft := x.index, start := u.uptime, quietFrom := u.uptime, due := false } } })
     ∧ (x.kind ≠ .closed → u.schedule.grace = 0 →
      (u.resetWait ≠ none ∨ gone.inForce .serviceLock = true → t = { fired with ports := told [starts, fires] })
      ∧ (u.resetWait = none → gone.inForce .serviceLock = false → Darkens fired t (fun _ l => told (starts :: fires :: l)))))

/-- Entry x begins in u, after none or another, u's remembered entry. What that one leaves: the schedule's record of an EXAM or CLOSED is
removed, or carried over and renamed when x has the same kind. A deferral ends with result 2. CLOSED: when ROOM_CLOSED comes into force the
lamp is darkened at once. SESSION and EXAM: an EXAM's PANEL_HOLD is added with its effects on the floor; SCHEDULE's LAMP_ON acts by the
lamp's state; then SCHEDULE's recall of the entry's scene, but not when a SESSION or EXAM with the same scene came before: it takes the
floor and acts, or waits as elect, or is refused without effect. SCHEDULE's commands are refused while a reset is pending (log 20)
(R19, R40, R61, R146 to R151, R155, R160, R161). -/
abbrev EntryBegins (u t : State) (tell : List Notice → Ports) (x : Effective) : Prop :=
  (let old := u.schedule.remembered
   let carried : Bool := Decidable.decide (kindOf old = some x.kind ∧ x.kind ≠ .session)
   let removes : Bool := !carried && Decidable.decide (kindOf old = some .exam ∨ kindOf old = some .closed)
   let left : List Lockout := if removes then u.lockouts.filter fun l => !l.ofSchedule else u.lockouts
   let entered : List Notice :=
     { cls := .schedule, kind := 1, subject := x.index.val, result := 0, extra := entryKindCode x.kind }
       :: lostNotices u.lockouts left
       ++ (if u.schedule.deferral = none then [] else [{ cls := .schedule, kind := 3, subject := 0, result := 2, extra := 0 }])
   let kind : LockKind := if x.kind = .closed then .roomClosed else .panelHold
   let comes : Bool := !carried && Decidable.decide (x.kind ≠ .session) && !(left.any fun l => l.kind == kind)
   let locks : List Lockout :=
     if carried then u.lockouts.map fun l => if l.ofSchedule then { l with origin := .schedule x.index } else l
     else if x.kind = .session then left
     else insertLockout { kind := kind, origin := .schedule x.index, reason := none, setAt := u.uptime, expiry := none } left
   let notices : List Notice :=
     entered
       ++ if comes then
            { cls := .lockout, kind := 1, subject := lockKindCode kind, result := 0, extra := 0x10 + x.index.val }
              :: u.floor.underNotices kind
          else []
   let v : State :=
     { u with lockouts := locks, floor := if comes then u.floor.under kind else u.floor,
              schedule := { u.schedule with remembered := some x, deferral := none } }
   (x.kind = .closed →
      (comes = false → t = { v with ports := tell notices })
      ∧ (comes = true → Darkens v t (fun _ l => tell (notices ++ l))))
    ∧ (∀ k, x.scene = some k → x.kind ≠ .closed →
      (let same : Bool :=
         Decidable.decide ((kindOf old = some .session ∨ kindOf old = some .exam) ∧ old.bind Effective.scene = some k)
       let on : Bool := u.resetWait.isNone && (v.innerRefusal .schedule .lampOn).isNone
       let lit : State :=
         { v with lamp :=
             if on = true ∧ u.lamp.state = .cooldown then { u.lamp with pendingOn := some (.requester .schedule) }
             else if on = true ∧ u.lamp.state = .warmup then { u.lamp with heldOff := false } else u.lamp }
       let taken : Floor := v.floor.taken .schedule
       let refused : Bool := u.resetWait.isSome || (v.innerRefusal .schedule (.recallScene k)).isSome
       (same = true →
          (on = false → t = { v with ports := tell notices })
          ∧ (on = true → Lights v t (fun _ l => tell (notices ++ l)) .schedule))
        ∧ (same = false →
          (on = false ∨ u.lamp.state ≠ .off →
            (refused = true ∨ FloorHeld v .schedule ∨ FloorBusy v .schedule → t = { lit with ports := tell notices })
              ∧ (refused = false → FloorOpens v .schedule → v.recallLights .schedule k = false ∨ u.lamp.state ≠ .off →
                Recalls { lit with floor := taken } t
                  (fun _ l => tell (notices ++ v.floor.takenNotice .schedule ++ l)) .schedule k)
              ∧ (refused = false → FloorWaits v .schedule →
                t = { lit with ports := tell (notices ++ v.floor.displacedNotice),
                               floor := { v.floor with elect := some (.schedule, .recallScene k) } }))
          ∧ (on = true → u.lamp.state = .off →
            (refused = true ∨ FloorHeld v .schedule ∨ FloorBusy v .schedule →
              Lights v t (fun _ l => tell (notices ++ l)) .schedule)
            ∧ (EngineSound u → u.engine.powered = false → u.engine.blankReq = none → refused = false → FloorOpens v .schedule →
              Relights { v with floor := taken } t
                (tell (notices ++ lampNotice 1 1 :: (v.struck 1).bandNotices ++ v.floor.takenNotice .schedule)) .schedule k))))))

/-! ## The start after a reset -/

/-- The factory value of a record (R8, R81, R83, R123, R130, R142, R182). -/
def RecordId.factory : RecordId → Image
  | .authority => .authority { service := 0x7F, campus := 0x37, panel := 0x0F, console := 0x06 }
  | .wear =>
    .wear { wu := 0, lit := 0, realMinutes := 0, strikes := 0, dropOuts := 0, uncleanOffs := 0, replacements := 0,
            reinstatements := 0, identity := none, litMarker := false, defaulted := true }
  | .profile p => .profile p { v := 0, h := 0 }
  | .scene k =>
    .scene k { input := if h : k.val < 6 then ⟨k.val, h⟩ else 0, profile := 0, mute := false, level := .keep, power := .keep }
  | .entry e =>
    .entry e { inUse := false, kind := .session, days := 0, start := 0, finish := 1, parity := .any, scene := some 0,
               isProtected := false }
  | .source n => .source n { enabled := true, role := 0, aspect := .auto }
  | .lockout => .lockout []
  | .config => .config { ratedLife := 3000, grace := 10, room := some 0 }

/-- What a start takes for a record: the image the store holds, or the factory value when that fails its validity check (R182). -/
def Memory.started (m : Memory) (r : RecordId) : Image := if m.valid r then m.holds r else r.factory

/-- The lockout records that a start restores, in set order, with set-at 0 (R169). -/
def Memory.relocked (m : Memory) : List Lockout :=
  let held := if m.valid .lockout then m.lockouts else []
  ((held.filter fun l => l.kind == .serviceLock) ++ held.filter fun l => l.kind == .lampLock).map fun l =>
    { kind := l.kind, origin := l.origin, reason := l.reason, setAt := 0, expiry := l.expiry }

/-- The wear record once a start has loaded it, and has found it marked, or the arc alight (R65, R69, R76). -/
def WearRecord.restarted (r : WearRecord) (cold : Bool) : WearRecord :=
  if cold then
    { r with litMarker := false, uncleanOffs := if r.litMarker then min 65535 (r.uncleanOffs + 1) else r.uncleanOffs }
  else r

/-- From s, a reset has rebuilt t from t's store and lines, no schedule entry governing. Every working value is that of its record, or the
factory value where the record fails; a LAMP_LOCK is restored, or added to an expired lamp; the lamp starts in COOLDOWN, FAULT or OFF, and
an asserted THERM_HOT is an overheat there; the defaulted records are written back, WEAR first; and the notices come in the order DEFAULTED,
IN_FORCE, LAMP STATE, IN_FORCE of the THERMAL record (R25, R46, R59, R65, R67, R69, R76, R81, R90, R117, R123, R130, R156, R168, R169,
R172, R173, R182 to R185, R188). -/
abbrev Rebuilt (s t : State) (clean : Ports) : Prop :=
  (let m := t.memory
   let c := t.scenes[0]
   let failed := allRecords.filter fun r => !m.valid r
   let found : WearRecord := if m.valid .wear then m.wear else WearRecord.factory
   let cold : Bool := t.lines.lampSense || found.litMarker
   let hot : Bool := t.lines.thermHot
   let expires : Bool := decide (bandOfRatio t.ratio = .expired) && !(m.relocked.any fun l => l.reason == some .expired)
   let held : List Lockout :=
     if expires then
       (m.relocked.filter fun l => l.kind != .lampLock)
         ++ [{ kind := .lampLock, origin := .lamp, reason := some .expired, setAt := 0, expiry := none }]
     else m.relocked
   let locked : Bool := held.any fun l => l.kind == .lampLock
   let forced (k : LockKind) (o : Nat) : Notice := { cls := .lockout, kind := 1, subject := lockKindCode k, result := 0, extra := o }
   ((∀ r, r ≠ .wear → r ≠ .lockout → t.imageOf r = m.started r) ∧ t.wear.record = found.restarted cold)
     ∧ (t.floor = { holder := none, hold := false, elect := none, marker := false } ∧ t.recallNow = none ∧ t.resetWait = none
      ∧ t.uptime = 0 ∧ t.saveOwed = false ∧ t.raised = [] ∧ t.schedule.remembered = none ∧ t.schedule.deferral = none)
     ∧ (t.console.keypad = .pressed none ∧ t.console.ir = .discard)
     ∧ t.engine = { state := .idle, inFlight := none, pendingTarget := none, owedRelock := false, selected := c.input,
                    routed := c.input, userMute := c.mute, blank := .blanked, blankReq := none, lockReq := none, powered := false,
                    linkNext := 1, switchCond := false, compHeld := true, powerUpOwed := false }
     ∧ (t.profiles.active = c.profile ∧ t.profiles.slots = Vector.replicate 2 none
      ∧ t.geo = { last := bandTable t.profiles.stored[c.profile] t.routedAspect, inTransfer := none, pendingTable := none,
                  scalerTable := none, nextSeq := 0 }
      ∧ ∀ n : InputIdx, (t.source n).timing = none ∧ (t.source n).remembered = none)
     ∧ t.lockouts = held ++ (if hot then [{ kind := .thermalLock, origin := .thermal, reason := none, setAt := 0, expiry := none }] else [])
     ∧ (t.wear.running = false ∧ t.wear.sinceCheckpoint = 0 ∧ t.wear.replacement = .settled ∧ t.wear.band = bandOfRatio t.ratio
      ∧ t.wear.warnReported = decide (bandOfRatio t.ratio ≠ .good))
     ∧ t.lamp = { state := if cold then .cooldown else if locked then .fault else .off,
                  timer := if cold then some (if hot then 180 else 90) else none,
                  level := if worn (bandOfRatio t.ratio) then .eco else .normal,
                  attempts := 0, pendingOn := none, heldOff := false, heldLevel := none, restrikeUsed := false,
                  faultPending := cold && locked, startUp := cold,
                  run := s.lamp.run + (if cold then (if hot then 2 else 1) else 0) }
     ∧ (t.store.fault = false ∧ t.store.retry = none
      ∧ t.store.inFlight =
          (match failed with
           | r :: _ => some (if m.valid .wear then r.factory else RecordId.wear.factory)
           | [] => if expires then some (t.imageOf .lockout) else if cold then some (.wear t.wear.record) else none)
      ∧ t.store.slot = (if cold && (expires || !failed.isEmpty) then some t.wear.record else none)
      ∧ t.store.queue = (if expires && !failed.isEmpty then [.lockout] else [])
      ∧ t.store.repair = ((if m.valid .wear then failed.tail else failed.filter (· != .wear)).filter fun r =>
          !(expires && r == .lockout)))
     ∧ t.ports = clean.offerAll
        ((failed.map fun r => { cls := .store, kind := 2, subject := recordCode r, result := 0, extra := 0 })
          ++ (if held.any fun l => l.kind == .serviceLock then [forced .serviceLock 0] else [])
          ++ (if locked then [forced .lampLock 0x40] else [])
          ++ [lampNotice (if cold then 5 else if locked then 6 else 0) 0]
          ++ (if hot then [forced .thermalLock 0x41] else [])))

/-! ## What arrives from outside -/

/-- The levels of a data frame that carries these bits, at the middle of every window (R173). -/
def irWire (bits : List Bool) : List IrElement :=
  [.mark 50, .space 25] ++ (bits.flatMap fun b => [.mark 6, .space (if b then 15 else 6)]) ++ [.mark 6, .space 255]

/-- A message of the scaler link without payload (R91). -/
def linkBytes (kind : Byte) (num : Nat) (payload : List Byte) : List Byte :=
  LinkMsg.wire { kind := kind, num := num, payload := payload }

end Sys2Proof.Machine
end

