-- ==== Sys2Proof/Certificates/Slice0/Obligations.lean ====
section
/-! DEFINITION. What is claimed of the PHC-46: the step, the frames and invariants of every command, the serial lines, and then each family's
effect and completion, block by block. -/

open Sys2Proof Sys2Proof.Machine

/-! ## The step and the frames of all commands -/

/-- One step takes the command at the front of the queue and acts on it with the queue's rest. That an empty queue idles is the model's
choice (log 2). -/
def Obligations.StepTakesFront : Prop :=
  ∀ (s : State) (c : Instr) (rest : List Instr),
    step { s with pending := c :: rest } = exec c { s with pending := rest }
      ∧ step { s with pending := [] } = .next { s with pending := [] }

/-- Every command answers a next state and leaves the queue of commands alone. The stored records change at a write's completion and a
power-on alone; the clock, the uptime count, the lines, the authority table and the scenes change by their own rows alone (R8, R48, R59,
R130, R138, R141, R182, R185). -/
def Obligations.OwnersAlone : Prop :=
  ∀ (c : Instr) (s : State), ∃ t, exec c s = .next t ∧
    (t.pending = s.pending ∧ (writesMemory c = false → t.memory = s.memory) ∧ (movesClock c = false → t.clock = s.clock)
      ∧ (movesUptime c = false → t.uptime = s.uptime) ∧ (movesLines c = false → t.lines = s.lines)
      ∧ (writesAuthority c = false → t.authority = s.authority) ∧ (writesScenes c = false → t.scenes = s.scenes))

/-- The rows of one port, or of none, reach another port's block by their notices alone, the same for every such port: each is queued there
behind what waited, or counted where the mask or the places do not admit it; its receiver, input buffer, mask, OVERRUN flag and rate stay
(R4, R179 to R181). -/
def Obligations.PortsApart : Prop :=
  ∀ (c : Instr) (s t : State), exec c s = .next t → isReset c = false →
    ∃ l : List Notice, ∀ q : Port, portOf c ≠ some q →
      t.port q = l.foldl PortBlock.offer (s.port q)
        ∧ (t.port q).rx = (s.port q).rx ∧ (t.port q).inbox = (s.port q).inbox ∧ (t.port q).mask = (s.port q).mask
        ∧ (t.port q).overrun = (s.port q).overrun ∧ (t.port q).rate = (s.port q).rate ∧ (s.port q).outq <+: (t.port q).outq
        ∧ (l = [] → (t.port q).counts = (s.port q).counts)

/-! ## Invariants that every step keeps -/

/-- At most two entries wait in a port's input buffer and at most eight frames in its outbound queue, and no count passes 255; the write
queue holds at most eight records, none twice, never WEAR, and none that the repair set holds (R2, R4, R181, R183, R184). -/
def Obligations.PlacesKept : Prop :=
  ∀ s t : State, step s = .next t → (PortsSound s → PortsSound t) ∧ (QueueSound s → QueueSound t)

/-- Every stored, trial and waiting keystone pair stays within the limits, and every count and field in its range, the timings of the
sources and the expiry of the lockouts among them (R66, R67, R70, R83, R91, R106, R109, R126, R138, R141, R142, R152, R158, R175). -/
def Obligations.FieldsKept : Prop :=
  ∀ s t : State, step s = .next t → (PairsSound s → PairsSound t) ∧ (RangesSound s → RangesSound t)

/-- The wear state stays the band of the wear ratio (R71). -/
def Obligations.WearStateKept : Prop := ∀ s t : State, BandSound s → step s = .next t → BandSound t

/-- The lockout set stays in order without repeats and within its bounds, each record's origin, reason and expiry as its kind has them, and
the schedule's record stands exactly while the remembered entry calls for it; and the remembered entry stays the effective one, as every
tick, SET_CLOCK, change of an entry and start has it evaluated (R145, R146, R150, R156, R158, R159). -/
def Obligations.LockoutsAndScheduleKept : Prop :=
  ∀ s t : State, step s = .next t → (LockoutsSound s → LockoutsSound t) ∧ (ScheduleSound s → ScheduleSound t)

/-- Between commands nothing of an action is left over, the engine is IDLE exactly with no switch in flight, and it knows the scaler's power
as the lamp controller supplies it (R45, R90, R99, R103). -/
def Obligations.EngineKept : Prop :=
  ∀ s t : State, Quiet s → EngineSound s → PowerSound s → step s = .next t → Quiet t ∧ EngineSound t ∧ PowerSound t

/-- An input has a timing only while it is routed with its signal present and the scaler powered; and the picture is not left unblanked
under a holding composition: with no blank request outstanding the record agrees with it (R85, R92, R95). -/
def Obligations.PictureKept : Prop :=
  ∀ s t : State, Quiet s → EngineSound s → PowerSound s → step s = .next t →
    (TimingSound s → TimingSound t) ∧ (BlankSound s → BlankSound t)

/-- HOLD stands with a holder alone; an elect is never the holder, stands with a unit in flight, and under HOLD is stronger than the holder
(R25, R32). -/
def Obligations.FloorKept : Prop :=
  ∀ s t : State, Quiet s → EngineSound s → PowerSound s → FloorSound s → step s = .next t → FloorSound t

/-- The state after reset meets every invariant. What its store and its lines hold is the model's choice (log 4, log 5). -/
def Obligations.ResetSound : Prop :=
  (PortsSound State.reset ∧ QueueSound State.reset ∧ PairsSound State.reset ∧ RangesSound State.reset ∧ BandSound State.reset)
    ∧ (LockoutsSound State.reset ∧ ScheduleSound State.reset ∧ Quiet State.reset ∧ EngineSound State.reset ∧ PowerSound State.reset)
    ∧ (TimingSound State.reset ∧ BlankSound State.reset ∧ FloorSound State.reset)

/-! ## The serial lines (R1 to R5, R11, R20) -/

/-- A hunting receiver that is sent a frame's bytes enters it, or enters BAD_FRAME with its tag when the check byte is wrong; with two
entries held the new one is dropped and OVERRUN is set (R1, R2, R20). -/
def Obligations.FrameReceived : Prop :=
  ∀ (s : State) (p : Port) (f : Frame) (check : Byte), (s.port p).rx = .hunting → f.payload.length ≤ 48 →
    exec (.frameReceive p (f.wire.dropLast ++ [check])) s =
      .next (s.setPort p
        (if 2 ≤ (s.port p).inbox.length then { s.port p with overrun := true }
         else { s.port p with
           inbox := (s.port p).inbox ++ [if check = f.wire.getLastD 0 then .frame f else .bad f.tag] }))

/-- A frame cut short by a gap or a stop-bit error, or refused for its LEN, leaves BAD_FRAME with its tag, or nothing when its tag had not
come; the receiver hunts again. A sent frame gives up its place; the line's return to mark ends a break's hold; a BAD_FRAME entry is
answered BAD_FRAME with its tag and code 00, an unknown code UNKNOWN_COMMAND with the code echoed (R1, R2, R4, R5, R11). -/
def Obligations.LineRows : Prop :=
  ∀ (s : State) (p : Port) (f : Frame) (n : Nat) (tag code len : Byte), f.payload.length ≤ 48 →
    (let dropped : PortBlock := (if 2 ≤ (s.port p).inbox.length then { s.port p with overrun := true }
        else { s.port p with inbox := (s.port p).inbox ++ [.bad f.tag] })
     ((s.port p).rx = .hunting →
        (2 ≤ n → n < f.wire.length →
          exec (.frameGapTimeout p (f.wire.take n)) s = .next (s.setPort p dropped)
            ∧ exec (.frameStopBitError p (f.wire.take n)) s = .next (s.setPort p dropped))
        ∧ (n ≤ 1 → exec (.frameGapTimeout p (f.wire.take n)) s = .next s
          ∧ exec (.frameStopBitError p (f.wire.take n)) s = .next s)
        ∧ (48 < len.toNat → exec (.frameLenOver48 p [0xC3, f.tag, code] len) s = .next (s.setPort p dropped)))
       ∧ exec (.outboundFrameSent p) s = .next (s.setPort p { s.port p with outq := (s.port p).outq.tail })
       ∧ ((s.port p).rx = .breakHeld → exec (.lineReturnsToMark p) s = .next (s.setPort p { s.port p with rx := .hunting }))
       ∧ (Quiet s → (s.port p).outq.length < 8 →
        ((s.port p).inbox.head? = some (.bad tag) →
          exec (.badFrameEntry p) s = .next (s.setPort p ((s.port p).answered tag 0 { verdict := .badFrame })))
        ∧ ((s.port p).inbox.head? = some (.frame f) → (∀ c : Code, f.code ≠ codeByte c) →
          exec (.unknownCommand p) s =
            .next (s.setPort p ((s.port p).answered f.tag f.code { verdict := .unknownCommand })))))

/-- A port reset empties the port's buffers, clears its counts and OVERRUN, restores its mask and keeps its rate; its requester gives up the
floor, and an elect present is run at once as its command's owner has it, or its own waiting command is dropped, with the notices to every
port. In the hand-over these are the model's choices: ELECT_REFUSED before HOLDER (log 11), no second activity (log 22), an elect that
runs while a reset is pending (log 20), a recall that joins a switch and becomes its requester (log 38), whose mute acts before its table
(log 15), and a mute in UNMUTING whose SWITCH_END follows its own effects (log 14) (R5, R30 to R35, R38, R39, R47, R69, R92 to R96, R99, R100,
R104, R118, R124, R125, R132 to R136). -/
def Obligations.PortResetActs : Prop :=
  ∀ (s : State) (p : Port) (e : Requester) (c : Cmd) (n : InputIdx) (q : ProfileIdx) (k : SceneIdx) (x : Keystone) (d : Direction)
    (m : Bool), Quiet s →
    (let r := portRequester p
     let b : PortBlock := { rx := .breakHeld, inbox := [], outq := [], mask := 0x1FF#9, counts := Vector.replicate 9 0, overrun := false,
                            rate := (s.port p).rate }
     (s.floor.holder ≠ some r → (∀ e ∈ s.floor.elect, e.1 ≠ r) → exec (.portReset p) s = .next (s.setPort p b))
       ∧ (s.floor.holder = some r → s.floor.elect = none →
          exec (.portReset p) s = .next
            { s with ports := (s.setPort p b).ports.offerAll [{ cls := .floor, kind := 1, subject := 0xFF, result := 0, extra := 0 }],
                     floor := { s.floor with holder := none, hold := false } })
       ∧ (s.floor.holder = some r → s.floor.elect = some (e, c) → e ≠ r → ∃ t, exec (.portReset p) s = .next t ∧
          (HandedOver s t (fun l => (s.setPort p b).ports.offerAll l) e c n q k x d m))
       ∧ (s.floor.holder ≠ some r → s.floor.elect = some (r, c) →
          exec (.portReset p) s = .next
            { s with ports := (s.setPort p b).ports.offerAll
                       [{ cls := .floor, kind := 3, subject := requesterCode r, result := 0, extra := (codeByte (cmdCode c)).toNat }],
                     floor := { s.floor with elect := none } }))

/-! ## Intake (R10 to R19) -/

/-- A refused command changes nothing but its port, whose response carries the refusal: BAD_LENGTH, WRONG_STATE while a reset is pending,
NO_AUTHORITY, LOCKED_OUT, BAD_VALUE, the owner's WRONG_STATE, and the store's and the lockout set's refusals; a floor command that would
pass the floor, or wait as elect, and is refused at step 10 leaves holder, HOLD and elect as they were (R10 to R16, R19, R31). -/
def Obligations.RefusalChangesNothing : Prop :=
  ∀ (s : State) (p : Port) (c : Code) (tag : Byte) (pl : List Byte), Quiet s → (s.port p).outq.length < 8 →
    (s.port p).inbox.head? = some (.frame { tag := tag, code := codeByte c, payload := pl }) →
    (let r := portRequester p
     let refused (v : Verdict) : Prop := exec (rowOf c p) s = .next (s.answered p tag c { verdict := v })
     (pl.length ≠ codeLength c → refused .badLength)
       ∧ (pl.length = codeLength c →
        (s.resetWait ≠ none → refused .wrongState)
        ∧ (s.resetWait = none →
          (s.mayUse r c = false ∨ s.conditionsHold r c pl = false → refused .noAuthority)
          ∧ (s.mayUse r c = true → s.conditionsHold r c pl = true →
            (s.lockedOut5 r c = true ∨ s.lockedOut6 r c = true → refused .lockedOut)
            ∧ (s.lockedOut5 r c = false → s.lockedOut6 r c = false →
              (parseCmd c pl = none → refused .badValue)
              ∧ (∀ cmd b, parseCmd c pl = some (cmd, b) →
                (∀ v, s.ownerRefusal cmd = some v → refused v)
                ∧ (s.ownerRefusal cmd = none → s.isFloor cmd = false ∨ FloorOpens s r ∨ FloorWaits s r →
                  ∀ v, s.lateRefusal r cmd = some v → refused v)))))))

/-- Each read answers DONE with the data of the room state as it stands, of the layout's length, and changes nothing but its port;
READ_COUNTS returns its port's nine counts and zeroes them, so its own response carries no ATTENTION (R18, R22, R181). -/
def Obligations.ReadsAnswer : Prop :=
  ∀ (s : State) (p : Port) (tag : Byte) (n : InputIdx) (q : ProfileIdx) (k : SceneIdx) (e : EntryIdx), Quiet s →
    (let told (c : Code) (d : List Byte) : State := s.answered p tag c { verdict := .done, data := d }
     (Passes s p .readStatus tag [] → exec (.readStatus p) s = .next (told .readStatus s.statusData) ∧ s.statusData.length = 26)
       ∧ (Passes s p .readSource tag [byte (inputCode n)] →
          exec (.readSource p) s = .next (told .readSource (s.sourceData n)) ∧ (s.sourceData n).length = 20)
       ∧ (Passes s p .readWear tag [] → exec (.readWear p) s = .next (told .readWear s.wearData) ∧ s.wearData.length = 35)
       ∧ (Passes s p .readProfile tag [byte q.val] →
          exec (.readProfile p) s = .next (told .readProfile (s.profileData q)) ∧ (s.profileData q).length = 7)
       ∧ (Passes s p .readScene tag [byte k.val] →
          exec (.readScene p) s = .next (told .readScene (s.sceneData k)) ∧ (s.sceneData k).length = 6)
       ∧ (Passes s p .readEntry tag [byte e.val] →
          exec (.readEntry p) s = .next (told .readEntry (s.entryData e)) ∧ (s.entryData e).length = 11)
       ∧ (Passes s p .readLockouts tag [] →
          exec (.readLockouts p) s = .next (told .readLockouts s.lockoutData)
            ∧ s.lockoutData.length = 1 + 5 * s.lockouts.length)
       ∧ (Passes s p .readAuthority tag [] →
          exec (.readAuthority p) s = .next (told .readAuthority s.authorityData) ∧ s.authorityData.length = 4)
       ∧ (Passes s p .readCounts tag [] → exec (.readCounts p) s = .next (s.setPort p
          { s.port p with
            inbox := (s.port p).inbox.tail, counts := Vector.replicate 9 0, overrun := false,
            outq := (s.port p).outq ++
              [{ tag := tag, code := 0x80,
                 payload := (if (s.port p).overrun then 4 else 0) :: 0x09 :: (s.port p).counts.toList.map byte }] })))

/-- The notice mask: SET_NOTICE_MASK is VIEW, no lockout refuses it, bits 9 to 15 are refused, its port alone takes the new mask with counts
and queued frames unchanged and DONE carries it; the mask rules every later offer; each reset sets every class to SEND (R180). -/
def Obligations.NoticeMask : Prop :=
  codeClass .setNoticeMask = .view
    ∧ (∀ (s : State) (r : Requester), s.lockedOut5 r .setNoticeMask = false ∧ s.lockedOut6 r .setNoticeMask = false)
    ∧ (∀ (s : State) (p : Port) (tag : Byte) (m : Nat), Quiet s → m < 65536 → Passes s p .setNoticeMask tag (bytes16 m) →
        (512 ≤ m → exec (.setNoticeMask p) s = .next (s.answered p tag .setNoticeMask { verdict := .badValue }))
        ∧ (m < 512 → exec (.setNoticeMask p) s = .next (s.setPort p
            (PortBlock.answered { s.port p with mask := BitVec.ofNat 9 m } tag (codeByte .setNoticeMask)
              { verdict := .done, data := bytes16 m }))))
    ∧ (∀ (b : PortBlock) (n : Notice),
        (b.mask.getLsbD (classIndex n.cls).val = true → b.outq.length + 2 ≤ 8 → b.offer n = { b with outq := b.outq ++ [n.frame] })
        ∧ (b.mask.getLsbD (classIndex n.cls).val = false ∨ 8 < b.outq.length + 2 →
            b.offer n = { b with counts := b.counts.set (classIndex n.cls) (min 255 (b.counts[classIndex n.cls] + 1)) }))
    ∧ (∀ (s t : State) (p q : Port) (x : PowerOn),
        (exec (.powerOnReset x) s = .next t → (t.port q).mask = 0x1FF#9)
        ∧ (exec .resetN s = .next t → (t.port q).mask = 0x1FF#9)
        ∧ (s.resetReady = true → exec .controllerResetBegin s = .next t → (t.port q).mask = 0x1FF#9)
        ∧ (exec (.portReset p) s = .next t → (t.port p).mask = 0x1FF#9))

/-! ## The floor (R25 to R40) -/

/-- A floor command that step 9 does not let proceed: FLOOR_HELD under the HOLD of a stronger holder, FLOOR_BUSY against an elect not
weaker, and WAITING as elect otherwise, displacing a weaker one with PREEMPTED (R28 to R30, R39). CLAMPED on such a WAITING is the
model's reading (log 33). -/
def Obligations.FloorContention : Prop :=
  ∀ (s : State) (p : Port) (c : Code) (tag : Byte) (pl : List Byte) (cmd : Cmd) (b : Bool),
    Quiet s → Passes s p c tag pl → parseCmd c pl = some (cmd, b) → s.ownerRefusal cmd = none → s.isFloor cmd = true →
    (let r := portRequester p
     (FloorHeld s r → exec (rowOf c p) s = .next (s.answered p tag c { verdict := .floorHeld }))
       ∧ (FloorBusy s r → exec (rowOf c p) s = .next (s.answered p tag c { verdict := .floorBusy }))
       ∧ (FloorWaits s r → s.lateRefusal r cmd = none → exec (rowOf c p) s = .next
          { s.touch r with
            ports := s.told p tag c { verdict := .waiting, clamped := b } s.floor.displacedNotice,
            floor := { s.floor with elect := some (r, cmd) } }))

/-- HOLD_FLOOR that proceeds sets HOLD and drops a weaker elect with FLOOR_HELD, and changes nothing from a holder that has it;
RELEASE_FLOOR from the holder frees the floor, and from another changes nothing. That HOLDER comes before the ELECT_DROPPED of the weaker
elect is the model's choice (log 36) (R32, R35, R39). -/
def Obligations.HoldAndRelease : Prop :=
  ∀ (s : State) (p : Port) (tag : Byte), Quiet s →
    (let r := portRequester p
     let dropped : Option (Requester × Cmd) := s.floor.elect.filter fun e => stronger r e.1
     (Passes s p .holdFloor tag [] →
        (s.floor.holder = some r → s.floor.hold = true →
          exec (.holdFloor p) s = .next ((s.touch r).answered p tag .holdFloor { verdict := .done }))
        ∧ (FloorOpens s r → ¬ (s.floor.holder = some r ∧ s.floor.hold = true) → exec (.holdFloor p) s = .next
          { s.touch r with
            ports := s.told p tag .holdFloor { verdict := .done }
              ({ cls := .floor, kind := 1, subject := requesterCode r, result := 0, extra := 1 } ::
                dropped.toList.map fun e =>
                  { cls := .floor, kind := 3, subject := requesterCode e.1, result := 0x97, extra := (codeByte (cmdCode e.2)).toNat }),
            floor := { holder := some r, hold := true, marker := s.floor.marker,
                       elect := if dropped = none then s.floor.elect else none } }))
       ∧ (Passes s p .releaseFloor tag [] →
        (s.floor.holder ≠ some r → exec (.releaseFloor p) s = .next (s.answered p tag .releaseFloor { verdict := .done }))
        ∧ (s.floor.holder = some r → s.floor.elect = none → exec (.releaseFloor p) s = .next
          { s with
            ports := s.told p tag .releaseFloor { verdict := .done }
              [{ cls := .floor, kind := 1, subject := 0xFF, result := 0, extra := 0 }],
            floor := { s.floor with holder := none, hold := false } })))

/-- A release with an elect present hands the floor over. A command that steps 6 to 11 now refuse is discarded with ELECT_REFUSED and the
floor left empty; any other acts, each kind of floor command as it does when it is taken, with the elect's requester as holder. These are
the model's choices: ELECT_REFUSED before HOLDER (log 11), no second activity (log 22), a recall that joins a switch and becomes its
requester (log 38), whose mute acts within its step (log 15), and a mute in UNMUTING whose SWITCH_END follows its own effects (log 14)
(R30 to R35, R39, R47, R69, R92 to R96, R99, R100, R104, R118, R124, R125, R132 to R136). -/
def Obligations.HandOver : Prop :=
  ∀ (s : State) (p : Port) (tag : Byte) (e : Requester) (c : Cmd) (n : InputIdx) (q : ProfileIdx) (k : SceneIdx) (x : Keystone)
    (d : Direction) (m : Bool), Quiet s → Passes s p .releaseFloor tag [] →
    s.floor.holder = some (portRequester p) → s.floor.elect = some (e, c) → e ≠ portRequester p →
    ∃ t, exec (.releaseFloor p) s = .next t ∧
      (HandedOver s t (s.told p tag .releaseFloor { verdict := .done }) e c n q k x d m)

/-! ## PRESENT commands (R93, R94, R100, R104, R132 to R135) -/

/-- SET_MUTE and CLEAR_MUTE that proceed pass the floor, set user mute and let the blank control act: BLANK or UNBLANK goes out with the
next link number when the composition changed, no blank request is outstanding and the record disagrees. A SET_MUTE that turns the
composition in UNMUTING ends the switch SWITCHED, and with the chain the unit: a barred holder is freed, an elect's command is tried, or an
owed relock or the pending target's switch starts. That SWITCH_END follows the command's own DONE and HOLDER is the model's choice (log 14),
and in the hand-over so are ELECT_REFUSED before HOLDER (log 11) and no second activity (log 22) (R27, R31, R33, R34, R39, R92 to R96, R99,
R100, R104, R118, R124, R125, R132 to R136). -/
def Obligations.MuteActs : Prop :=
  ∀ (s : State) (p : Port) (tag : Byte) (m : Bool) (e : Requester) (a : Cmd) (i : InputIdx) (q : ProfileIdx) (z : SceneIdx) (x : Keystone)
    (d : Direction) (b : Bool), Quiet s →
    (let r := portRequester p
     let c : Code := if m then .setMute else .clearMute
     let u : State := { s.touch r with floor := s.floor.taken r }
     let on : State := { u with engine := { u.engine with userMute := true } }
     let told (l : List Notice) : Ports := s.told p tag c { verdict := .done } (s.floor.takenNotice r ++ l)
     Passes s p c tag [] → FloorOpens s r → ∃ t, exec (rowOf c p) s = .next t ∧
      (Muting u t told m
        ∧ (∀ w, s.engine.state = .unmuting → m = true → s.engine.inFlight = some w → s.engine.compHeld = false →
          Chains on.watched t (fun l => told (w.ended 0xA0 :: l)) w e a i q z x d b)))

/-- SELECT_INPUT that proceeds: with the scaler unpowered the selected input alone changes, answered DONE; a standing picture is answered
DONE; a busy engine joins its target, or keeps the input as pending target, displacing another with PREEMPTED, and a recall with it
(R93, R100, R136). -/
def Obligations.SelectWithoutStart : Prop :=
  ∀ (s : State) (p : Port) (tag : Byte) (n : InputIdx), Quiet s → Passes s p .selectInput tag [byte (inputCode n)] →
    s.enabled n = true → FloorOpens s (portRequester p) → s.engine.powered = false ∨ s.engine.inFlight ≠ none ∨ s.standing n = true →
    (let r := portRequester p
     ∃ t, exec (.selectInput p) s = .next t ∧
      (Selects { s.touch r with floor := s.floor.taken r } t
        (fun v l => s.told p tag .selectInput { verdict := v } (s.floor.takenNotice r ++ l)) r n))

/-- SELECT_INPUT of an input that does not stand, with the engine IDLE: STARTED, the unit marker set, and the switch in MUTING with BLANK
asked for, or already routed and in LOCKING, the first attempt quick exactly when a timing is remembered (R27, R93 to R96). -/
def Obligations.SelectStarts : Prop :=
  ∀ (s : State) (p : Port) (tag : Byte) (n : InputIdx), Quiet s → Passes s p .selectInput tag [byte (inputCode n)] →
    s.enabled n = true → FloorOpens s (portRequester p) → s.engine.powered = true → s.engine.inFlight = none →
    s.engine.pendingTarget = none → s.standing n = false →
    (let r := portRequester p
     ∃ t, exec (.selectInput p) s = .next t ∧
      (Starts { s.touch r with floor := s.floor.taken r } t
        (fun v l => s.told p tag .selectInput { verdict := v } (s.floor.takenNotice r ++ l)) r n))

/-- RECALL_SCENE that proceeds: its LAMP_ON strikes from OFF, waits in COOLDOWN, its level is given the lamp, CLAMPED when reduced; mute and
profile are taken; then the selected input alone, nothing, an APPLY switch, a SELECT switch, or a busy engine joined or given a pending
target, as step 5 finds it. A scene's mute that turns the composition in UNMUTING ends that switch SWITCHED, and with the chain the unit.
These are the model's choices: a joined switch takes the recall's requester (log 38), the mute acts within its step (log 15), SWITCH_END
follows the recall's own effects (log 14), and in a hand-over ELECT_REFUSED comes before HOLDER (log 11) with no second activity (log 22)
(R27, R33, R34, R39, R92 to R96, R99, R100, R104, R118, R124, R125, R132 to R136). -/
def Obligations.RecallActs : Prop :=
  ∀ (s : State) (p : Port) (tag : Byte) (k : SceneIdx) (e : Requester) (a : Cmd) (i : InputIdx) (q : ProfileIdx) (z : SceneIdx) (x : Keystone)
    (d : Direction) (b : Bool), Quiet s →
    Passes s p .recallScene tag [byte k.val] → s.enabled s.scenes[k].input = true → FloorOpens s (portRequester p) →
    (let r := portRequester p
     let c := s.scenes[k]
     let u : State := { s.touch r with floor := s.floor.taken r }
     let told (y : Reply) (l : List Notice) : Ports := s.told p tag .recallScene y (s.floor.takenNotice r ++ l)
     let started : Reply := { verdict := .started, clamped := (u.levelGiven r c).2 }
     (s.recallLights r k = false ∨ s.lamp.state ≠ .off → ∃ t, exec (.recallScene p) s = .next t ∧
        (Recalls u t told r k
          ∧ (∀ w, s.engine.powered = true → s.engine.state = .unmuting → c.mute = true → s.engine.inFlight = some w →
              s.engine.compHeld = false →
            (let lost : List Notice := (s.engine.displaced w.target c.input).toList.map PendingTarget.lost
             Chains (u.recallJoined r k w) t (fun l => told started (lost ++ (w.carrying c.input r).ended 0xA0 :: l))
               (w.carrying c.input r) e a i q z x d b))))
       ∧ (s.recallLights r k = true → s.lamp.state = .off → EngineSound s → s.engine.powered = false → s.engine.blankReq = none →
        ∃ t, exec (.recallScene p) s = .next t ∧
          (Relights u t
            (told { verdict := .done, clamped := ((u.struck 1).rebanded.levelGiven r c).2 }
              (lampNotice 1 1 :: (u.struck 1).bandNotices)) r k)))

/-! ## POWER commands (R47, R54 to R56, R69, R103) -/

/-- LAMP_ON: in OFF a strike begins with attempt count 1 and its charge, the record is checkpointed with the marker set, a new wear state has
its effects, the scaler is powered, and a POWER_UP switch to the selected input is routed and locking, answered STARTED; JOINED with no
effect in STRIKING, RETRY_PAUSE and LIT, JOINED with held-off cleared in WARMUP, WAITING as pending-on in COOLDOWN; WRONG_STATE while a
replacement is pending (R47, R54, R69, R71 to R74, R76, R80, R95, R103). -/
def Obligations.LampOnActs : Prop :=
  ∀ (s : State) (p : Port) (tag : Byte), Quiet s → Passes s p .lampOn tag [] →
    (let r := portRequester p
     (s.replacing = true → exec (.lampOn p) s = .next (s.answered p tag .lampOn { verdict := .wrongState }))
       ∧ (s.replacing = false → ∃ t, exec (.lampOn p) s = .next t ∧
        (Lights (s.touch r) t (fun v l => s.told p tag .lampOn { verdict := v } l) r)))

/-- SET_LAMP_LEVEL: held in WARMUP, answered WAITING; the lamp level at once elsewhere, DONE; NORMAL becomes ECO with CLAMPED at END_OF_LIFE and
EXPIRED (R56). -/
def Obligations.LampLevelSet : Prop :=
  ∀ (s : State) (p : Port) (tag : Byte) (l : Level), Quiet s → Passes s p .setLampLevel tag [byte (levelCode l)] →
    ∃ t, exec (.setLampLevel p) s = .next t ∧
      (Levels (s.touch (portRequester p)) t (fun v b => s.told p tag .setLampLevel { verdict := v, clamped := b } []) l)

/-- LAMP_OFF: DONE with no effect in OFF and FAULT, COOLDOWN for 90 s with a checkpoint from STRIKING, RETRY_PAUSE and LIT, held-off and
WAITING in WARMUP, the pending-on cleared in COOLDOWN; in every case a grace deferral ends with DEFERRAL_END 1. That DEFERRAL_END comes
before the LAMP STATE notice is the model's choice (log 13) (R52, R55, R155). -/
def Obligations.LampOffActs : Prop :=
  ∀ (s : State) (p : Port) (tag : Byte), Quiet s → Passes s p .lampOff tag [] →
    (let ended : List Notice :=
       if s.schedule.deferral = none then [] else [{ cls := .schedule, kind := 3, subject := 0, result := 1, extra := 0 }]
     ∃ t, exec (.lampOff p) s = .next t ∧
      (Darkens { s with schedule := { s.schedule with deferral := none } } t
        (fun v l => s.told p tag .lampOff { verdict := v } (ended ++ l))))

/-! ## ADJUST commands (R88, R89, R109, R110, R118, R124 to R131) -/

/-- A written pair: v clamped to ±30, h to ±20, and |h| brought to floor((120 - 3|v|) / 4) with h's sign kept when 3|v| + 4|h| exceeds 120.
A nudge moves its coordinate by 1 within its limit and then meets the budget. For a pair within the limits the sixteen bands are
numbered in order and every point lies on the raster, each band's start no further right than column 399 and its end no further left
than 1318; round() gives the nearest integer, halves away from zero (R108, R109, R110, R111, R113). -/
def Obligations.GeometryLimits : Prop :=
  (∀ (k : Keystone) (d : Direction),
    (let v : Int := max (-30) (min 30 k.v)
     let h : Int := max (-20) (min 20 k.h)
     let r := clampKeystone k
     (r.v = v ∧ Keystone.inLimits r = true
       ∧ (if 3 * |v| + 4 * |h| ≤ 120 then r.h = h
          else |r.h| = (120 - 3 * |v|) / 4 ∧ (0 < h → 0 ≤ r.h) ∧ (h < 0 → r.h ≤ 0)))
      ∧ (Keystone.inLimits k = true →
        (let r := (nudge k d).1
         let vTo : Int := match d with | .vUp => min 30 (k.v + 1) | .vDown => max (-30) (k.v - 1) | _ => k.v
         let hTo : Int := match d with | .hUp => min 20 (k.h + 1) | .hDown => max (-20) (k.h - 1) | _ => k.h
         r.v = vTo ∧ Keystone.inLimits r = true
           ∧ (if 3 * |vTo| + 4 * |hTo| ≤ 120 then r.h = hTo else |r.h| = (120 - 3 * |vTo|) / 4)
           ∧ ((nudge k d).2 = true ↔ r ≠ plainMove k d)))))
    ∧ (∀ (k : Keystone) (a : AspectClass), Keystone.inLimits k = true →
      (bandTable k a).bands.map Band.b = List.range 16
        ∧ ∀ b ∈ (bandTable k a).bands, 0 ≤ b.x0 ∧ b.x0 ≤ 399 ∧ 1318 ≤ b.x1 ∧ b.x1 ≤ 1919
          ∧ 0 ≤ b.y0 ∧ b.y0 ≤ 1199 ∧ 0 ≤ b.y1 ∧ b.y1 ≤ 1199)
    ∧ ∀ (n : Int) (d : Nat), 0 < d →
      2 * |n - d * roundDiv n d| ≤ d ∧ (2 * |n - d * roundDiv n d| = d → |n| < d * |roundDiv n d|)

/-- SET_KEYSTONE and NUDGE_KEYSTONE of a profile not active pass without the floor: with no slot on it the stored pair is written and its
record saved, and a slot on it is written in its place with nothing saved; DONE, with CLAMPED when the pair was brought into range (R26,
R109, R110, R125). -/
def Obligations.KeystoneWritten : Prop :=
  ∀ (s : State) (p : Port) (tag v h : Byte) (q : ProfileIdx) (d : Direction), Quiet s → s.profiles.active ≠ q →
    (let sent : Keystone := { v := v.toInt, h := h.toInt }
     let moved := nudge (s.effectivePair q) d
     let dir : Byte := match d with | .vUp => 0 | .vDown => 1 | .hUp => 2 | .hDown => 3
     let kept (c : Code) (k : Keystone) (b : Bool) : State :=
       { s.answered p tag c { verdict := .done, clamped := b } with
         profiles := { s.profiles with stored := s.profiles.stored.set q k } }
     let tried (c : Code) (t : SlotIdx) (k : Keystone) (b : Bool) : State :=
       { s.answered p tag c { verdict := .done, clamped := b } with
         profiles := { s.profiles with slots := s.profiles.slots.set t (some { target := q, pair := k }) } }
     (Passes s p .setKeystone tag [byte q.val, v, h] →
        (s.winner q = none → StoreTakes s (.profile q) → ∃ t, exec (.setKeystone p) s = .next t ∧
          (OnlySaved (kept .setKeystone (clampKeystone sent) (decide (clampKeystone sent ≠ sent))) t ∧ Saving t (.profile q)))
        ∧ (∀ t, s.winner q = some t → exec (.setKeystone p) s =
            .next (tried .setKeystone t (clampKeystone sent) (decide (clampKeystone sent ≠ sent)))))
       ∧ (Passes s p .nudgeKeystone tag [byte q.val, dir] →
        (s.winner q = none → StoreTakes s (.profile q) → ∃ t, exec (.nudgeKeystone p) s = .next t ∧
          (OnlySaved (kept .nudgeKeystone moved.1 moved.2) t ∧ Saving t (.profile q)))
        ∧ (∀ t, s.winner q = some t → exec (.nudgeKeystone p) s = .next (tried .nudgeKeystone t moved.1 moved.2))))

/-- SET_KEYSTONE and NUDGE_KEYSTONE of the active profile are floor commands: the floor passes, the winning slot takes the pair or else the
stored profile, whose record is saved, and when the effective pair changed the recomputed table is handed to the scaler (R26, R31, R109,
R110, R115, R118, R125). -/
def Obligations.ActiveKeystoneWritten : Prop :=
  ∀ (s : State) (p : Port) (tag v h : Byte) (d : Direction), Quiet s → FloorOpens s (portRequester p) →
    (let r := portRequester p
     let q := s.profiles.active
     let u : State := { s.touch r with floor := s.floor.taken r }
     let sent : Keystone := { v := v.toInt, h := h.toInt }
     let moved := nudge (s.effectivePair q) d
     let dir : Byte := match d with | .vUp => 0 | .vDown => 1 | .hUp => 2 | .hDown => 3
     s.winner q ≠ none ∨ StoreTakes s (.profile q) →
       (Passes s p .setKeystone tag [byte q.val, v, h] → ∃ t, exec (.setKeystone p) s = .next t ∧
          (Rekeys u t (s.told p tag .setKeystone { verdict := .done, clamped := decide (clampKeystone sent ≠ sent) }
            (s.floor.takenNotice r)) q (clampKeystone sent)))
       ∧ (Passes s p .nudgeKeystone tag [byte q.val, dir] → ∃ t, exec (.nudgeKeystone p) s = .next t ∧
          (Rekeys u t (s.told p tag .nudgeKeystone { verdict := .done, clamped := moved.2 } (s.floor.takenNotice r)) q moved.1)))

/-- SELECT_PROFILE: an ADJUST command and a floor command that passes step 10. Naming the active profile it changes nothing; naming another
it makes that profile active and the table recomputed from its effective pair is handed towards the scaler; the unit marker and the
blanking stay, and an engine in APPLYING goes on with the table added to what it waits for (R124). -/
def Obligations.ProfileSelected : Prop :=
  codeClass .selectProfile = .adjust
    ∧ ∀ (s : State) (p : Port) (tag : Byte) (q : ProfileIdx),
      (s.isFloor (.selectProfile q) = true ∧ ∀ r, s.lateRefusal r (.selectProfile q) = none)
      ∧ (Quiet s → Passes s p .selectProfile tag [byte q.val] → FloorOpens s (portRequester p) →
        (let r := portRequester p
         ∃ t, exec (.selectProfile p) s = .next t ∧
          (Reprofiles { s.touch r with floor := s.floor.taken r } t
            (s.told p tag .selectProfile { verdict := .done } (s.floor.takenNotice r)) q)))

/-- OPEN_TRIAL disables the slot, copies into it the effective pair that then shows, and enables it; COMMIT_TRIAL stores the slot's pair, saves
it and disables the slot; DISCARD_TRIAL disables it. Disabling the winning slot of the active profile, and enabling a slot that then wins
it, has the table recomputed and handed towards the scaler; any other slot moves no table (R118, R126 to R129). -/
def Obligations.TrialsAct : Prop :=
  ∀ (s : State) (p : Port) (tag : Byte) (x : SlotIdx) (q : ProfileIdx), Quiet s →
    (let wins (u : State) : Prop := u.winner u.profiles.active = some x
     let slotted (u : State) (y : Option Trial) : State :=
       { u with profiles := { u.profiles with slots := u.profiles.slots.set x y } }
     let behind : State := if wins s then (slotted s none).retabled else slotted s none
     let opened : State := slotted behind (some { target := q, pair := behind.effectivePair q })
     let shown : State := if wins opened then opened.retabled else opened
     let done (c : Code) : Ports := s.told p tag c { verdict := .done } []
     (Passes s p .openTrial tag [byte x.val, byte q.val] → exec (.openTrial p) s = .next { shown with ports := done .openTrial })
       ∧ (Passes s p .discardTrial tag [byte x.val] → exec (.discardTrial p) s = .next { behind with ports := done .discardTrial })
       ∧ (Passes s p .commitTrial tag [byte x.val] →
        (s.slot x = none → exec (.commitTrial p) s = .next (s.answered p tag .commitTrial { verdict := .wrongState }))
        ∧ (∀ y, s.slot x = some y → StoreTakes s (.profile y.target) →
          (let kept : State := { s with profiles := { s.profiles with stored := s.profiles.stored.set y.target y.pair } }
           let left : State := if wins s then (slotted kept none).retabled else slotted kept none
           ∃ t, exec (.commitTrial p) s = .next t ∧
            (OnlySaved { left with ports := done .commitTrial } t ∧ Saving t (.profile y.target))))))

/-- STORE_SCENE: an ADJUST command, no floor command, subject to step 10 by the SCENE record; the scene takes the routed input, the active
profile, user mute, the lamp level and power ON, the record is saved, the answer is DONE, and the rest of the room, the recall in flight
included, is unchanged; a recall of a scene whose input is disabled is refused (R131). -/
def Obligations.SceneStored : Prop :=
  codeClass .storeScene = .adjust
    ∧ ∀ (s : State) (p : Port) (tag : Byte) (k : SceneIdx),
      (s.isFloor (.storeScene k) = false ∧ ∀ r, s.storeNeed r (.storeScene k) = .place (.scene k))
      ∧ (Quiet s → Passes s p .storeScene tag [byte k.val] →
        (s.store.fault = true → exec (.storeScene p) s = .next (s.answered p tag .storeScene { verdict := .storeFault }))
        ∧ (s.store.fault = false → ¬ StoreTakes s (.scene k) →
            exec (.storeScene p) s = .next (s.answered p tag .storeScene { verdict := .storeBusy }))
        ∧ (StoreTakes s (.scene k) → ∃ t, exec (.storeScene p) s = .next t ∧
          (OnlySaved { s.answered p tag .storeScene { verdict := .done } with
                       scenes := s.scenes.set k
                         { input := s.engine.routed, profile := s.profiles.active, mute := s.engine.userMute,
                           level := (match s.lamp.level with | .normal => .normal | .eco => .eco), power := .on } } t
            ∧ Saving t (.scene k))))
      ∧ (Quiet s → s.enabled s.scenes[k].input = false → Passes s p .recallScene tag [byte k.val] →
          exec (.recallScene p) s = .next (s.answered p tag .recallScene { verdict := .badValue }))

/-- SET_SOURCE_ASPECT changes the override and invalidates the quick lock, keeps the timing, saves the record, and has the geometry unit
recompute when it changes the routed input's class (R87, R88). -/
def Obligations.AspectSet : Prop :=
  ∀ (s : State) (p : Port) (tag : Byte) (n : InputIdx) (o : AspectOverride), Quiet s →
    Passes s p .setSourceAspect tag [byte (inputCode n), byte (overrideCode o)] → StoreTakes s (.source n) →
    (let c : Source := { s.source n with settings := { (s.source n).settings with aspect := o }, remembered := none }
     ∃ t, exec (.setSourceAspect p) s = .next t ∧
      (OnlySaved { s.answered p tag .setSourceAspect { verdict := .done } with
                   sources := s.sources.set n c, geo := t.geo, engine := { s.engine with linkNext := t.engine.linkNext } } t
        ∧ Saving t (.source n)
        ∧ (if s.engine.routed = n ∧ c.aspect ≠ (s.source n).aspect then
             Handed s t (bandTable (s.effectivePair s.profiles.active) c.aspect)
           else t.geo = s.geo ∧ t.engine = s.engine)))

/-- SET_INPUT_ENABLE: an ADJUST command, no floor command, subject to step 10; it changes both fields, saves the record, answers DONE and
disturbs nothing else; a disabled input is refused to a later SELECT_INPUT and leaves the SOURCE cycle (R89). -/
def Obligations.InputEnabled : Prop :=
  codeClass .setInputEnable = .adjust
    ∧ ∀ (s : State) (p : Port) (tag role : Byte) (n : InputIdx) (e : Bool), role.toNat ≤ 15 →
      (s.isFloor (.setInputEnable n e role.toNat) = false
        ∧ (∀ r, s.storeNeed r (.setInputEnable n e role.toNat) = .place (.source n)))
      ∧ (Quiet s → Passes s p .setInputEnable tag [byte (inputCode n), flagByte e, role] →
        (s.store.fault = true → exec (.setInputEnable p) s = .next (s.answered p tag .setInputEnable { verdict := .storeFault }))
        ∧ (s.store.fault = false → ¬ StoreTakes s (.source n) →
            exec (.setInputEnable p) s = .next (s.answered p tag .setInputEnable { verdict := .storeBusy }))
        ∧ (StoreTakes s (.source n) → ∃ t, exec (.setInputEnable p) s = .next t ∧
          (OnlySaved { s.answered p tag .setInputEnable { verdict := .done } with
                       sources := s.sources.set n { s.source n with
                         settings := { (s.source n).settings with enabled := e, role := role.toNat } } } t
            ∧ Saving t (.source n))))
      ∧ (Quiet s → s.enabled n = false →
        (Passes s p .selectInput tag [byte (inputCode n)] →
          exec (.selectInput p) s = .next (s.answered p tag .selectInput { verdict := .badValue }))
        ∧ s.nextSource ≠ some n)

/-! ## PLAN commands and the schedule (R139, R140, R142 to R154) -/

/-- WRITE_ENTRY takes every field sent but the protected flag and marks the entry in use, with no scene for CLOSED; ERASE_ENTRY gives it
factory fields and keeps the flag; PROTECT_ENTRY changes the flag alone. Each saves the record and evaluates the schedule: it does no more
when the effective entry is what it was, and another effective entry is remembered, its ENTRY next after the response (R142 to R146). -/
def Obligations.EntriesWritten : Prop :=
  ∀ (s : State) (p : Port) (tag : Byte) (e : EntryIdx) (kind : EntryKind) (days : BitVec 7) (start finish : Nat) (parity : Parity)
    (k : SceneIdx) (flag : Bool), Quiet s → StoreTakes s (.entry e) →
    (let old := s.schedule.entries[e]
     let changed (x : Entry) : State := { s with schedule := { s.schedule with entries := s.schedule.entries.set e x } }
     let done (c : Code) (x : Entry) : State :=
       { s.answered p tag c { verdict := .done } with schedule := { s.schedule with entries := s.schedule.entries.set e x } }
     let written : Entry :=
       { inUse := true, kind := kind, days := days, start := start, finish := finish, parity := parity,
         scene := if kind = .closed then none else some k, isProtected := old.isProtected }
     let erased : Entry :=
       { inUse := false, kind := .session, days := 0, start := 0, finish := 1, parity := .any, scene := some 0,
         isProtected := old.isProtected }
     let evaluated (c : Code) (x : Entry) (t : State) : Prop :=
       Saving t (.entry e)
         ∧ ((changed x).effective = s.schedule.remembered → OnlySaved (done c x) t)
         ∧ ((changed x).effective ≠ s.schedule.remembered →
            t.schedule.entries = s.schedule.entries.set e x ∧ t.schedule.remembered = (changed x).effective ∧ t.clock = s.clock
              ∧ ∀ q : Port, ((s.told p tag c { verdict := .done } [entryNotice (changed x).effective]).get q).outq <+: (t.port q).outq)
     (start ≤ 1439 → finish ≤ 1440 → start < finish →
        Passes s p .writeEntry tag ([byte e.val, byte (entryKindCode kind), byte days.toNat] ++ bytes16 start ++ bytes16 finish
          ++ [byte (parityCode parity), byte k.val]) →
        ∃ t, exec (.writeEntry p) s = .next t ∧ (evaluated .writeEntry written t))
       ∧ (Passes s p .eraseEntry tag [byte e.val] → ∃ t, exec (.eraseEntry p) s = .next t ∧ (evaluated .eraseEntry erased t))
       ∧ (Passes s p .protectEntry tag [byte e.val, flagByte flag] →
        ∃ t, exec (.protectEntry p) s = .next t ∧ (evaluated .protectEntry { old with isProtected := flag } t)))

/-- The effective entry is the matching entry of highest index: it is in use, the weekday is in its days, start ≤ minute < end, and its
parity matches the term week; none when the clock is unset or no entry matches (R145). -/
def Obligations.EffectiveEntry : Prop :=
  ∀ (s : State) (i : EntryIdx),
    (let m (j : EntryIdx) : Prop :=
       s.schedule.entries[j].inUse = true ∧ s.schedule.entries[j].days.getLsbD s.clock.weekday = true
         ∧ s.schedule.entries[j].start ≤ s.clock.minute ∧ s.clock.minute < s.schedule.entries[j].finish
         ∧ (s.schedule.entries[j].parity = .odd → s.clock.week % 2 = 1)
         ∧ (s.schedule.entries[j].parity = .even → s.clock.week ≠ 0 ∧ s.clock.week % 2 = 0)
     (s.effective.map Effective.index = some i ↔ s.clock.isSet = true ∧ m i ∧ ∀ j : EntryIdx, i < j → ¬ m j)
       ∧ (∀ x, s.effective = some x →
          x.kind = s.schedule.entries[x.index].kind ∧ x.scene = s.schedule.entries[x.index].scene))

/-- SET_CLOCK sets the clock and its flag, and when the effective entry is what it was nothing else happens. The clock's minute: it advances
with its carries into weekday and term week, an unset clock stands still, and a minute that SET_CLOCK ended before it was over does nothing
(log 6). The tick or the SET_CLOCK that ends an entry with none to follow raises ENTRY and removes an EXAM's PANEL_HOLD or a CLOSED's
ROOM_CLOSED; after a SESSION or EXAM the grace deferral starts, with DEFERRAL_START, and with a grace of 0 ends at once and issues
SCHEDULE's LAMP_OFF, which acts by the lamp's state or is refused under SERVICE_LOCK. That it is refused while a reset is pending is the
model's reading (log 20) (R19, R52, R55, R139, R140, R146, R147, R151, R153, R154, R157). -/
def Obligations.MinuteTicks : Prop :=
  ∀ (s : State) (p : Port) (tag : Byte) (m w k run : Nat), Quiet s →
    (let c := s.clock
     let sent : State := { s with clock := { isSet := true, minute := m, weekday := w, week := k, run := c.run + 1 } }
     let answer (l : List Notice) : Ports := s.told p tag .setClock { verdict := .done } l
     let wrap : Bool := c.minute = 1439
     let next : Clock :=
       { isSet := true, minute := if wrap then 0 else c.minute + 1,
         weekday := if wrap then (c.weekday + 1) % 7 else c.weekday,
         week := if wrap ∧ c.weekday = 6 ∧ 1 ≤ c.week ∧ c.week ≤ 59 then c.week + 1 else c.week, run := c.run + 1 }
     let after : State := { s with clock := next }
     (m ≤ 1439 → w ≤ 6 → k ≤ 60 → Passes s p .setClock tag (bytes16 m ++ [byte w, byte k]) →
        (sent.effective = s.schedule.remembered → exec (.setClock p) s = .next { sent with ports := answer [] })
        ∧ (∀ x, s.schedule.remembered = some x → sent.effective = none → ∃ t, exec (.setClock p) s = .next t ∧
          (EntryEnds sent t answer x)))
       ∧ (c.run ≠ run → exec (.clockMinuteTick run) s = .next s)
       ∧ (c.run = run → s.clock.minute ≤ 1439 → s.clock.weekday ≤ 6 →
        (c.isSet = false → exec (.clockMinuteTick run) s = .next s)
        ∧ (c.isSet = true → after.effective = s.schedule.remembered → exec (.clockMinuteTick run) s = .next after)
        ∧ (∀ x, s.schedule.remembered = some x → c.isSet = true → after.effective = none →
          ∃ t, exec (.clockMinuteTick run) s = .next t ∧ (EntryEnds after t s.ports.offerAll x))))

/-- A booking x begins at a minute tick or a SET_CLOCK, after none or another. What x's predecessor leaves: the schedule's record of an EXAM
or CLOSED is removed, or carried over and renamed when x has the same kind. A deferral ends with result 2. CLOSED: when ROOM_CLOSED comes
into force the lamp is darkened at once. SESSION and EXAM: an EXAM's PANEL_HOLD is added with its effects on the floor; SCHEDULE's LAMP_ON
acts by the lamp's state; then SCHEDULE's recall of the entry's scene, but not when a SESSION or EXAM with the same scene came before: it
takes the floor and acts, or waits as elect, or is refused without effect. These are the model's choices: SCHEDULE's commands are refused
while a reset is pending (log 20), a recall that joins a switch becomes its requester (log 38) and its mute acts within its step (log 15),
ending a switch in UNMUTING after its own effects (log 14), and a tick advances the clock by the model's own count of minutes (log 6)
(R19, R40, R54, R55, R61, R99, R132 to R136, R139, R140, R146 to R151, R155, R160, R161). -/
def Obligations.BookingBegins : Prop :=
  ∀ (s : State) (x : Effective) (p : Port) (tag : Byte) (m w k : Nat), Quiet s → s.schedule.remembered ≠ some x →
    (let after : State := { s with clock := s.clock.tick }
     let sent : State := { s with clock := { isSet := true, minute := m, weekday := w, week := k, run := s.clock.run + 1 } }
     (s.clock.isSet = true → after.effective = some x → ∃ t, exec (.clockMinuteTick s.clock.run) s = .next t ∧
        (EntryBegins after t s.ports.offerAll x))
       ∧ (m ≤ 1439 → w ≤ 6 → k ≤ 60 → Passes s p .setClock tag (bytes16 m ++ [byte w, byte k]) → sent.effective = some x →
        ∃ t, exec (.setClock p) s = .next t ∧ (EntryBegins sent t (s.told p tag .setClock { verdict := .done }) x)))

/-- The uptime count advances, saturating, and marks a deferral due when quiet minutes reach the grace setting or age 45; a due deferral ends
with result 0 and issues SCHEDULE's LAMP_OFF, which acts by the lamp's state, or is refused under SERVICE_LOCK. That the tick and the expiry
are two rows is the model's reading (log 9), and that the LAMP_OFF is refused while a reset is pending (log 20) (R19, R141, R151, R154). -/
def Obligations.UptimeAndDeferral : Prop :=
  ∀ s : State, Quiet s →
    (let count : Nat := min 4294967295 (s.uptime + 1)
     (s.schedule.deferral = none → exec .uptimeTick s = .next { s with uptime := count })
       ∧ (∀ d, s.schedule.deferral = some d → exec .uptimeTick s = .next
        { s with
          uptime := count,
          schedule := { s.schedule with deferral := some { d with
            due := decide (d.quietFrom + 1 + s.schedule.grace ≤ count ∨ d.start + 1 + 45 ≤ count) } } })
       ∧ (∀ d, s.schedule.deferral = some d → d.due = false → exec .deferralExpiry s = .next s)
       ∧ (∀ d, s.schedule.deferral = some d → d.due = true →
        (d.quietFrom + 1 + s.schedule.grace ≤ s.uptime ∨ d.start + 1 + 45 ≤ s.uptime) →
        (let fired : State := { s with schedule := { s.schedule with deferral := none } }
         let told (l : List Notice) : Ports :=
           s.ports.offerAll ({ cls := .schedule, kind := 3, subject := 0, result := 0, extra := 0 } :: l)
         (s.resetWait ≠ none ∨ s.inForce .serviceLock = true → exec .deferralExpiry s = .next { fired with ports := told [] })
           ∧ (s.resetWait = none → s.inForce .serviceLock = false → ∃ t, exec .deferralExpiry s = .next t ∧
            (Darkens fired t (fun _ l => told l))))))

/-! ## GUARD commands and lockouts (R36, R37, R158 to R167) -/

/-- SET_LOCKOUT of a kind already in force adds the requester's record with no notice or effect, or renews the expiry of the one it has; the
expiry is clamped to 1440 and 0 is none; a sixth MANUAL record is refused SET_FULL; a SERVICE_LOCK is saved (R16, R163, R168). -/
def Obligations.LockoutSet : Prop :=
  ∀ (s : State) (p : Port) (tag : Byte) (k : LockKind) (n : Nat), Quiet s → lockKindCode k ≤ 2 → n < 65536 →
    Passes s p .setLockout tag (byte (lockKindCode k) :: bytes16 n) → s.inForce k = true →
    (let r := portRequester p
     let expiry : Option Nat := if n = 0 then none else some (min 1440 n)
     let own (l : Lockout) : Bool := decide (l.kind = k ∧ l.origin = .manual r)
     let u (ls : List Lockout) : State :=
       { s.answered p tag .setLockout { verdict := .done, clamped := decide (1440 < n) } with lockouts := ls }
     let renewed := s.lockouts.map fun l => if own l then { l with expiry := expiry, setAt := s.uptime } else l
     (k ≠ .serviceLock →
        (s.lockouts.any own = true → exec (.setLockout p) s = .next (u renewed))
        ∧ (s.lockouts.any own = false → (s.lockouts.filter Lockout.byHand).length < 5 → exec (.setLockout p) s =
            .next (u (insertLockout { kind := k, origin := .manual r, reason := none, setAt := s.uptime, expiry := expiry } s.lockouts)))
        ∧ (s.lockouts.any own = false → 5 ≤ (s.lockouts.filter Lockout.byHand).length →
            exec (.setLockout p) s = .next (s.answered p tag .setLockout { verdict := .setFull })))
       ∧ (k = .serviceLock → s.lockouts.any own = true → StoreTakes s .lockout → ∃ t, exec (.setLockout p) s = .next t ∧
          (OnlySaved (u renewed) t ∧ Saving t .lockout)))

/-- SET_LOCKOUT that brings a kind into force adds its record, its expiry clamped to 1440 and 0 for none, with IN_FORCE and then its effects.
PANEL_HOLD drops a PANEL or LOCAL elect with LOCKED_OUT and frees a PANEL or LOCAL holder at once with no unit in flight; SERVICE_LOCK does
the same to all but SERVICE, drops a pending-on that is not SERVICE's with PENDING_DROPPED, and is saved; ROOM_CLOSED ends a grace deferral
and darkens the lamp by its state. That DEFERRAL_END comes before the LAMP STATE notice is the model's choice (log 13) (R36, R37, R57, R61,
R155, R160, R161, R163, R168). -/
def Obligations.LockoutComes : Prop :=
  ∀ (s : State) (p : Port) (tag : Byte) (k : LockKind) (n : Nat), Quiet s → n < 65536 →
    Passes s p .setLockout tag (byte (lockKindCode k) :: bytes16 n) →
    s.inForce k = false → (s.lockouts.filter Lockout.byHand).length < 5 →
    (let r := portRequester p
     let expiry : Option Nat := if n = 0 then none else some (min 1440 n)
     let told (l : List Notice) : Ports :=
       s.told p tag .setLockout { verdict := .done, clamped := decide (1440 < n) }
         ({ cls := .lockout, kind := 1, subject := lockKindCode k, result := 0, extra := requesterCode r } :: l)
     let set : State :=
       { s with lockouts := insertLockout { kind := k, origin := .manual r, reason := none, setAt := s.uptime, expiry := expiry } s.lockouts }
     let dropped : Option LampAsker := s.lamp.pendingOn.filter fun a => decide (a ≠ .requester .service)
     let ended : List Notice :=
       if s.schedule.deferral = none then [] else [{ cls := .schedule, kind := 3, subject := 0, result := 1, extra := 0 }]
     (k = .panelHold →
        exec (.setLockout p) s = .next { set with ports := told (s.floor.underNotices k), floor := s.floor.under k })
       ∧ (k = .serviceLock → StoreTakes s .lockout → ∃ t, exec (.setLockout p) s = .next t ∧
        (OnlySaved
          { set with
            ports := told (s.floor.underNotices k ++ dropped.toList.map fun a =>
              { cls := .lamp, kind := 2, subject := askerCode a, result := 0x94, extra := 0 }),
            floor := s.floor.under k,
            lamp := { s.lamp with pendingOn := if dropped = none then s.lamp.pendingOn else none } } t
          ∧ Saving t .lockout))
       ∧ (k = .roomClosed → ∃ t, exec (.setLockout p) s = .next t ∧
        (Darkens { set with schedule := { s.schedule with deferral := none } } t (fun _ l => told (ended ++ l)))))

/-- CLEAR_LOCKOUT removes the MANUAL records of the kind set by the clearer's rank or weaker, answers NO_AUTHORITY when any of the kind is
left and DONE otherwise, and OUT_OF_FORCE follows when the last has gone. Expiry removes the MANUAL records whose set-at plus expiry the
uptime count has reached, and no other, with OUT_OF_FORCE for each kind that loses its last, in one action (log 28), and the removal of a
SERVICE_LOCK is saved; with none due it does nothing. A record set with expiry 1 just before a tick is due at that tick by R165, where R170
would have the tick find nothing due: the model's choice (log 39) (R160, R164, R165, R168). -/
def Obligations.LockoutsEnd : Prop :=
  ∀ (s : State) (p : Port) (tag : Byte) (k : LockKind), Quiet s →
    (let r := portRequester p
     let gone (l : Lockout) : Bool :=
       l.kind == k && (match l.origin with | .manual q => decide (rank r ≤ rank q) | _ => false)
     let left := s.lockouts.filter fun l => !gone l
     let stays : Bool := left.any fun l => l.kind == k
     let due (l : Lockout) : Bool :=
       match l.origin, l.expiry with
       | .manual _, some x => decide (l.setAt + x ≤ s.uptime)
       | _, _ => false
     let kept := s.lockouts.filter fun l => !due l
     (Passes s p .clearLockout tag [byte (lockKindCode k)] → k ≠ .serviceLock ∨ StoreTakes s .lockout →
        ∃ t, exec (.clearLockout p) s = .next t ∧
          (OnlySaved { s with
              ports := s.told p tag .clearLockout { verdict := if stays then .noAuthority else .done }
                (if s.inForce k ∧ stays = false then
                  [{ cls := .lockout, kind := 2, subject := lockKindCode k, result := 0, extra := 0 }] else []),
              lockouts := left } t
            ∧ (if k = .serviceLock ∧ s.lockouts.any gone = true then Saving t .lockout
               else t.store = s.store ∧ t.saveOwed = s.saveOwed)))
       ∧ ∃ t, exec .lockoutExpiry s = .next t ∧
        (OnlySaved { s with ports := s.ports.offerAll (lostNotices s.lockouts kept), lockouts := kept } t
          ∧ (if s.lockouts.any fun l => due l && l.kind == .serviceLock then LockoutsSaving t
             else t.store = s.store ∧ t.saveOwed = s.saveOwed)
          ∧ (s.lockouts.any due = false → t = s)))

/-! ## SERVICE commands (R9, R19, R70, R78, R79, R175, R187) -/

/-- SET_GRACE, SET_IR_ROOM, SET_RATED_LIFE and WRITE_AUTHORITY change their working value at once and save the record: grace clamped to 30,
rated life to 500..20000 in steps of 100, SERVICE's set kept with VIEW and SERVICE, each with CLAMPED when changed; a rated life that
moves the wear state has that change's effects (R9, R70 to R74, R152, R175). -/
def Obligations.SettingsWritten : Prop :=
  ∀ (s : State) (p : Port) (tag x : Byte) (n : Nat) (a : AuthorityRow) (cs : ClassSet), Quiet s →
    (let saved (c : Code) (rec : RecordId) (u : State) : Prop :=
       ∃ t, exec (rowOf c p) s = .next t ∧ (OnlySaved u t ∧ Saving t rec)
     let u (c : Code) (b : Bool) : State := s.answered p tag c { verdict := .done, clamped := b }
     let life : Nat := max 500 (min 20000 n) / 100 * 100
     let rated : State := { s with wear := { s.wear with ratedLife := life } }
     let row : Byte := match a with | .service => 0 | .campus => 1 | .panel => 3 | .console => 4
     let kept : ClassSet := if a = .service then cs ||| 0b1000001#7 else cs
     let table : AuthTable := match a with
       | .service => { s.authority with service := kept }
       | .campus => { s.authority with campus := kept }
       | .panel => { s.authority with panel := kept }
       | .console => { s.authority with console := kept }
     (StoreTakes s .config →
        (Passes s p .setGrace tag [x] → saved .setGrace .config
          { u .setGrace (decide (30 < x.toNat)) with schedule := { s.schedule with grace := min 30 x.toNat } })
        ∧ (Passes s p .setIrRoom tag [x] → x.toNat ≤ 15 ∨ x = 0xFF → saved .setIrRoom .config
          { u .setIrRoom false with
            console := { s.console with room := if x = 0xFF then none else some x.toNat } })
        ∧ (n < 65536 → Passes s p .setRatedLife tag (bytes16 n) → ∃ t, exec (.setRatedLife p) s = .next t ∧
          (Rebanded { rated with
                      ports := s.told p tag .setRatedLife { verdict := .done, clamped := decide (life ≠ n) } rated.bandNotices } t
            ∧ Saving t .config)))
       ∧ (StoreTakes s .authority → Passes s p .writeAuthority tag [row, byte cs.toNat] → saved .writeAuthority .authority
          { u .writeAuthority (decide (kept ≠ cs)) with authority := table }))

/-- REPLACE_LAMP in OFF or FAULT: NEW zeroes the wear record, counts the replacement, takes the identity and ends the LAMP records and the
wear state GOOD; REINSTATE counts the reinstatement and ends an IGNITION record; the lamp leaves FAULT for OFF, a changed lockout table
is saved, and the record goes to the wear slot. STARTED is followed by LAMP STATE, OUT_OF_FORCE, WEAR_STATE and REPLACED, each where it
applies (R63, R78, R79, R80, R166, R168). -/
def Obligations.LampReplaced : Prop :=
  ∀ (s : State) (p : Port) (tag : Byte) (i : Vector Byte 8), Quiet s → LockoutsSound s → s.lamp.state = .off ∨ s.lamp.state = .fault →
    s.replacing = false → s.store.fault = false →
    (let r := s.wear.record
     let told (mode : Nat) (wear : List Notice) : Ports :=
       s.told p tag .replaceLamp { verdict := .started }
         ((if s.lamp.state = .fault then [lampNotice 0 s.lamp.attempts] else [])
           ++ (if s.inForce .lampLock then [{ cls := .lockout, kind := 2, subject := 3, result := 0, extra := 0 }] else [])
           ++ wear ++ [{ cls := .wear, kind := 3, subject := mode, result := 0, extra := 0 }])
     let lamp : Lamp := if s.lamp.state = .fault then { s.lamp with state := .off, timer := none } else s.lamp
     let ignition (l : Lockout) : Bool := l.origin == .lamp && l.reason == some .ignition
     let renewed : WearRecord :=
       { wu := 0, lit := 0, realMinutes := 0, strikes := 0, dropOuts := 0, uncleanOffs := 0,
         replacements := min 255 (r.replacements + 1), reinstatements := r.reinstatements, identity := some i, litMarker := false,
         defaulted := false }
     let back : WearRecord := { r with reinstatements := min 255 (r.reinstatements + 1), litMarker := false }
     (Passes s p .replaceLamp tag (0 :: i.toList) → ∃ t, exec (.replaceLamp p) s = .next t ∧
        (t = { s with
               ports := told 0 (if s.wear.band = .good then [] else [{ cls := .wear, kind := 1, subject := 0, result := 0, extra := 0 }]),
               lamp := lamp, lockouts := s.lockouts.filter fun l => l.origin != .lamp, store := t.store, saveOwed := t.saveOwed,
               wear := { s.wear with record := renewed, sinceCheckpoint := 0, band := .good, warnReported := false,
                                     replacement := t.wear.replacement } }
          ∧ t.replacing = true ∧ Imaged t renewed
          ∧ (s.lampRecord ≠ none → LockoutsSaving t)))
       ∧ (Passes s p .replaceLamp tag (1 :: i.toList) →
        (s.expiredLocked = true → exec (.replaceLamp p) s = .next (s.answered p tag .replaceLamp { verdict := .wrongState }))
        ∧ (s.expiredLocked = false → ∃ t, exec (.replaceLamp p) s = .next t ∧
          (t = { s with
                 ports := told 1 [], lamp := lamp, store := t.store, saveOwed := t.saveOwed,
                 lockouts := s.lockouts.filter fun l => !ignition l,
                 wear := { s.wear with record := back, sinceCheckpoint := 0, replacement := t.wear.replacement } }
            ∧ t.replacing = true ∧ Imaged t back
            ∧ (s.lockouts.any ignition = true → LockoutsSaving t)))))

/-- CLEAR_STORE_FAULT, a SERVICE command, is answered DONE: a standing fault clears, with FAULT_CLEARED after the response, and writes
resume with the wear slot, then the retry place, the queue, then the repair set, the others waiting; a write taken from the queue lets an
owed LOCKOUT save be queued, and the beginning of a WEAR write is seen by what waits for it. That a retry that frees a place in the queue
leaves the owed save waiting is the model's choice (log 35). With no fault it changes nothing; a later write that fails sets the fault again
(R19, R80, R168, R185 to R187). -/
def Obligations.StoreFaultCleared : Prop :=
  codeClass .clearStoreFault = .service
    ∧ ∀ (s : State) (p : Port) (tag : Byte), Quiet s →
      (Passes s p .clearStoreFault tag [] →
        (s.store.fault = false → exec (.clearStoreFault p) s = .next (s.answered p tag .clearStoreFault { verdict := .done }))
        ∧ (s.store.fault = true → s.store.inFlight = none →
          (let u : State := { s with
             ports := s.told p tag .clearStoreFault { verdict := .done }
               [{ cls := .store, kind := 3, subject := 0, result := 0, extra := 0 }],
             store := { s.store with fault := false } }
           exec (.clearStoreFault p) s = .next
            { u with store := u.resumed, saveOwed := u.owedOn, wear := { s.wear with replacement := u.waitOn s.wear.replacement } })))
      ∧ (s.store.inFlight ≠ none → ∃ t, exec (.storeWriteTimeout s.store.writes) s = .next t ∧
          (t.store.fault = true ∧ t.store.inFlight = none))

/-- CONTROLLER_RESET answers DONE and sets reset pending, with a checkpoint unless the store fault stands (R19, log 27). -/
def Obligations.ResetAsked : Prop :=
  ∀ (s : State) (p : Port) (tag : Byte), Quiet s → Passes s p .controllerReset tag [] →
    (let u : State := s.answered p tag .controllerReset { verdict := .done }
     (s.store.fault = true → exec (.controllerReset p) s = .next { u with resetWait := some .settled })
       ∧ (s.store.fault = false →
        (s.store.inFlight ≠ none → exec (.controllerReset p) s = .next
          { u with resetWait := some .toBegin, store := { s.store with slot := some s.wear.record },
                   wear := { s.wear with sinceCheckpoint := 0 } })
        ∧ (s.store.inFlight = none → exec (.controllerReset p) s = .next
          { u with resetWait := some .toEnd,
                   store := { s.store with slot := none, inFlight := some (.wear s.wear.record), writes := s.store.writes + 1 },
                   wear := { s.wear with
                     sinceCheckpoint := 0, replacement := if s.wear.replacement = .toBegin then .toEnd else s.wear.replacement } })))

/-! ## The lamp's lines and timers (R47 to R53, R58 to R60, R68, R69) -/

/-- The ignition's events: a rise of LAMP_SENSE in STRIKING gives WARMUP; the strike window's end gives RETRY_PAUSE at attempts 1 and 2 and
COOLDOWN with fault pending at 3; the retry pause's end strikes again, with a new wear state's effects, or cools under LAMP_LOCK; the
warm-up's end gives LIT at the held level, and COOLDOWN at once with held-off; the end of a timer's earlier run does nothing (log 6)
(R47 to R52, R69, R71 to R74). -/
def Obligations.IgnitionEvents : Prop :=
  ∀ (s : State) (run : Nat), Quiet s →
    (let l := s.lamp
     let cooling (c : Instr) (ns : List Notice) (x : Lamp) : Prop :=
       ∃ t, exec c s = .next t ∧
         (OnlySaved { s with ports := s.ports.offerAll ns, lamp := x, wear := s.wear.cooled } t ∧ Imaged t s.wear.cooled.record)
     let level : Level := if s.wear.band = .endOfLife ∨ s.wear.band = .expired then .eco else l.heldLevel.getD l.level
     let high : Lines := { s.lines with lampSense := true }
     (s.lines.lampSense = false →
        (l.state = .striking → exec .lampSenseRise s = .next
          { s with ports := s.ports.offerAll [lampNotice 3 l.attempts], lines := high,
                   lamp := { l with state := .warmup, timer := some 40, run := l.run + 1 }, wear := { s.wear with running := true } })
        ∧ (l.state ≠ .striking → exec .lampSenseRise s = .next { s with lines := high }))
       ∧ (l.run ≠ run → exec (.strikeWindowExpiry run) s = .next s ∧ exec (.retryPauseEnd run) s = .next s
          ∧ exec (.warmupEnd run) s = .next s)
       ∧ (l.run = run → l.state = .striking →
        (l.attempts < 3 → exec (.strikeWindowExpiry run) s = .next
          { s with ports := s.ports.offerAll [lampNotice 2 l.attempts],
                   lamp := { l with state := .retryPause, timer := some 20, run := l.run + 1 } })
        ∧ (l.attempts = 3 → cooling (.strikeWindowExpiry run) [lampNotice 5 3] (l.cooled 90 true)))
       ∧ (l.run = run → l.state = .retryPause →
        (s.inForce .lampLock = true → cooling (.retryPauseEnd run) [lampNotice 5 l.attempts] (l.cooled 90 false))
        ∧ (s.inForce .lampLock = false → ∃ t, exec (.retryPauseEnd run) s = .next t ∧
          (Rebanded
            { s.struck (l.attempts + 1) with
              ports := s.ports.offerAll (lampNotice 1 (l.attempts + 1) :: (s.struck (l.attempts + 1)).bandNotices) } t
            ∧ Imaged t s.wear.record.struck)))
       ∧ (l.run = run → l.state = .warmup →
        (l.heldOff = false → exec (.warmupEnd run) s = .next
          { s with ports := s.ports.offerAll [lampNotice 4 l.attempts],
                   lamp := { l with state := .lit, timer := none, level := level, heldLevel := none } })
        ∧ (l.heldOff = true → cooling (.warmupEnd run) [lampNotice 4 l.attempts, lampNotice 5 l.attempts]
            (Lamp.cooled { l with level := level } 90 false))))

/-- The cooldown's end. OFF, or with fault pending FAULT with LAMP_LOCK IGNITION and a checkpoint: the scaler is unpowered, its requests and
tables dropped, a switch in flight and its pending target end ABORTED and the unit with them; a THERMAL record goes with the line
deasserted; a pending-on is dropped. A pending-on that passes strikes instead, with the scaler kept powered. A start-up cooldown, which
had no scaler power, aborts nothing, and its strike powers the scaler. An earlier run's end does nothing (log 6). The order STATE,
SWITCH_END, the lockout notices, PENDING_DROPPED is the model's choice (log 26) (R45, R53, R60, R103, R121, R136, R166). -/
def Obligations.CooldownEnds : Prop :=
  ∀ (s : State) (run : Nat), Quiet s → s.lamp.state = .cooldown →
    (let l := s.lamp
     let w := s.engine.inFlight
     let q := s.engine.pendingTarget
     let lost : Bool := !l.startUp && w.isSome
     let ended (n : InputIdx) (r : Option Requester) : Notice :=
       { cls := .source, kind := 1, subject := inputCode n, result := 0xA3, extra := requesterOrNone r }
     let aborted : List Notice :=
       if lost then (w.toList.map fun x => ended x.target x.requester) ++ (q.toList.map fun x => ended x.input (some x.requester)) else []
     let rest (x : LampState) : Lamp :=
       { l with state := x, timer := none, restrikeUsed := false, faultPending := false, pendingOn := none, startUp := false }
     let last : Prop := lost = true → s.floor.marker = true → s.floor.elect = none ∧ s.holderBarred = false
     let dark (t : State) : Prop :=
       if l.startUp then t.engine = s.engine ∧ t.geo = s.geo ∧ t.sources = s.sources
       else
         t.engine = { s.engine with
             powered := false, blank := .blanked, blankReq := none, lockReq := none, compHeld := t.composition,
             inFlight := none, state := if lost then .idle else s.engine.state, owedRelock := s.engine.owedRelock && !lost,
             switchCond := s.engine.switchCond && !lost, pendingTarget := if lost then none else q,
             selected := if lost then (q.map PendingTarget.input).getD ((w.map Switch.target).getD s.engine.selected) else s.engine.selected }
           ∧ t.geo = { s.geo with last := t.geo.last, inTransfer := none, pendingTable := none, scalerTable := none }
           ∧ t.sources = s.sources.set s.engine.routed { s.routedSource with timing := none }
     let ending (t : State) : State :=
       { s with engine := t.engine, geo := t.geo, sources := t.sources, recallNow := if lost then none else s.recallNow,
                floor := { s.floor with marker := s.floor.marker && !lost } }
     let hot : Bool := s.lines.thermHot || !s.thermalPresent
     let cleared (x : List Lockout) : List Lockout := if hot then x else x.filter fun x => x.origin != .thermal
     let tail : List Notice :=
       (if hot then [] else [{ cls := .lockout, kind := 2, subject := 4, result := 0, extra := 0 }])
         ++ l.pendingOn.toList.map fun a => { cls := .lamp, kind := 2, subject := askerCode a, result := 0x94, extra := 0 }
     let thermal : Prop := ∀ x ∈ s.lockouts, x.origin = .thermal ↔ x.kind = .thermalLock
     (l.run ≠ run → exec (.cooldownEnd run) s = .next s)
       ∧ (l.run = run → last → thermal →
        (l.faultPending = false → (∀ a ∈ l.pendingOn, s.askerPasses a = false) → ∃ t, exec (.cooldownEnd run) s = .next t ∧
          (t = { ending t with ports := s.ports.offerAll (lampNotice 0 l.attempts :: aborted ++ tail), lamp := rest .off,
                               lockouts := cleared s.lockouts }
            ∧ dark t))
        ∧ (l.faultPending = true → ∃ t, exec (.cooldownEnd run) s = .next t ∧
          (OnlySaved
            { ending t with
              ports := s.ports.offerAll
                (lampNotice 6 l.attempts :: aborted
                  ++ (if s.lampRecord = none ∧ s.inForce .lampLock = false then
                        [{ cls := .lockout, kind := 1, subject := 3, result := 0, extra := 0x40 }] else [])
                  ++ tail),
              lamp := rest .fault, wear := { s.wear with sinceCheckpoint := 0 },
              lockouts := cleared (if s.lampRecord = none then
                insertLockout { kind := .lampLock, origin := .lamp, reason := some .ignition, setAt := s.uptime, expiry := none } s.lockouts
                else s.lockouts) } t
            ∧ dark t ∧ Imaged t s.wear.record ∧ (s.lampRecord = none → LockoutsSaving t))))
       ∧ (l.run = run → l.faultPending = false → ∀ a, l.pendingOn = some a → s.askerPasses a = true →
        (let u : State := { s.struck 1 with lamp := { (s.struck 1).lamp with pendingOn := none } }
         let ports : Ports := s.ports.offerAll (lampNotice 1 1 :: (s.struck 1).bandNotices)
         (l.startUp = false → ∃ t, exec (.cooldownEnd run) s = .next t ∧
            (Rebanded { u with ports := ports } t ∧ Imaged t s.wear.record.struck))
          ∧ (l.startUp = true → EngineSound s → s.engine.powered = false → s.engine.blankReq = none →
            ∃ t, exec (.cooldownEnd run) s = .next t ∧
              (Rebanded { u with ports := ports, engine := t.engine, geo := t.geo, sources := t.sources } t
                ∧ Imaged t s.wear.record.struck ∧ PoweredUp s t s.engine.selected)))))

/-- A drop-out is counted and cools the lamp for 90 s: with held-off no restrike, with restrike used DROP_OUT_FINAL, under SERVICE_LOCK
PENDING_DROPPED for the lamp, otherwise the lamp's own pending-on; a fall in any other state is not acted on. That held-off goes before
restrike used, with no DROP_OUT_FINAL where both are set, is the model's choice (log 40) (R48, R52, R58, R69). -/
def Obligations.DropOutActs : Prop :=
  ∀ s : State, Quiet s → s.lines.lampSense = true →
    (let l := s.lamp
     let low : Lines := { s.lines with lampSense := false }
     let used := { l.cooled 90 false with restrikeUsed := true }
     let record : WearRecord := { s.wear.record with dropOuts := min 65535 (s.wear.record.dropOuts + 1), litMarker := false }
     let out (ns : List Notice) (x : Lamp) : Prop :=
       ∃ t, exec .dropOut s = .next t ∧
         (OnlySaved
           { s with ports := s.ports.offerAll ({ cls := .lamp, kind := 1, subject := 5, result := 0, extra := l.attempts } :: ns),
                    lines := low, lamp := x, wear := { s.wear.cooled with record := record } } t
           ∧ Imaged t record)
     (l.state ≠ .warmup → l.state ≠ .lit → exec .dropOut s = .next { s with lines := low })
       ∧ (l.state = .warmup ∨ l.state = .lit →
        (l.heldOff = true → out [] (l.cooled 90 false))
        ∧ (l.heldOff = false → l.restrikeUsed = true →
            out [{ cls := .lamp, kind := 3, subject := 0, result := 0, extra := 0 }] (l.cooled 90 false))
        ∧ (l.heldOff = false → l.restrikeUsed = false → s.inForce .serviceLock = true →
            out [{ cls := .lamp, kind := 2, subject := 0xFE, result := 0x94, extra := 0 }] used)
        ∧ (l.heldOff = false → l.restrikeUsed = false → s.inForce .serviceLock = false →
            out [] { used with pendingOn := some .lamp })))

/-- An overheat adds THERMAL_LOCK, cools a striking or burning lamp for 180 s, and in COOLDOWN restarts 180 s and clears the pending-on; with
the THERMAL record still standing it does the same with no second record and no IN_FORCE. The line's deassertion removes the record outside
COOLDOWN, with OUT_OF_FORCE, and leaves it in COOLDOWN (R59, R60, R160, R167). -/
def Obligations.HeatActs : Prop :=
  ∀ s : State, Quiet s →
    (let l := s.lamp
     let hot (b : Bool) : Lines := { s.lines with thermHot := b }
     let inForce : List Notice :=
       if s.thermalPresent then [] else [{ cls := .lockout, kind := 1, subject := 4, result := 0, extra := 0x41 }]
     let locked : List Lockout :=
       if s.thermalPresent then s.lockouts
       else insertLockout { kind := .thermalLock, origin := .thermal, reason := none, setAt := s.uptime, expiry := none } s.lockouts
     (s.lines.thermHot = false → s.thermalPresent = s.inForce .thermalLock →
        (l.state = .off ∨ l.state = .fault → exec .overheat s = .next
          { s with ports := s.ports.offerAll inForce, lines := hot true, lockouts := locked })
        ∧ (l.state = .cooldown → exec .overheat s = .next
          { s with ports := s.ports.offerAll inForce, lines := hot true, lockouts := locked,
                   lamp := { l with timer := some 180, run := l.run + 1, pendingOn := none } })
        ∧ (l.state = .striking ∨ l.state = .retryPause ∨ l.state = .warmup ∨ l.state = .lit → ∃ t, exec .overheat s = .next t ∧
          (OnlySaved
            { s with ports := s.ports.offerAll (lampNotice 5 l.attempts :: inForce),
                     lines := hot true, lockouts := locked, lamp := l.cooled 180 false, wear := s.wear.cooled } t
            ∧ Imaged t s.wear.cooled.record)))
       ∧ (s.lines.thermHot = true →
        (l.state = .cooldown → exec .thermHotDeassert s = .next { s with lines := hot false })
        ∧ (l.state ≠ .cooldown → (∀ x ∈ s.lockouts, x.origin = .thermal ↔ x.kind = .thermalLock) → exec .thermHotDeassert s = .next
          { s with ports := s.ports.offerAll
                     (if s.inForce .thermalLock then [{ cls := .lockout, kind := 2, subject := 4, result := 0, extra := 0 }] else []),
                   lines := hot false, lockouts := s.lockouts.filter fun x => x.origin != .thermal })))

/-- A lit second adds to the remainder; the sixtieth books 16 WU at NORMAL or 10 at ECO and a real minute, and the fifteenth such minute takes
a checkpoint. A charge that moves the wear state raises WEAR_STATE and has its effects: WARN_REACHED once for a lamp, ECO with
LEVEL_FORCED for a lamp LIT at NORMAL that reaches END_OF_LIFE, and at EXPIRED a LAMP_LOCK with that reason, saved (R68, R71 to R74, R76,
R166, R168). -/
def Obligations.LitSecondCounts : Prop :=
  ∀ s : State, Quiet s →
    (let w := s.wear
     let charge : Nat := match s.lamp.level with | .normal => 16 | .eco => 10
     let r : WearRecord :=
       { w.record with lit := 0, wu := min 4294967295 (w.record.wu + charge), realMinutes := min 4294967295 (w.record.realMinutes + 1) }
     let booked : State :=
       { s with wear := { w with record := r, sinceCheckpoint := if w.sinceCheckpoint = 14 then 0 else w.sinceCheckpoint + 1 } }
     let u : State := { booked with ports := s.ports.offerAll booked.bandNotices }
     (w.running = false → exec .litSecond s = .next s)
       ∧ (w.running = true →
        (w.record.lit + 1 < 60 → exec .litSecond s = .next
          { s with wear := { w with record := { w.record with lit := w.record.lit + 1 } } })
        ∧ (w.record.lit = 59 →
          (w.sinceCheckpoint ≠ 14 → booked.newlyExpired = false → exec .litSecond s = .next u.rebanded)
          ∧ ∃ t, exec .litSecond s = .next t ∧ (Rebanded u t ∧ (w.sinceCheckpoint = 14 → Imaged t r)))))

/-! ## The sources and the scaler (R84 to R87, R91, R92, R95 to R102, R118 to R121) -/

/-- A SIG change of an input that is not routed, or with the scaler unpowered, moves its presence alone, with PRESENCE, and on a fall its quick
lock. On the routed input of a powered scaler a rise wants a relock; a fall clears timing and quick lock, with a new class's table and the
blank control acting, and wants none; TIMING_CHANGED does the same as a fall to both and wants a relock. A wanted relock starts in IDLE, is
dropped in MUTING, restarts the attempt full in LOCKING, and is owed in APPLYING; in UNMUTING the switch ends SWITCHED, and the owed relock or
the pending target's switch starts, or a barred holder is freed. These are the model's choices: a TABLE takes its link number before a BLANK
(log 37), in UNMUTING SWITCH_END follows the event's own effects (log 14), and TIMING_CHANGED does nothing with the scaler unpowered
(log 19) (R33, R84 to R87, R92, R94, R97, R99 to R101, R118, R136). -/
def Obligations.SignalActs : Prop :=
  ∀ (s : State) (n : InputIdx), Quiet s → s.engine.compHeld = s.composition →
    (let presence (b : Nat) : Notice := { cls := .source, kind := 3, subject := inputCode n, result := b, extra := 0 }
     let risen : State := { s with ports := s.ports.offerAll [presence 1], sources := s.sources.set n { s.source n with present := true } }
     let fallen : State :=
       { s with ports := s.ports.offerAll [presence 0],
                sources := s.sources.set n { s.source n with present := false, timing := none, remembered := none } }
     let forgotten (u : State) : State :=
       { u with sources := u.sources.set u.engine.routed { u.routedSource with timing := none, remembered := none } }
     let report : Instr := .timingChanged (linkBytes 0xC1 0 [])
     let handed (u : State) : State := if u.routedAspect = s.routedAspect then u else u.retabled
     let owing (u : State) : State := { u with engine := { u.engine with owedRelock := true } }
     let kept (u t : State) : Prop := t = { u with engine := t.engine, geo := t.geo }
     (n ≠ s.engine.routed ∨ (s.engine.powered = false ∧ (s.source n).timing = none) →
        ((s.source n).present = false → exec (.sigRise n) s = .next risen)
        ∧ ((s.source n).present = true → exec (.sigFall n) s = .next fallen))
       ∧ (s.engine.powered = false → exec report s = .next s)
       ∧ (n = s.engine.routed → s.engine.powered = true →
        ((s.source n).present = false → (s.source n).timing = none →
          (s.engine.state = .idle → s.engine.inFlight = none → ∃ t, exec (.sigRise n) s = .next t ∧ (kept risen t ∧ Relocking s t))
          ∧ (s.engine.state = .muting → exec (.sigRise n) s = .next risen)
          ∧ (∀ w, s.engine.inFlight = some w → s.engine.state = .locking →
              exec (.sigRise n) s = .next ((forgotten risen).reattempted w))
          ∧ (s.engine.state = .applying → exec (.sigRise n) s = .next (owing risen)))
        ∧ ((s.source n).present = true →
          (s.engine.state ≠ .unmuting → ∃ t, exec (.sigFall n) s = .next t ∧ (Watched (handed fallen) t))
          ∧ (∀ w, s.engine.inFlight = some w → s.engine.state = .unmuting → ∃ t, exec (.sigFall n) s = .next t ∧
              (Completes (handed fallen).watched t (fun l => s.ports.offerAll (presence 0 :: w.ended 0xA0 :: l)) w)))
        ∧ ((s.engine.state = .idle → s.engine.inFlight = none → ∃ t, exec report s = .next t ∧ (kept (forgotten s) t ∧ Relocking s t))
          ∧ (s.engine.state = .muting → ∃ t, exec report s = .next t ∧ (Watched (handed (forgotten s)) t))
          ∧ (∀ w, s.engine.inFlight = some w → s.engine.state = .locking → (s.source n).timing = none →
              exec report s = .next ((forgotten s).reattempted w))
          ∧ (s.engine.state = .applying → ∃ t, exec report s = .next t ∧ (Watched (owing (handed (forgotten s))) t))
          ∧ (∀ w, s.engine.inFlight = some w → s.engine.state = .unmuting → ∃ t, exec report s = .next t ∧
            (Completes (owing (handed (forgotten s)).watched) t (fun l => s.ports.offerAll (w.ended 0xA0 :: l)) w
              ∧ (ChainLast s → kept { (forgotten s).idled w with ports := s.ports.offerAll [w.ended 0xA0] } t))))))

/-- A reply is taken only when its kind and number are those of the request outstanding, and sets the record: with the composition as asked
for nothing more happens, and when it has turned meanwhile the opposite request goes out; in MUTING BLANKED has the switch routed. In
UNMUTING UNBLANKED ends the switch SWITCHED: the chain ended, the unit is over, with a barred holder freed and an elect's command tried; an
owed relock starts, or the pending target's switch. A silent blank request leaves the record UNKNOWN with NO_ANSWER; in MUTING and UNMUTING it ends the switch SCALER_FAULT, with the
pending target's switch to follow, or the engine in IDLE and the blank control acting on what composition is left. In the hand-over these
are the model's choices: ELECT_REFUSED before HOLDER (log 11), no second activity (log 22), and an elect that runs while a reset is pending
(log 20) (R19, R27, R33, R34, R39, R91 to R96, R99 to R102, R104, R118, R124, R125, R132 to R136). -/
def Obligations.BlankReplies : Prop :=
  ∀ (s : State) (k : Nat) (e : Requester) (a : Cmd) (i : InputIdx) (q : ProfileIdx) (z : SceneIdx) (x : Keystone)
    (d : Direction) (b : Bool), Quiet s → k < 256 →
    (let blanked := linkBytes 0x81 k []
     let unblanked := linkBytes 0x82 k []
     let silent (r : BlankRequest) : Notice :=
       { cls := .scaler, kind := 1, subject := blankKindCode r.kind, result := 0xA4, extra := 0 }
     let read (u : State) (b : BlankRecord) : State := { u with engine := { u.engine with blank := b, blankReq := none } }
     let turned (b : BlankRecord) (x : BlankKind) : State :=
       { s with engine := { s.engine with blank := b, blankReq := some { kind := x, num := s.engine.linkNext },
                                          linkNext := nextLink s.engine.linkNext } }
     let follows (u t : State) (x : PendingTarget) : Prop :=
       t.ports = u.ports ∧ t.floor = s.floor ∧ t.recallNow = u.recallNow ∧ t.engine.pendingTarget = none
         ∧ t.engine.inFlight.map (fun y => (y.kind, y.target, y.requester)) = some (.select, x.input, some x.requester)
     (s.engine.blankReq ≠ some { kind := .blank, num := k } → exec (.blanked blanked) s = .next s)
       ∧ (s.engine.blankReq ≠ some { kind := .unblank, num := k } → exec (.unblanked unblanked) s = .next s)
       ∧ (s.engine.blankReq = some { kind := .blank, num := k } → s.engine.compHeld = s.composition → s.engine.powered = true →
        (s.composition = true → s.engine.state ≠ .muting → exec (.blanked blanked) s = .next (read s .blanked))
        ∧ (s.composition = false → s.engine.state ≠ .muting → exec (.blanked blanked) s = .next (turned .blanked .unblank))
        ∧ (∀ w, s.composition = true → s.engine.state = .muting → s.engine.inFlight = some w →
          ∃ t, exec (.blanked blanked) s = .next t ∧
            (t = { s with engine := t.engine, sources := t.sources, geo := t.geo }
              ∧ t.engine.state = .locking ∧ t.engine.routed = w.target ∧ t.engine.selected = w.target ∧ t.engine.blank = .blanked
              ∧ t.engine.blankReq = none ∧ (t.source w.target).timing = none)))
       ∧ (s.engine.blankReq = some { kind := .unblank, num := k } → s.engine.compHeld = s.composition → s.engine.powered = true →
        (s.composition = true → exec (.unblanked unblanked) s = .next (turned .unblanked .blank))
        ∧ (s.composition = false → s.engine.state ≠ .unmuting → exec (.unblanked unblanked) s = .next (read s .unblanked))
        ∧ (∀ w, s.composition = false → s.engine.state = .unmuting → s.engine.inFlight = some w →
          ∃ t, exec (.unblanked unblanked) s = .next t ∧
            (Chains (read s .unblanked) t (fun l => s.ports.offerAll (w.ended 0xA0 :: l)) w e a i q z x d b
              ∧ (ChainLast s → s.engine.owedRelock = true → t.sources = s.sources ∧ t.geo = s.geo ∧ t.engine.blank = .unblanked
                ∧ t.engine.blankReq = some { kind := .blank, num := s.engine.linkNext }))))
       ∧ (s.engine.blankReq.map BlankRequest.num ≠ some k → exec (.blankRequestTimeout k) s = .next s)
       ∧ (∀ r, s.engine.blankReq = some r → s.engine.state ≠ .muting → s.engine.state ≠ .unmuting →
        exec (.blankRequestTimeout r.num) s = .next { read s .unknown with ports := s.ports.offerAll [silent r] })
       ∧ (∀ r, s.engine.blankReq = some r → s.engine.state = .muting ∨ s.engine.state = .unmuting → ∀ w, s.engine.inFlight = some w →
        (let lost : State := { read (s.idled w) .unknown with ports := s.ports.offerAll [silent r, w.ended 0xA4] }
         (ChainLast s → s.engine.owedRelock = false → ∃ t, exec (.blankRequestTimeout r.num) s = .next t ∧ (Watched lost t))
           ∧ (∀ x, s.engine.pendingTarget = some x → ∃ t, exec (.blankRequestTimeout r.num) s = .next t ∧ (follows lost t x)))))

/-- LOCKED in range with the signal present records and remembers the timing and enters APPLYING, its table handed in any case; a failed or
late quick attempt gives way to one full attempt; a failed full one, or the overall limit, ends the switch NO_LOCK, and at the chain's end
the unit's: a barred holder is freed, and an elect's command is discarded if steps 6 to 11 now refuse it, or acts with its requester as
holder, each kind as it does when it is taken. In the hand-over these are the model's choices: ELECT_REFUSED before HOLDER (log 11), no
second activity for the grace deferral (log 22), and an elect that runs while a reset is pending (log 20) (R19, R27, R33, R34, R39, R92 to
R97, R99, R104, R116, R118, R124, R125, R132 to R136). -/
def Obligations.LockReplies : Prop :=
  ∀ (s : State) (k w h f : Nat) (sw : Switch) (q : LockRequest) (e : Requester) (c : Cmd) (i : InputIdx) (p : ProfileIdx) (z : SceneIdx)
    (x : Keystone) (d : Direction) (m : Bool), Quiet s → k < 256 → w < 65536 → h < 65536 → f < 65536 →
    s.engine.state = .locking → s.engine.inFlight = some sw → s.engine.lockReq = some q → s.engine.powered = true →
    s.engine.switchCond = true → s.engine.compHeld = true → s.engine.routed = sw.target →
    (let locked := linkBytes 0x83 k (bytes16 w ++ bytes16 h ++ bytes16 f)
     let timing : Timing := { width := w, height := h, refresh := f }
     let full : State :=
       { s with
         sources := s.sources.set sw.target { s.source sw.target with remembered := none },
         engine := { s.engine with inFlight := some { sw with lockMode := some .full, window := some 3000 },
                                   lockReq := some { num := s.engine.linkNext, mode := .full, timing := none },
                                   linkNext := nextLink s.engine.linkNext } }
     let told (l : List Notice) : Ports :=
       s.ports.offerAll
         ({ cls := .source, kind := 1, subject := inputCode sw.target, result := 0xA1, extra := requesterOrNone sw.requester } :: l)
     let fails (f : Floor) (l : List Notice) : State :=
       { s with
         ports := told l, floor := f, recallNow := s.recallNow.filter fun c => !decide (c.input = sw.target),
         engine := { s.engine with state := .idle, inFlight := none, lockReq := none, switchCond := false } }
     let noLock : State := fails { s.floor with marker := false } []
     let within (u : State) : State := { u with engine := { u.engine with switchCond := true } }
     let alone : Prop := s.engine.pendingTarget = none ∧ s.engine.owedRelock = false ∧ (s.source sw.target).timing = none
     let last : Prop := alone ∧ s.floor.elect = none ∧ s.holderBarred = false
     let free : Floor := { holder := none, hold := false, elect := none, marker := false }
     (q.num ≠ k → exec (.locked locked) s = .next s ∧ exec (.lockFailed (linkBytes 0x84 k [])) s = .next s
          ∧ exec (.lockWindowExpiry k) s = .next s)
       ∧ (sw.limit ≠ some k → exec (.overallLockLimitExpiry k) s = .next s)
       ∧ (q.num = k → timing.inRange = true → (s.source sw.target).present = true → ∃ t, exec (.locked locked) s = .next t ∧
        (t = { s with sources := s.sources.set sw.target { s.source sw.target with timing := some timing, remembered := some timing },
                      geo := t.geo,
                      engine := { s.engine with state := .applying, lockReq := none,
                                                inFlight := some { sw with window := none, limit := none },
                                                linkNext := t.engine.linkNext } }
          ∧ t.geo.last = bandTable (s.effectivePair s.profiles.active) t.routedAspect
          ∧ (if s.geo.inTransfer = none then
               t.geo.inTransfer = some { num := s.engine.linkNext, seq := s.geo.nextSeq, table := t.geo.last }
             else t.geo.pendingTable = some t.geo.last ∧ t.geo.inTransfer = s.geo.inTransfer)))
       ∧ (q.num = k → timing.inRange = false ∨ (s.source sw.target).present = false → sw.lockMode = some .quick →
          exec (.locked locked) s = .next full)
       ∧ (q.num = k → timing.inRange = false ∨ (s.source sw.target).present = false → sw.lockMode = some .full → last →
          exec (.locked locked) s = .next noLock)
       ∧ (sw.lockMode = some .quick → (q.num = k → exec (.lockFailed (linkBytes 0x84 k [])) s = .next full)
          ∧ (sw.window ≠ none → exec (.lockWindowExpiry q.num) s = .next full))
       ∧ (sw.lockMode = some .full → last → (q.num = k → exec (.lockFailed (linkBytes 0x84 k [])) s = .next noLock)
          ∧ (sw.window ≠ none → exec (.lockWindowExpiry q.num) s = .next noLock))
       ∧ (∀ n, sw.limit = some n → last → exec (.overallLockLimitExpiry n) s = .next noLock)
       ∧ (∀ n, sw.limit = some n → alone → s.floor.marker = true →
        (s.floor.elect = none → s.holderBarred = true → exec (.overallLockLimitExpiry n) s = .next (fails free [free.notice]))
        ∧ (∀ e, s.floor.elect = some (e, .holdFloor) → s.floor.holder ≠ some e → s.lockedOut6 e .holdFloor = false →
          (let held : Floor := { free with holder := some e, hold := true }
           exec (.overallLockLimitExpiry n) s = .next (fails held [held.notice])))
        ∧ (s.floor.elect = some (e, c) → s.floor.holder ≠ some e →
          ∃ t, exec (.overallLockLimitExpiry n) s = .next t ∧
            (t.engine.switchCond = t.engine.inFlight.any (fun y => y.kind != .apply)
              ∧ ElectActs (within noLock) (within t) told e c i p z x d m)))
       ∧ (∀ n, sw.limit = some n → ∀ x : PendingTarget, s.engine.pendingTarget = some x → ∃ t, exec (.overallLockLimitExpiry n) s = .next t ∧
        (t.engine.pendingTarget = none
          ∧ t.engine.inFlight.map (fun y => (y.kind, y.target, y.requester)) = some (.select, x.input, some x.requester)
          ∧ t.floor = s.floor
          ∧ t.ports = s.ports.offerAll
              [{ cls := .source, kind := 1, subject := inputCode sw.target, result := 0xA1, extra := requesterOrNone sw.requester }])))

/-- APPLIED with the link number and the sequence number of the table in transfer makes it the scaler table and sends the pending one; another
sequence number is discarded. With none pending it ends APPLYING: with a pending target the switch ends SWITCHED and the target's starts; an
APPLY switch ends SWITCHED without UNMUTING; any other enters UNMUTING, with UNBLANK sent, or ends SWITCHED at once where the composition
holds; and the end of the chain is that of the unit, with a barred holder freed and an elect's command tried, or an owed relock starts. A
silent table drops all tables with NO_ANSWER and ends a switch in APPLYING SCALER_FAULT, the blank control acting on what composition is
left. In the hand-over these are the model's choices: ELECT_REFUSED before HOLDER (log 11), no second activity (log 22), and an elect that
runs while a reset is pending (log 20) (R19, R27, R33, R34, R39, R92 to R96, R98 to R102, R104, R118 to R120, R124, R125, R132 to R136). -/
def Obligations.TableReplies : Prop :=
  ∀ (s : State) (k : Nat) (n : Byte) (y : Transfer) (e : Requester) (a : Cmd) (i : InputIdx) (q : ProfileIdx) (z : SceneIdx) (x : Keystone)
    (d : Direction) (b : Bool), Quiet s → k < 256 → s.geo.inTransfer = some y →
    (let applied := linkBytes 0x85 k [n]
     let ended : Geometry := { s.geo with scalerTable := some y.table, inTransfer := none, pendingTable := none }
     let dropped : State := { s with geo := { s.geo with scalerTable := none, inTransfer := none, pendingTable := none } }
     let silent : Notice := { cls := .scaler, kind := 1, subject := 4, result := 0xA4, extra := y.seq }
     let clear : State := { s with geo := ended, engine := { s.engine with switchCond := false } }
     let fault (w : Switch) (l : List Notice) : Ports := s.ports.offerAll (silent :: w.ended 0xA4 :: l)
     (y.num ≠ k ∨ y.seq ≠ n.toNat → exec (.applied applied) s = .next s)
       ∧ (y.num = k → y.seq = n.toNat →
        (s.geo.pendingTable = none → s.engine.state ≠ .applying → exec (.applied applied) s = .next { s with geo := ended })
        ∧ (∀ f, s.geo.pendingTable = some f → exec (.applied applied) s = .next
          { s with geo := { ended with inTransfer := some { num := s.engine.linkNext, seq := s.geo.nextSeq, table := f },
                                       nextSeq := (s.geo.nextSeq + 1) % 256 },
                   engine := { s.engine with linkNext := nextLink s.engine.linkNext } })
        ∧ (∀ w, s.geo.pendingTable = none → s.engine.state = .applying → s.engine.inFlight = some w →
          (s.engine.pendingTarget = none → w.kind ≠ .apply → clear.composition = false → s.engine.blank ≠ .unblanked →
            exec (.applied applied) s = .next ({ clear with engine := { clear.engine with state := .unmuting } } : State).watched)
          ∧ (s.engine.pendingTarget ≠ none → ∃ t, exec (.applied applied) s = .next t ∧
            (Completes { s with geo := ended } t (fun l => s.ports.offerAll (w.ended 0xA0 :: l)) w))
          ∧ (s.engine.pendingTarget = none → s.engine.compHeld = s.composition →
              (if w.kind = .apply then s.engine.switchCond = false else clear.composition = true ∨ s.engine.blank = .unblanked) →
            ∃ t, exec (.applied applied) s = .next t ∧
              (Chains clear.watched t (fun l => s.ports.offerAll (w.ended 0xA0 :: l)) w e a i q z x d b))))
       ∧ (y.num ≠ k → exec (.tableTimeout k) s = .next s)
       ∧ (s.engine.state ≠ .applying → exec (.tableTimeout y.num) s = .next { dropped with ports := s.ports.offerAll [silent] })
       ∧ (∀ w, s.engine.state = .applying → s.engine.inFlight = some w →
        (ChainLast s → s.engine.owedRelock = false → ∃ t, exec (.tableTimeout y.num) s = .next t ∧
          (Watched { dropped.idled w with ports := fault w [] } t))
        ∧ (s.engine.pendingTarget ≠ none ∨ s.engine.owedRelock = true → ∃ t, exec (.tableTimeout y.num) s = .next t ∧
          (Completes dropped t (fault w) w))))

/-! ## The store's device, the console, the resets, the layouts -/

/-- A write's completion puts the image in its record and no other, raises STORE_DONE, and the next write begins, an owed LOCKOUT save queued
when it is taken from the queue. The time limit sets the fault, gives the write back to the wear slot or the retry place, raises
STORE_FAILED, and no write begins. The end of a WEAR write clears a pending replacement that waited for it and lets a pending reset
proceed; the fault lets one proceed that waited for its write to begin (log 27). A row that names another write than the one in flight does
nothing (log 6). That a retry that frees a place in the queue leaves the owed save waiting is the model's choice (log 35) (R19, R80, R168,
R185, R186). -/
def Obligations.StoreWritesEnd : Prop :=
  ∀ (s : State) (n : Nat), Quiet s →
    (s.store.inFlight = none ∨ s.store.writes ≠ n → exec (.storeWriteComplete n) s = .next s ∧ exec (.storeWriteTimeout n) s = .next s)
      ∧ (∀ i, s.store.inFlight = some i → s.store.writes = n →
        (let result (x : Nat) : Ports :=
           s.ports.offerAll [{ cls := .store, kind := 1, subject := recordCode i.record, result := x, extra := 0 }]
         let past (x : SlotWait) : SlotWait := if i.record = .wear ∧ x = .toEnd then .settled else x
         (∃ t, exec (.storeWriteComplete n) s = .next t ∧
            (let u : State := { s with ports := result 0xA5, memory := t.memory, store := { s.store with inFlight := none } }
             let on (x : SlotWait) : SlotWait := if s.store.fault then past x else u.waitOn (past x)
             t = { u with store := if s.store.fault then u.store else u.resumed,
                          saveOwed := if s.store.fault then s.saveOwed else u.owedOn,
                          wear := { s.wear with replacement := on s.wear.replacement }, resetWait := s.resetWait.map on }
              ∧ t.memory.holds i.record = i ∧ i.record ∉ t.memory.bad
              ∧ (∀ r, r ≠ i.record → t.memory.holds r = s.memory.holds r ∧ (r ∈ t.memory.bad ↔ r ∈ s.memory.bad))))
           ∧ exec (.storeWriteTimeout n) s = .next
              { s with
                ports := result 0xA6,
                store := { s.store with
                  fault := true, inFlight := none,
                  slot := (match i with | .wear r => some (s.store.slot.getD r) | _ => s.store.slot),
                  retry := (match i with | .wear _ => s.store.retry | _ => some i.record) },
                wear := { s.wear with replacement := past s.wear.replacement },
                resetWait := s.resetWait.map fun x => if past x = .toBegin then .settled else past x }))

/-- The keypad's debounce by the table of R172, and the infrared frames: the second sample of a key, or a complete frame of the room's code with
a good check and a known key code, is that key pressed. Each key forms its command: POWER LAMP_ON or LAMP_OFF by the lamp's state, SOURCE
the SELECT_INPUT of its cycle or none, MUTE, ECO, NORMAL, and IN1 to IN6 SELECT_INPUT. Intake takes it for LOCAL, KEY_OUTCOME comes first,
and it acts, waits as elect or is refused. A frame that fails, an unknown key code and a repeat frame change nothing; an overflowing space
takes the decoder to IDLE and a wrong leader to DISCARD. That a key is answered WRONG_STATE while a reset is pending is the model's reading
(log 20), and so are DEFERRAL_END before the LAMP STATE notice (log 13) and SWITCH_END after the effects of a mute in UNMUTING (log 14) (R28 to R31, R40, R54 to R56, R92 to R94, R99, R104, R155, R172 to R178). -/
def Obligations.ConsoleActs : Prop :=
  ∀ (s : State) (v : Byte) (k : PanelKey) (bits : List Bool) (n : Nat), Quiet s →
    (let pad (d : Debounce) : State := { s with console := { s.console with keypad := d } }
     let ir (d : IrDecoder) : State := { s with console := { s.console with ir := d } }
     let base : Nat := match k with | .power => 0 | .source => 64 | .mute => 128
     let key : Key := match k with | .power => .power | .source => .source | .mute => .mute
     (base ≤ v.toNat → v.toNat ≤ base + 31 →
        (s.console.keypad = .released → exec (.keypadSample v) s = .next (pad (.candidate k)))
        ∧ (∀ j, s.console.keypad = .candidate j → j ≠ k → exec (.keypadSample v) s = .next (pad (.candidate k)))
        ∧ (∀ j, s.console.keypad = .pressed j → exec (.keypadSample v) s = .next s)
        ∧ (∀ j, s.console.keypad = .releaseSeen j → exec (.keypadSample v) s = .next (pad (.pressed j)))
        ∧ (s.console.keypad = .candidate k → ∃ t, exec (.keypadSample v) s = .next t ∧
            (Pressed s t { s.console with keypad := .pressed (some k) } key)))
       ∧ (224 ≤ v.toNat → exec (.keypadSample v) s = .next
        (match s.console.keypad with | .pressed j => pad (.releaseSeen j) | _ => pad .released))
       ∧ ((32 ≤ v.toNat ∧ v.toNat ≤ 63) ∨ (96 ≤ v.toNat ∧ v.toNat ≤ 127) ∨ (160 ≤ v.toNat ∧ v.toNat ≤ 223) →
        exec (.keypadSample v) s = .next s)
       ∧ (s.console.ir = .idle → bits.length = 16 →
        (let room := fromBits (bits.take 4)
         let code := fromBits ((bits.drop 4).take 8)
         let good : Prop := fromBits (bits.drop 12) = (room ^^^ code / 16 ^^^ code % 16) ∧ (∀ c ∈ s.console.room, c = room)
         (¬ good → exec (.irFrame (irWire bits)) s = .next s)
           ∧ (good → (∀ y : Key, irCode y ≠ code) → exec (.irFrame (irWire bits)) s = .next s)
           ∧ (good → ∀ y : Key, irCode y = code → ∃ t, exec (.irFrame (irWire bits)) s = .next t ∧ (Pressed s t s.console y))))
       ∧ (s.console.ir = .idle → exec (.irFrame [.mark 50, .space 13, .mark 6, .space 255]) s = .next s)
       ∧ ((∀ b, s.console.ir ≠ .idleGap .data b) → exec .irIdleGap s = .next (ir .idle))
       ∧ (s.console.ir = .idle → n < 40 ∨ 60 < n → exec (.irFrameDiscard [.mark n]) s = .next (ir .discard)))

/-- The resets: RESET_N, or a pending reset that is ready, keeps the room clock, the lines, the line rates and the stored records; a power-on
unsets the clock and takes the lines, the rates and the spoiled records as it finds them. The room is rebuilt from the store, every record
that fails its check at its factory value, DEFAULTED and written back, the floor empty, the engine IDLE and unpowered on scene 0's input,
the lamp in COOLDOWN, FAULT or OFF; and with the clock still set the start ends with an evaluation against the remembered entry none, and
an entry that governs begins. These are the model's choices: a check value is a mark of the record (log 29), presence is the SIG line itself
(log 30), the first write begins as the records are loaded (log 10), and the runs of a timer and the writes are counted on (log 6)
(R2, R5, R8, R19, R25, R65, R69, R81, R83, R90, R117, R123, R130, R138, R141, R146, R148, R149, R156, R168, R169, R172, R173,
R180 to R183, R185, R188). -/
def Obligations.ResetsRebuild : Prop :=
  ∀ (s : State) (x : PowerOn),
    (let clean (r : LineRate) : PortBlock :=
       { rx := .hunting, inbox := [], outq := [], mask := 0x1FF#9, counts := Vector.replicate 9 0, overrun := false, rate := r }
     let kept : Ports :=
       { service := clean s.ports.service.rate, campus := clean s.ports.campus.rate, panel := clean s.ports.panel.rate }
     let found : Ports := { service := clean x.serviceRate, campus := clean x.campusRate, panel := clean x.panelRate }
     let unset : State := { s with clock := { s.clock with isSet := false } }
     let stays (t : State) : Prop :=
       t.clock = s.clock ∧ t.lines = s.lines ∧ t.memory = s.memory ∧ (∀ n : InputIdx, (t.source n).present = (s.source n).present)
     let evaluated (u t : State) : Prop :=
       (u.effective = none → t = u) ∧ (∀ y, u.effective = some y → EntryBegins u t u.ports.offerAll y)
     (s.clock.isSet = false → ∃ t, exec .resetN s = .next t ∧ (stays t ∧ Rebuilt s t kept))
       ∧ (s.clock.isSet = true → ∃ t, exec .resetN s = .next t ∧
        (stays t ∧ ∃ u, exec .resetN unset = .next u ∧ evaluated { u with clock := s.clock } t))
       ∧ exec .controllerResetBegin s = (if s.resetReady then exec .resetN s else .next s)
       ∧ (∃ t, exec (.powerOnReset x) s = .next t ∧
        (Rebuilt s t found ∧ t.clock = { isSet := false, minute := 0, weekday := 0, week := 0, run := s.clock.run }
          ∧ t.lines = { lampSense := x.lampSense, thermHot := x.thermHot } ∧ (∀ n : InputIdx, (t.source n).present = x.sig[n])
          ∧ t.memory = { s.memory with bad := t.memory.bad }
          ∧ ∀ r, t.memory.valid r = (s.memory.valid r && !x.spoiled.contains (recordCode r)))))

/-- A message of the scaler link is read back from its bytes; bytes that spell no message are discarded, and so, by the model's reading, is a
TIMING_CHANGED with a number other than 0 (log 19) (R91). -/
def Obligations.LinkRead : Prop :=
  (∀ m : LinkMsg, m.num < 256 → m.payload.length ≤ 146 → readLink m.wire = some m)
    ∧ ∀ (s : State) (l : List Byte) (k : Nat), Quiet s →
      (readLink l = none →
        exec (.blanked l) s = .next s ∧ exec (.unblanked l) s = .next s ∧ exec (.locked l) s = .next s
          ∧ exec (.lockFailed l) s = .next s ∧ exec (.applied l) s = .next s ∧ exec (.timingChanged l) s = .next s)
      ∧ (1 ≤ k → k < 256 → exec (.timingChanged (linkBytes 0xC1 k [])) s = .next s)
end

