-- ==== Sys2Proof/Laws/State.lean ====
section
/-! SUPPORT. What replacing one block of the state leaves: one lemma per block and field. -/

namespace Sys2Proof.Machine

@[simp] theorem State.setPorts_ports (s : State) (x : Ports) : (s.setPorts x).ports = x := rfl
@[simp] theorem State.setPorts_authority (s : State) (x : Ports) : (s.setPorts x).authority = s.authority := rfl
@[simp] theorem State.setPorts_resetWait (s : State) (x : Ports) : (s.setPorts x).resetWait = s.resetWait := rfl
@[simp] theorem State.setPorts_floor (s : State) (x : Ports) : (s.setPorts x).floor = s.floor := rfl
@[simp] theorem State.setPorts_lamp (s : State) (x : Ports) : (s.setPorts x).lamp = s.lamp := rfl
@[simp] theorem State.setPorts_lines (s : State) (x : Ports) : (s.setPorts x).lines = s.lines := rfl
@[simp] theorem State.setPorts_wear (s : State) (x : Ports) : (s.setPorts x).wear = s.wear := rfl
@[simp] theorem State.setPorts_sources (s : State) (x : Ports) : (s.setPorts x).sources = s.sources := rfl
@[simp] theorem State.setPorts_engine (s : State) (x : Ports) : (s.setPorts x).engine = s.engine := rfl
@[simp] theorem State.setPorts_geo (s : State) (x : Ports) : (s.setPorts x).geo = s.geo := rfl
@[simp] theorem State.setPorts_profiles (s : State) (x : Ports) : (s.setPorts x).profiles = s.profiles := rfl
@[simp] theorem State.setPorts_scenes (s : State) (x : Ports) : (s.setPorts x).scenes = s.scenes := rfl
@[simp] theorem State.setPorts_recallNow (s : State) (x : Ports) : (s.setPorts x).recallNow = s.recallNow := rfl
@[simp] theorem State.setPorts_clock (s : State) (x : Ports) : (s.setPorts x).clock = s.clock := rfl
@[simp] theorem State.setPorts_uptime (s : State) (x : Ports) : (s.setPorts x).uptime = s.uptime := rfl
@[simp] theorem State.setPorts_schedule (s : State) (x : Ports) : (s.setPorts x).schedule = s.schedule := rfl
@[simp] theorem State.setPorts_lockouts (s : State) (x : Ports) : (s.setPorts x).lockouts = s.lockouts := rfl
@[simp] theorem State.setPorts_saveOwed (s : State) (x : Ports) : (s.setPorts x).saveOwed = s.saveOwed := rfl
@[simp] theorem State.setPorts_console (s : State) (x : Ports) : (s.setPorts x).console = s.console := rfl
@[simp] theorem State.setPorts_store (s : State) (x : Ports) : (s.setPorts x).store = s.store := rfl
@[simp] theorem State.setPorts_memory (s : State) (x : Ports) : (s.setPorts x).memory = s.memory := rfl
@[simp] theorem State.setPorts_raised (s : State) (x : Ports) : (s.setPorts x).raised = s.raised := rfl
@[simp] theorem State.setPorts_pending (s : State) (x : Ports) : (s.setPorts x).pending = s.pending := rfl

@[simp] theorem State.setAuthority_ports (s : State) (x : AuthTable) : (s.setAuthority x).ports = s.ports := rfl
@[simp] theorem State.setAuthority_authority (s : State) (x : AuthTable) : (s.setAuthority x).authority = x := rfl
@[simp] theorem State.setAuthority_resetWait (s : State) (x : AuthTable) : (s.setAuthority x).resetWait = s.resetWait := rfl
@[simp] theorem State.setAuthority_floor (s : State) (x : AuthTable) : (s.setAuthority x).floor = s.floor := rfl
@[simp] theorem State.setAuthority_lamp (s : State) (x : AuthTable) : (s.setAuthority x).lamp = s.lamp := rfl
@[simp] theorem State.setAuthority_lines (s : State) (x : AuthTable) : (s.setAuthority x).lines = s.lines := rfl
@[simp] theorem State.setAuthority_wear (s : State) (x : AuthTable) : (s.setAuthority x).wear = s.wear := rfl
@[simp] theorem State.setAuthority_sources (s : State) (x : AuthTable) : (s.setAuthority x).sources = s.sources := rfl
@[simp] theorem State.setAuthority_engine (s : State) (x : AuthTable) : (s.setAuthority x).engine = s.engine := rfl
@[simp] theorem State.setAuthority_geo (s : State) (x : AuthTable) : (s.setAuthority x).geo = s.geo := rfl
@[simp] theorem State.setAuthority_profiles (s : State) (x : AuthTable) : (s.setAuthority x).profiles = s.profiles := rfl
@[simp] theorem State.setAuthority_scenes (s : State) (x : AuthTable) : (s.setAuthority x).scenes = s.scenes := rfl
@[simp] theorem State.setAuthority_recallNow (s : State) (x : AuthTable) : (s.setAuthority x).recallNow = s.recallNow := rfl
@[simp] theorem State.setAuthority_clock (s : State) (x : AuthTable) : (s.setAuthority x).clock = s.clock := rfl
@[simp] theorem State.setAuthority_uptime (s : State) (x : AuthTable) : (s.setAuthority x).uptime = s.uptime := rfl
@[simp] theorem State.setAuthority_schedule (s : State) (x : AuthTable) : (s.setAuthority x).schedule = s.schedule := rfl
@[simp] theorem State.setAuthority_lockouts (s : State) (x : AuthTable) : (s.setAuthority x).lockouts = s.lockouts := rfl
@[simp] theorem State.setAuthority_saveOwed (s : State) (x : AuthTable) : (s.setAuthority x).saveOwed = s.saveOwed := rfl
@[simp] theorem State.setAuthority_console (s : State) (x : AuthTable) : (s.setAuthority x).console = s.console := rfl
@[simp] theorem State.setAuthority_store (s : State) (x : AuthTable) : (s.setAuthority x).store = s.store := rfl
@[simp] theorem State.setAuthority_memory (s : State) (x : AuthTable) : (s.setAuthority x).memory = s.memory := rfl
@[simp] theorem State.setAuthority_raised (s : State) (x : AuthTable) : (s.setAuthority x).raised = s.raised := rfl
@[simp] theorem State.setAuthority_pending (s : State) (x : AuthTable) : (s.setAuthority x).pending = s.pending := rfl

@[simp] theorem State.setResetWait_ports (s : State) (x : Option SlotWait) : (s.setResetWait x).ports = s.ports := rfl
@[simp] theorem State.setResetWait_authority (s : State) (x : Option SlotWait) : (s.setResetWait x).authority = s.authority := rfl
@[simp] theorem State.setResetWait_resetWait (s : State) (x : Option SlotWait) : (s.setResetWait x).resetWait = x := rfl
@[simp] theorem State.setResetWait_floor (s : State) (x : Option SlotWait) : (s.setResetWait x).floor = s.floor := rfl
@[simp] theorem State.setResetWait_lamp (s : State) (x : Option SlotWait) : (s.setResetWait x).lamp = s.lamp := rfl
@[simp] theorem State.setResetWait_lines (s : State) (x : Option SlotWait) : (s.setResetWait x).lines = s.lines := rfl
@[simp] theorem State.setResetWait_wear (s : State) (x : Option SlotWait) : (s.setResetWait x).wear = s.wear := rfl
@[simp] theorem State.setResetWait_sources (s : State) (x : Option SlotWait) : (s.setResetWait x).sources = s.sources := rfl
@[simp] theorem State.setResetWait_engine (s : State) (x : Option SlotWait) : (s.setResetWait x).engine = s.engine := rfl
@[simp] theorem State.setResetWait_geo (s : State) (x : Option SlotWait) : (s.setResetWait x).geo = s.geo := rfl
@[simp] theorem State.setResetWait_profiles (s : State) (x : Option SlotWait) : (s.setResetWait x).profiles = s.profiles := rfl
@[simp] theorem State.setResetWait_scenes (s : State) (x : Option SlotWait) : (s.setResetWait x).scenes = s.scenes := rfl
@[simp] theorem State.setResetWait_recallNow (s : State) (x : Option SlotWait) : (s.setResetWait x).recallNow = s.recallNow := rfl
@[simp] theorem State.setResetWait_clock (s : State) (x : Option SlotWait) : (s.setResetWait x).clock = s.clock := rfl
@[simp] theorem State.setResetWait_uptime (s : State) (x : Option SlotWait) : (s.setResetWait x).uptime = s.uptime := rfl
@[simp] theorem State.setResetWait_schedule (s : State) (x : Option SlotWait) : (s.setResetWait x).schedule = s.schedule := rfl
@[simp] theorem State.setResetWait_lockouts (s : State) (x : Option SlotWait) : (s.setResetWait x).lockouts = s.lockouts := rfl
@[simp] theorem State.setResetWait_saveOwed (s : State) (x : Option SlotWait) : (s.setResetWait x).saveOwed = s.saveOwed := rfl
@[simp] theorem State.setResetWait_console (s : State) (x : Option SlotWait) : (s.setResetWait x).console = s.console := rfl
@[simp] theorem State.setResetWait_store (s : State) (x : Option SlotWait) : (s.setResetWait x).store = s.store := rfl
@[simp] theorem State.setResetWait_memory (s : State) (x : Option SlotWait) : (s.setResetWait x).memory = s.memory := rfl
@[simp] theorem State.setResetWait_raised (s : State) (x : Option SlotWait) : (s.setResetWait x).raised = s.raised := rfl
@[simp] theorem State.setResetWait_pending (s : State) (x : Option SlotWait) : (s.setResetWait x).pending = s.pending := rfl

@[simp] theorem State.setFloor_ports (s : State) (x : Floor) : (s.setFloor x).ports = s.ports := rfl
@[simp] theorem State.setFloor_authority (s : State) (x : Floor) : (s.setFloor x).authority = s.authority := rfl
@[simp] theorem State.setFloor_resetWait (s : State) (x : Floor) : (s.setFloor x).resetWait = s.resetWait := rfl
@[simp] theorem State.setFloor_floor (s : State) (x : Floor) : (s.setFloor x).floor = x := rfl
@[simp] theorem State.setFloor_lamp (s : State) (x : Floor) : (s.setFloor x).lamp = s.lamp := rfl
@[simp] theorem State.setFloor_lines (s : State) (x : Floor) : (s.setFloor x).lines = s.lines := rfl
@[simp] theorem State.setFloor_wear (s : State) (x : Floor) : (s.setFloor x).wear = s.wear := rfl
@[simp] theorem State.setFloor_sources (s : State) (x : Floor) : (s.setFloor x).sources = s.sources := rfl
@[simp] theorem State.setFloor_engine (s : State) (x : Floor) : (s.setFloor x).engine = s.engine := rfl
@[simp] theorem State.setFloor_geo (s : State) (x : Floor) : (s.setFloor x).geo = s.geo := rfl
@[simp] theorem State.setFloor_profiles (s : State) (x : Floor) : (s.setFloor x).profiles = s.profiles := rfl
@[simp] theorem State.setFloor_scenes (s : State) (x : Floor) : (s.setFloor x).scenes = s.scenes := rfl
@[simp] theorem State.setFloor_recallNow (s : State) (x : Floor) : (s.setFloor x).recallNow = s.recallNow := rfl
@[simp] theorem State.setFloor_clock (s : State) (x : Floor) : (s.setFloor x).clock = s.clock := rfl
@[simp] theorem State.setFloor_uptime (s : State) (x : Floor) : (s.setFloor x).uptime = s.uptime := rfl
@[simp] theorem State.setFloor_schedule (s : State) (x : Floor) : (s.setFloor x).schedule = s.schedule := rfl
@[simp] theorem State.setFloor_lockouts (s : State) (x : Floor) : (s.setFloor x).lockouts = s.lockouts := rfl
@[simp] theorem State.setFloor_saveOwed (s : State) (x : Floor) : (s.setFloor x).saveOwed = s.saveOwed := rfl
@[simp] theorem State.setFloor_console (s : State) (x : Floor) : (s.setFloor x).console = s.console := rfl
@[simp] theorem State.setFloor_store (s : State) (x : Floor) : (s.setFloor x).store = s.store := rfl
@[simp] theorem State.setFloor_memory (s : State) (x : Floor) : (s.setFloor x).memory = s.memory := rfl
@[simp] theorem State.setFloor_raised (s : State) (x : Floor) : (s.setFloor x).raised = s.raised := rfl
@[simp] theorem State.setFloor_pending (s : State) (x : Floor) : (s.setFloor x).pending = s.pending := rfl

@[simp] theorem State.setLamp_ports (s : State) (x : Lamp) : (s.setLamp x).ports = s.ports := rfl
@[simp] theorem State.setLamp_authority (s : State) (x : Lamp) : (s.setLamp x).authority = s.authority := rfl
@[simp] theorem State.setLamp_resetWait (s : State) (x : Lamp) : (s.setLamp x).resetWait = s.resetWait := rfl
@[simp] theorem State.setLamp_floor (s : State) (x : Lamp) : (s.setLamp x).floor = s.floor := rfl
@[simp] theorem State.setLamp_lamp (s : State) (x : Lamp) : (s.setLamp x).lamp = x := rfl
@[simp] theorem State.setLamp_lines (s : State) (x : Lamp) : (s.setLamp x).lines = s.lines := rfl
@[simp] theorem State.setLamp_wear (s : State) (x : Lamp) : (s.setLamp x).wear = s.wear := rfl
@[simp] theorem State.setLamp_sources (s : State) (x : Lamp) : (s.setLamp x).sources = s.sources := rfl
@[simp] theorem State.setLamp_engine (s : State) (x : Lamp) : (s.setLamp x).engine = s.engine := rfl
@[simp] theorem State.setLamp_geo (s : State) (x : Lamp) : (s.setLamp x).geo = s.geo := rfl
@[simp] theorem State.setLamp_profiles (s : State) (x : Lamp) : (s.setLamp x).profiles = s.profiles := rfl
@[simp] theorem State.setLamp_scenes (s : State) (x : Lamp) : (s.setLamp x).scenes = s.scenes := rfl
@[simp] theorem State.setLamp_recallNow (s : State) (x : Lamp) : (s.setLamp x).recallNow = s.recallNow := rfl
@[simp] theorem State.setLamp_clock (s : State) (x : Lamp) : (s.setLamp x).clock = s.clock := rfl
@[simp] theorem State.setLamp_uptime (s : State) (x : Lamp) : (s.setLamp x).uptime = s.uptime := rfl
@[simp] theorem State.setLamp_schedule (s : State) (x : Lamp) : (s.setLamp x).schedule = s.schedule := rfl
@[simp] theorem State.setLamp_lockouts (s : State) (x : Lamp) : (s.setLamp x).lockouts = s.lockouts := rfl
@[simp] theorem State.setLamp_saveOwed (s : State) (x : Lamp) : (s.setLamp x).saveOwed = s.saveOwed := rfl
@[simp] theorem State.setLamp_console (s : State) (x : Lamp) : (s.setLamp x).console = s.console := rfl
@[simp] theorem State.setLamp_store (s : State) (x : Lamp) : (s.setLamp x).store = s.store := rfl
@[simp] theorem State.setLamp_memory (s : State) (x : Lamp) : (s.setLamp x).memory = s.memory := rfl
@[simp] theorem State.setLamp_raised (s : State) (x : Lamp) : (s.setLamp x).raised = s.raised := rfl
@[simp] theorem State.setLamp_pending (s : State) (x : Lamp) : (s.setLamp x).pending = s.pending := rfl

@[simp] theorem State.setLines_ports (s : State) (x : Lines) : (s.setLines x).ports = s.ports := rfl
@[simp] theorem State.setLines_authority (s : State) (x : Lines) : (s.setLines x).authority = s.authority := rfl
@[simp] theorem State.setLines_resetWait (s : State) (x : Lines) : (s.setLines x).resetWait = s.resetWait := rfl
@[simp] theorem State.setLines_floor (s : State) (x : Lines) : (s.setLines x).floor = s.floor := rfl
@[simp] theorem State.setLines_lamp (s : State) (x : Lines) : (s.setLines x).lamp = s.lamp := rfl
@[simp] theorem State.setLines_lines (s : State) (x : Lines) : (s.setLines x).lines = x := rfl
@[simp] theorem State.setLines_wear (s : State) (x : Lines) : (s.setLines x).wear = s.wear := rfl
@[simp] theorem State.setLines_sources (s : State) (x : Lines) : (s.setLines x).sources = s.sources := rfl
@[simp] theorem State.setLines_engine (s : State) (x : Lines) : (s.setLines x).engine = s.engine := rfl
@[simp] theorem State.setLines_geo (s : State) (x : Lines) : (s.setLines x).geo = s.geo := rfl
@[simp] theorem State.setLines_profiles (s : State) (x : Lines) : (s.setLines x).profiles = s.profiles := rfl
@[simp] theorem State.setLines_scenes (s : State) (x : Lines) : (s.setLines x).scenes = s.scenes := rfl
@[simp] theorem State.setLines_recallNow (s : State) (x : Lines) : (s.setLines x).recallNow = s.recallNow := rfl
@[simp] theorem State.setLines_clock (s : State) (x : Lines) : (s.setLines x).clock = s.clock := rfl
@[simp] theorem State.setLines_uptime (s : State) (x : Lines) : (s.setLines x).uptime = s.uptime := rfl
@[simp] theorem State.setLines_schedule (s : State) (x : Lines) : (s.setLines x).schedule = s.schedule := rfl
@[simp] theorem State.setLines_lockouts (s : State) (x : Lines) : (s.setLines x).lockouts = s.lockouts := rfl
@[simp] theorem State.setLines_saveOwed (s : State) (x : Lines) : (s.setLines x).saveOwed = s.saveOwed := rfl
@[simp] theorem State.setLines_console (s : State) (x : Lines) : (s.setLines x).console = s.console := rfl
@[simp] theorem State.setLines_store (s : State) (x : Lines) : (s.setLines x).store = s.store := rfl
@[simp] theorem State.setLines_memory (s : State) (x : Lines) : (s.setLines x).memory = s.memory := rfl
@[simp] theorem State.setLines_raised (s : State) (x : Lines) : (s.setLines x).raised = s.raised := rfl
@[simp] theorem State.setLines_pending (s : State) (x : Lines) : (s.setLines x).pending = s.pending := rfl

@[simp] theorem State.setWear_ports (s : State) (x : Wear) : (s.setWear x).ports = s.ports := rfl
@[simp] theorem State.setWear_authority (s : State) (x : Wear) : (s.setWear x).authority = s.authority := rfl
@[simp] theorem State.setWear_resetWait (s : State) (x : Wear) : (s.setWear x).resetWait = s.resetWait := rfl
@[simp] theorem State.setWear_floor (s : State) (x : Wear) : (s.setWear x).floor = s.floor := rfl
@[simp] theorem State.setWear_lamp (s : State) (x : Wear) : (s.setWear x).lamp = s.lamp := rfl
@[simp] theorem State.setWear_lines (s : State) (x : Wear) : (s.setWear x).lines = s.lines := rfl
@[simp] theorem State.setWear_wear (s : State) (x : Wear) : (s.setWear x).wear = x := rfl
@[simp] theorem State.setWear_sources (s : State) (x : Wear) : (s.setWear x).sources = s.sources := rfl
@[simp] theorem State.setWear_engine (s : State) (x : Wear) : (s.setWear x).engine = s.engine := rfl
@[simp] theorem State.setWear_geo (s : State) (x : Wear) : (s.setWear x).geo = s.geo := rfl
@[simp] theorem State.setWear_profiles (s : State) (x : Wear) : (s.setWear x).profiles = s.profiles := rfl
@[simp] theorem State.setWear_scenes (s : State) (x : Wear) : (s.setWear x).scenes = s.scenes := rfl
@[simp] theorem State.setWear_recallNow (s : State) (x : Wear) : (s.setWear x).recallNow = s.recallNow := rfl
@[simp] theorem State.setWear_clock (s : State) (x : Wear) : (s.setWear x).clock = s.clock := rfl
@[simp] theorem State.setWear_uptime (s : State) (x : Wear) : (s.setWear x).uptime = s.uptime := rfl
@[simp] theorem State.setWear_schedule (s : State) (x : Wear) : (s.setWear x).schedule = s.schedule := rfl
@[simp] theorem State.setWear_lockouts (s : State) (x : Wear) : (s.setWear x).lockouts = s.lockouts := rfl
@[simp] theorem State.setWear_saveOwed (s : State) (x : Wear) : (s.setWear x).saveOwed = s.saveOwed := rfl
@[simp] theorem State.setWear_console (s : State) (x : Wear) : (s.setWear x).console = s.console := rfl
@[simp] theorem State.setWear_store (s : State) (x : Wear) : (s.setWear x).store = s.store := rfl
@[simp] theorem State.setWear_memory (s : State) (x : Wear) : (s.setWear x).memory = s.memory := rfl
@[simp] theorem State.setWear_raised (s : State) (x : Wear) : (s.setWear x).raised = s.raised := rfl
@[simp] theorem State.setWear_pending (s : State) (x : Wear) : (s.setWear x).pending = s.pending := rfl

@[simp] theorem State.setSources_ports (s : State) (x : Vector Source 6) : (s.setSources x).ports = s.ports := rfl
@[simp] theorem State.setSources_authority (s : State) (x : Vector Source 6) : (s.setSources x).authority = s.authority := rfl
@[simp] theorem State.setSources_resetWait (s : State) (x : Vector Source 6) : (s.setSources x).resetWait = s.resetWait := rfl
@[simp] theorem State.setSources_floor (s : State) (x : Vector Source 6) : (s.setSources x).floor = s.floor := rfl
@[simp] theorem State.setSources_lamp (s : State) (x : Vector Source 6) : (s.setSources x).lamp = s.lamp := rfl
@[simp] theorem State.setSources_lines (s : State) (x : Vector Source 6) : (s.setSources x).lines = s.lines := rfl
@[simp] theorem State.setSources_wear (s : State) (x : Vector Source 6) : (s.setSources x).wear = s.wear := rfl
@[simp] theorem State.setSources_sources (s : State) (x : Vector Source 6) : (s.setSources x).sources = x := rfl
@[simp] theorem State.setSources_engine (s : State) (x : Vector Source 6) : (s.setSources x).engine = s.engine := rfl
@[simp] theorem State.setSources_geo (s : State) (x : Vector Source 6) : (s.setSources x).geo = s.geo := rfl
@[simp] theorem State.setSources_profiles (s : State) (x : Vector Source 6) : (s.setSources x).profiles = s.profiles := rfl
@[simp] theorem State.setSources_scenes (s : State) (x : Vector Source 6) : (s.setSources x).scenes = s.scenes := rfl
@[simp] theorem State.setSources_recallNow (s : State) (x : Vector Source 6) : (s.setSources x).recallNow = s.recallNow := rfl
@[simp] theorem State.setSources_clock (s : State) (x : Vector Source 6) : (s.setSources x).clock = s.clock := rfl
@[simp] theorem State.setSources_uptime (s : State) (x : Vector Source 6) : (s.setSources x).uptime = s.uptime := rfl
@[simp] theorem State.setSources_schedule (s : State) (x : Vector Source 6) : (s.setSources x).schedule = s.schedule := rfl
@[simp] theorem State.setSources_lockouts (s : State) (x : Vector Source 6) : (s.setSources x).lockouts = s.lockouts := rfl
@[simp] theorem State.setSources_saveOwed (s : State) (x : Vector Source 6) : (s.setSources x).saveOwed = s.saveOwed := rfl
@[simp] theorem State.setSources_console (s : State) (x : Vector Source 6) : (s.setSources x).console = s.console := rfl
@[simp] theorem State.setSources_store (s : State) (x : Vector Source 6) : (s.setSources x).store = s.store := rfl
@[simp] theorem State.setSources_memory (s : State) (x : Vector Source 6) : (s.setSources x).memory = s.memory := rfl
@[simp] theorem State.setSources_raised (s : State) (x : Vector Source 6) : (s.setSources x).raised = s.raised := rfl
@[simp] theorem State.setSources_pending (s : State) (x : Vector Source 6) : (s.setSources x).pending = s.pending := rfl

@[simp] theorem State.setEngine_ports (s : State) (x : Engine) : (s.setEngine x).ports = s.ports := rfl
@[simp] theorem State.setEngine_authority (s : State) (x : Engine) : (s.setEngine x).authority = s.authority := rfl
@[simp] theorem State.setEngine_resetWait (s : State) (x : Engine) : (s.setEngine x).resetWait = s.resetWait := rfl
@[simp] theorem State.setEngine_floor (s : State) (x : Engine) : (s.setEngine x).floor = s.floor := rfl
@[simp] theorem State.setEngine_lamp (s : State) (x : Engine) : (s.setEngine x).lamp = s.lamp := rfl
@[simp] theorem State.setEngine_lines (s : State) (x : Engine) : (s.setEngine x).lines = s.lines := rfl
@[simp] theorem State.setEngine_wear (s : State) (x : Engine) : (s.setEngine x).wear = s.wear := rfl
@[simp] theorem State.setEngine_sources (s : State) (x : Engine) : (s.setEngine x).sources = s.sources := rfl
@[simp] theorem State.setEngine_engine (s : State) (x : Engine) : (s.setEngine x).engine = x := rfl
@[simp] theorem State.setEngine_geo (s : State) (x : Engine) : (s.setEngine x).geo = s.geo := rfl
@[simp] theorem State.setEngine_profiles (s : State) (x : Engine) : (s.setEngine x).profiles = s.profiles := rfl
@[simp] theorem State.setEngine_scenes (s : State) (x : Engine) : (s.setEngine x).scenes = s.scenes := rfl
@[simp] theorem State.setEngine_recallNow (s : State) (x : Engine) : (s.setEngine x).recallNow = s.recallNow := rfl
@[simp] theorem State.setEngine_clock (s : State) (x : Engine) : (s.setEngine x).clock = s.clock := rfl
@[simp] theorem State.setEngine_uptime (s : State) (x : Engine) : (s.setEngine x).uptime = s.uptime := rfl
@[simp] theorem State.setEngine_schedule (s : State) (x : Engine) : (s.setEngine x).schedule = s.schedule := rfl
@[simp] theorem State.setEngine_lockouts (s : State) (x : Engine) : (s.setEngine x).lockouts = s.lockouts := rfl
@[simp] theorem State.setEngine_saveOwed (s : State) (x : Engine) : (s.setEngine x).saveOwed = s.saveOwed := rfl
@[simp] theorem State.setEngine_console (s : State) (x : Engine) : (s.setEngine x).console = s.console := rfl
@[simp] theorem State.setEngine_store (s : State) (x : Engine) : (s.setEngine x).store = s.store := rfl
@[simp] theorem State.setEngine_memory (s : State) (x : Engine) : (s.setEngine x).memory = s.memory := rfl
@[simp] theorem State.setEngine_raised (s : State) (x : Engine) : (s.setEngine x).raised = s.raised := rfl
@[simp] theorem State.setEngine_pending (s : State) (x : Engine) : (s.setEngine x).pending = s.pending := rfl

@[simp] theorem State.setGeo_ports (s : State) (x : Geometry) : (s.setGeo x).ports = s.ports := rfl
@[simp] theorem State.setGeo_authority (s : State) (x : Geometry) : (s.setGeo x).authority = s.authority := rfl
@[simp] theorem State.setGeo_resetWait (s : State) (x : Geometry) : (s.setGeo x).resetWait = s.resetWait := rfl
@[simp] theorem State.setGeo_floor (s : State) (x : Geometry) : (s.setGeo x).floor = s.floor := rfl
@[simp] theorem State.setGeo_lamp (s : State) (x : Geometry) : (s.setGeo x).lamp = s.lamp := rfl
@[simp] theorem State.setGeo_lines (s : State) (x : Geometry) : (s.setGeo x).lines = s.lines := rfl
@[simp] theorem State.setGeo_wear (s : State) (x : Geometry) : (s.setGeo x).wear = s.wear := rfl
@[simp] theorem State.setGeo_sources (s : State) (x : Geometry) : (s.setGeo x).sources = s.sources := rfl
@[simp] theorem State.setGeo_engine (s : State) (x : Geometry) : (s.setGeo x).engine = s.engine := rfl
@[simp] theorem State.setGeo_geo (s : State) (x : Geometry) : (s.setGeo x).geo = x := rfl
@[simp] theorem State.setGeo_profiles (s : State) (x : Geometry) : (s.setGeo x).profiles = s.profiles := rfl
@[simp] theorem State.setGeo_scenes (s : State) (x : Geometry) : (s.setGeo x).scenes = s.scenes := rfl
@[simp] theorem State.setGeo_recallNow (s : State) (x : Geometry) : (s.setGeo x).recallNow = s.recallNow := rfl
@[simp] theorem State.setGeo_clock (s : State) (x : Geometry) : (s.setGeo x).clock = s.clock := rfl
@[simp] theorem State.setGeo_uptime (s : State) (x : Geometry) : (s.setGeo x).uptime = s.uptime := rfl
@[simp] theorem State.setGeo_schedule (s : State) (x : Geometry) : (s.setGeo x).schedule = s.schedule := rfl
@[simp] theorem State.setGeo_lockouts (s : State) (x : Geometry) : (s.setGeo x).lockouts = s.lockouts := rfl
@[simp] theorem State.setGeo_saveOwed (s : State) (x : Geometry) : (s.setGeo x).saveOwed = s.saveOwed := rfl
@[simp] theorem State.setGeo_console (s : State) (x : Geometry) : (s.setGeo x).console = s.console := rfl
@[simp] theorem State.setGeo_store (s : State) (x : Geometry) : (s.setGeo x).store = s.store := rfl
@[simp] theorem State.setGeo_memory (s : State) (x : Geometry) : (s.setGeo x).memory = s.memory := rfl
@[simp] theorem State.setGeo_raised (s : State) (x : Geometry) : (s.setGeo x).raised = s.raised := rfl
@[simp] theorem State.setGeo_pending (s : State) (x : Geometry) : (s.setGeo x).pending = s.pending := rfl

@[simp] theorem State.setProfiles_ports (s : State) (x : Profiles) : (s.setProfiles x).ports = s.ports := rfl
@[simp] theorem State.setProfiles_authority (s : State) (x : Profiles) : (s.setProfiles x).authority = s.authority := rfl
@[simp] theorem State.setProfiles_resetWait (s : State) (x : Profiles) : (s.setProfiles x).resetWait = s.resetWait := rfl
@[simp] theorem State.setProfiles_floor (s : State) (x : Profiles) : (s.setProfiles x).floor = s.floor := rfl
@[simp] theorem State.setProfiles_lamp (s : State) (x : Profiles) : (s.setProfiles x).lamp = s.lamp := rfl
@[simp] theorem State.setProfiles_lines (s : State) (x : Profiles) : (s.setProfiles x).lines = s.lines := rfl
@[simp] theorem State.setProfiles_wear (s : State) (x : Profiles) : (s.setProfiles x).wear = s.wear := rfl
@[simp] theorem State.setProfiles_sources (s : State) (x : Profiles) : (s.setProfiles x).sources = s.sources := rfl
@[simp] theorem State.setProfiles_engine (s : State) (x : Profiles) : (s.setProfiles x).engine = s.engine := rfl
@[simp] theorem State.setProfiles_geo (s : State) (x : Profiles) : (s.setProfiles x).geo = s.geo := rfl
@[simp] theorem State.setProfiles_profiles (s : State) (x : Profiles) : (s.setProfiles x).profiles = x := rfl
@[simp] theorem State.setProfiles_scenes (s : State) (x : Profiles) : (s.setProfiles x).scenes = s.scenes := rfl
@[simp] theorem State.setProfiles_recallNow (s : State) (x : Profiles) : (s.setProfiles x).recallNow = s.recallNow := rfl
@[simp] theorem State.setProfiles_clock (s : State) (x : Profiles) : (s.setProfiles x).clock = s.clock := rfl
@[simp] theorem State.setProfiles_uptime (s : State) (x : Profiles) : (s.setProfiles x).uptime = s.uptime := rfl
@[simp] theorem State.setProfiles_schedule (s : State) (x : Profiles) : (s.setProfiles x).schedule = s.schedule := rfl
@[simp] theorem State.setProfiles_lockouts (s : State) (x : Profiles) : (s.setProfiles x).lockouts = s.lockouts := rfl
@[simp] theorem State.setProfiles_saveOwed (s : State) (x : Profiles) : (s.setProfiles x).saveOwed = s.saveOwed := rfl
@[simp] theorem State.setProfiles_console (s : State) (x : Profiles) : (s.setProfiles x).console = s.console := rfl
@[simp] theorem State.setProfiles_store (s : State) (x : Profiles) : (s.setProfiles x).store = s.store := rfl
@[simp] theorem State.setProfiles_memory (s : State) (x : Profiles) : (s.setProfiles x).memory = s.memory := rfl
@[simp] theorem State.setProfiles_raised (s : State) (x : Profiles) : (s.setProfiles x).raised = s.raised := rfl
@[simp] theorem State.setProfiles_pending (s : State) (x : Profiles) : (s.setProfiles x).pending = s.pending := rfl

@[simp] theorem State.setScenes_ports (s : State) (x : Vector Scene 8) : (s.setScenes x).ports = s.ports := rfl
@[simp] theorem State.setScenes_authority (s : State) (x : Vector Scene 8) : (s.setScenes x).authority = s.authority := rfl
@[simp] theorem State.setScenes_resetWait (s : State) (x : Vector Scene 8) : (s.setScenes x).resetWait = s.resetWait := rfl
@[simp] theorem State.setScenes_floor (s : State) (x : Vector Scene 8) : (s.setScenes x).floor = s.floor := rfl
@[simp] theorem State.setScenes_lamp (s : State) (x : Vector Scene 8) : (s.setScenes x).lamp = s.lamp := rfl
@[simp] theorem State.setScenes_lines (s : State) (x : Vector Scene 8) : (s.setScenes x).lines = s.lines := rfl
@[simp] theorem State.setScenes_wear (s : State) (x : Vector Scene 8) : (s.setScenes x).wear = s.wear := rfl
@[simp] theorem State.setScenes_sources (s : State) (x : Vector Scene 8) : (s.setScenes x).sources = s.sources := rfl
@[simp] theorem State.setScenes_engine (s : State) (x : Vector Scene 8) : (s.setScenes x).engine = s.engine := rfl
@[simp] theorem State.setScenes_geo (s : State) (x : Vector Scene 8) : (s.setScenes x).geo = s.geo := rfl
@[simp] theorem State.setScenes_profiles (s : State) (x : Vector Scene 8) : (s.setScenes x).profiles = s.profiles := rfl
@[simp] theorem State.setScenes_scenes (s : State) (x : Vector Scene 8) : (s.setScenes x).scenes = x := rfl
@[simp] theorem State.setScenes_recallNow (s : State) (x : Vector Scene 8) : (s.setScenes x).recallNow = s.recallNow := rfl
@[simp] theorem State.setScenes_clock (s : State) (x : Vector Scene 8) : (s.setScenes x).clock = s.clock := rfl
@[simp] theorem State.setScenes_uptime (s : State) (x : Vector Scene 8) : (s.setScenes x).uptime = s.uptime := rfl
@[simp] theorem State.setScenes_schedule (s : State) (x : Vector Scene 8) : (s.setScenes x).schedule = s.schedule := rfl
@[simp] theorem State.setScenes_lockouts (s : State) (x : Vector Scene 8) : (s.setScenes x).lockouts = s.lockouts := rfl
@[simp] theorem State.setScenes_saveOwed (s : State) (x : Vector Scene 8) : (s.setScenes x).saveOwed = s.saveOwed := rfl
@[simp] theorem State.setScenes_console (s : State) (x : Vector Scene 8) : (s.setScenes x).console = s.console := rfl
@[simp] theorem State.setScenes_store (s : State) (x : Vector Scene 8) : (s.setScenes x).store = s.store := rfl
@[simp] theorem State.setScenes_memory (s : State) (x : Vector Scene 8) : (s.setScenes x).memory = s.memory := rfl
@[simp] theorem State.setScenes_raised (s : State) (x : Vector Scene 8) : (s.setScenes x).raised = s.raised := rfl
@[simp] theorem State.setScenes_pending (s : State) (x : Vector Scene 8) : (s.setScenes x).pending = s.pending := rfl

@[simp] theorem State.setRecallNow_ports (s : State) (x : Option Recall) : (s.setRecallNow x).ports = s.ports := rfl
@[simp] theorem State.setRecallNow_authority (s : State) (x : Option Recall) : (s.setRecallNow x).authority = s.authority := rfl
@[simp] theorem State.setRecallNow_resetWait (s : State) (x : Option Recall) : (s.setRecallNow x).resetWait = s.resetWait := rfl
@[simp] theorem State.setRecallNow_floor (s : State) (x : Option Recall) : (s.setRecallNow x).floor = s.floor := rfl
@[simp] theorem State.setRecallNow_lamp (s : State) (x : Option Recall) : (s.setRecallNow x).lamp = s.lamp := rfl
@[simp] theorem State.setRecallNow_lines (s : State) (x : Option Recall) : (s.setRecallNow x).lines = s.lines := rfl
@[simp] theorem State.setRecallNow_wear (s : State) (x : Option Recall) : (s.setRecallNow x).wear = s.wear := rfl
@[simp] theorem State.setRecallNow_sources (s : State) (x : Option Recall) : (s.setRecallNow x).sources = s.sources := rfl
@[simp] theorem State.setRecallNow_engine (s : State) (x : Option Recall) : (s.setRecallNow x).engine = s.engine := rfl
@[simp] theorem State.setRecallNow_geo (s : State) (x : Option Recall) : (s.setRecallNow x).geo = s.geo := rfl
@[simp] theorem State.setRecallNow_profiles (s : State) (x : Option Recall) : (s.setRecallNow x).profiles = s.profiles := rfl
@[simp] theorem State.setRecallNow_scenes (s : State) (x : Option Recall) : (s.setRecallNow x).scenes = s.scenes := rfl
@[simp] theorem State.setRecallNow_recallNow (s : State) (x : Option Recall) : (s.setRecallNow x).recallNow = x := rfl
@[simp] theorem State.setRecallNow_clock (s : State) (x : Option Recall) : (s.setRecallNow x).clock = s.clock := rfl
@[simp] theorem State.setRecallNow_uptime (s : State) (x : Option Recall) : (s.setRecallNow x).uptime = s.uptime := rfl
@[simp] theorem State.setRecallNow_schedule (s : State) (x : Option Recall) : (s.setRecallNow x).schedule = s.schedule := rfl
@[simp] theorem State.setRecallNow_lockouts (s : State) (x : Option Recall) : (s.setRecallNow x).lockouts = s.lockouts := rfl
@[simp] theorem State.setRecallNow_saveOwed (s : State) (x : Option Recall) : (s.setRecallNow x).saveOwed = s.saveOwed := rfl
@[simp] theorem State.setRecallNow_console (s : State) (x : Option Recall) : (s.setRecallNow x).console = s.console := rfl
@[simp] theorem State.setRecallNow_store (s : State) (x : Option Recall) : (s.setRecallNow x).store = s.store := rfl
@[simp] theorem State.setRecallNow_memory (s : State) (x : Option Recall) : (s.setRecallNow x).memory = s.memory := rfl
@[simp] theorem State.setRecallNow_raised (s : State) (x : Option Recall) : (s.setRecallNow x).raised = s.raised := rfl
@[simp] theorem State.setRecallNow_pending (s : State) (x : Option Recall) : (s.setRecallNow x).pending = s.pending := rfl

@[simp] theorem State.setClock_ports (s : State) (x : Clock) : (s.setClock x).ports = s.ports := rfl
@[simp] theorem State.setClock_authority (s : State) (x : Clock) : (s.setClock x).authority = s.authority := rfl
@[simp] theorem State.setClock_resetWait (s : State) (x : Clock) : (s.setClock x).resetWait = s.resetWait := rfl
@[simp] theorem State.setClock_floor (s : State) (x : Clock) : (s.setClock x).floor = s.floor := rfl
@[simp] theorem State.setClock_lamp (s : State) (x : Clock) : (s.setClock x).lamp = s.lamp := rfl
@[simp] theorem State.setClock_lines (s : State) (x : Clock) : (s.setClock x).lines = s.lines := rfl
@[simp] theorem State.setClock_wear (s : State) (x : Clock) : (s.setClock x).wear = s.wear := rfl
@[simp] theorem State.setClock_sources (s : State) (x : Clock) : (s.setClock x).sources = s.sources := rfl
@[simp] theorem State.setClock_engine (s : State) (x : Clock) : (s.setClock x).engine = s.engine := rfl
@[simp] theorem State.setClock_geo (s : State) (x : Clock) : (s.setClock x).geo = s.geo := rfl
@[simp] theorem State.setClock_profiles (s : State) (x : Clock) : (s.setClock x).profiles = s.profiles := rfl
@[simp] theorem State.setClock_scenes (s : State) (x : Clock) : (s.setClock x).scenes = s.scenes := rfl
@[simp] theorem State.setClock_recallNow (s : State) (x : Clock) : (s.setClock x).recallNow = s.recallNow := rfl
@[simp] theorem State.setClock_clock (s : State) (x : Clock) : (s.setClock x).clock = x := rfl
@[simp] theorem State.setClock_uptime (s : State) (x : Clock) : (s.setClock x).uptime = s.uptime := rfl
@[simp] theorem State.setClock_schedule (s : State) (x : Clock) : (s.setClock x).schedule = s.schedule := rfl
@[simp] theorem State.setClock_lockouts (s : State) (x : Clock) : (s.setClock x).lockouts = s.lockouts := rfl
@[simp] theorem State.setClock_saveOwed (s : State) (x : Clock) : (s.setClock x).saveOwed = s.saveOwed := rfl
@[simp] theorem State.setClock_console (s : State) (x : Clock) : (s.setClock x).console = s.console := rfl
@[simp] theorem State.setClock_store (s : State) (x : Clock) : (s.setClock x).store = s.store := rfl
@[simp] theorem State.setClock_memory (s : State) (x : Clock) : (s.setClock x).memory = s.memory := rfl
@[simp] theorem State.setClock_raised (s : State) (x : Clock) : (s.setClock x).raised = s.raised := rfl
@[simp] theorem State.setClock_pending (s : State) (x : Clock) : (s.setClock x).pending = s.pending := rfl

@[simp] theorem State.setUptime_ports (s : State) (x : Nat) : (s.setUptime x).ports = s.ports := rfl
@[simp] theorem State.setUptime_authority (s : State) (x : Nat) : (s.setUptime x).authority = s.authority := rfl
@[simp] theorem State.setUptime_resetWait (s : State) (x : Nat) : (s.setUptime x).resetWait = s.resetWait := rfl
@[simp] theorem State.setUptime_floor (s : State) (x : Nat) : (s.setUptime x).floor = s.floor := rfl
@[simp] theorem State.setUptime_lamp (s : State) (x : Nat) : (s.setUptime x).lamp = s.lamp := rfl
@[simp] theorem State.setUptime_lines (s : State) (x : Nat) : (s.setUptime x).lines = s.lines := rfl
@[simp] theorem State.setUptime_wear (s : State) (x : Nat) : (s.setUptime x).wear = s.wear := rfl
@[simp] theorem State.setUptime_sources (s : State) (x : Nat) : (s.setUptime x).sources = s.sources := rfl
@[simp] theorem State.setUptime_engine (s : State) (x : Nat) : (s.setUptime x).engine = s.engine := rfl
@[simp] theorem State.setUptime_geo (s : State) (x : Nat) : (s.setUptime x).geo = s.geo := rfl
@[simp] theorem State.setUptime_profiles (s : State) (x : Nat) : (s.setUptime x).profiles = s.profiles := rfl
@[simp] theorem State.setUptime_scenes (s : State) (x : Nat) : (s.setUptime x).scenes = s.scenes := rfl
@[simp] theorem State.setUptime_recallNow (s : State) (x : Nat) : (s.setUptime x).recallNow = s.recallNow := rfl
@[simp] theorem State.setUptime_clock (s : State) (x : Nat) : (s.setUptime x).clock = s.clock := rfl
@[simp] theorem State.setUptime_uptime (s : State) (x : Nat) : (s.setUptime x).uptime = x := rfl
@[simp] theorem State.setUptime_schedule (s : State) (x : Nat) : (s.setUptime x).schedule = s.schedule := rfl
@[simp] theorem State.setUptime_lockouts (s : State) (x : Nat) : (s.setUptime x).lockouts = s.lockouts := rfl
@[simp] theorem State.setUptime_saveOwed (s : State) (x : Nat) : (s.setUptime x).saveOwed = s.saveOwed := rfl
@[simp] theorem State.setUptime_console (s : State) (x : Nat) : (s.setUptime x).console = s.console := rfl
@[simp] theorem State.setUptime_store (s : State) (x : Nat) : (s.setUptime x).store = s.store := rfl
@[simp] theorem State.setUptime_memory (s : State) (x : Nat) : (s.setUptime x).memory = s.memory := rfl
@[simp] theorem State.setUptime_raised (s : State) (x : Nat) : (s.setUptime x).raised = s.raised := rfl
@[simp] theorem State.setUptime_pending (s : State) (x : Nat) : (s.setUptime x).pending = s.pending := rfl

@[simp] theorem State.setSchedule_ports (s : State) (x : Schedule) : (s.setSchedule x).ports = s.ports := rfl
@[simp] theorem State.setSchedule_authority (s : State) (x : Schedule) : (s.setSchedule x).authority = s.authority := rfl
@[simp] theorem State.setSchedule_resetWait (s : State) (x : Schedule) : (s.setSchedule x).resetWait = s.resetWait := rfl
@[simp] theorem State.setSchedule_floor (s : State) (x : Schedule) : (s.setSchedule x).floor = s.floor := rfl
@[simp] theorem State.setSchedule_lamp (s : State) (x : Schedule) : (s.setSchedule x).lamp = s.lamp := rfl
@[simp] theorem State.setSchedule_lines (s : State) (x : Schedule) : (s.setSchedule x).lines = s.lines := rfl
@[simp] theorem State.setSchedule_wear (s : State) (x : Schedule) : (s.setSchedule x).wear = s.wear := rfl
@[simp] theorem State.setSchedule_sources (s : State) (x : Schedule) : (s.setSchedule x).sources = s.sources := rfl
@[simp] theorem State.setSchedule_engine (s : State) (x : Schedule) : (s.setSchedule x).engine = s.engine := rfl
@[simp] theorem State.setSchedule_geo (s : State) (x : Schedule) : (s.setSchedule x).geo = s.geo := rfl
@[simp] theorem State.setSchedule_profiles (s : State) (x : Schedule) : (s.setSchedule x).profiles = s.profiles := rfl
@[simp] theorem State.setSchedule_scenes (s : State) (x : Schedule) : (s.setSchedule x).scenes = s.scenes := rfl
@[simp] theorem State.setSchedule_recallNow (s : State) (x : Schedule) : (s.setSchedule x).recallNow = s.recallNow := rfl
@[simp] theorem State.setSchedule_clock (s : State) (x : Schedule) : (s.setSchedule x).clock = s.clock := rfl
@[simp] theorem State.setSchedule_uptime (s : State) (x : Schedule) : (s.setSchedule x).uptime = s.uptime := rfl
@[simp] theorem State.setSchedule_schedule (s : State) (x : Schedule) : (s.setSchedule x).schedule = x := rfl
@[simp] theorem State.setSchedule_lockouts (s : State) (x : Schedule) : (s.setSchedule x).lockouts = s.lockouts := rfl
@[simp] theorem State.setSchedule_saveOwed (s : State) (x : Schedule) : (s.setSchedule x).saveOwed = s.saveOwed := rfl
@[simp] theorem State.setSchedule_console (s : State) (x : Schedule) : (s.setSchedule x).console = s.console := rfl
@[simp] theorem State.setSchedule_store (s : State) (x : Schedule) : (s.setSchedule x).store = s.store := rfl
@[simp] theorem State.setSchedule_memory (s : State) (x : Schedule) : (s.setSchedule x).memory = s.memory := rfl
@[simp] theorem State.setSchedule_raised (s : State) (x : Schedule) : (s.setSchedule x).raised = s.raised := rfl
@[simp] theorem State.setSchedule_pending (s : State) (x : Schedule) : (s.setSchedule x).pending = s.pending := rfl

@[simp] theorem State.setLockouts_ports (s : State) (x : List Lockout) : (s.setLockouts x).ports = s.ports := rfl
@[simp] theorem State.setLockouts_authority (s : State) (x : List Lockout) : (s.setLockouts x).authority = s.authority := rfl
@[simp] theorem State.setLockouts_resetWait (s : State) (x : List Lockout) : (s.setLockouts x).resetWait = s.resetWait := rfl
@[simp] theorem State.setLockouts_floor (s : State) (x : List Lockout) : (s.setLockouts x).floor = s.floor := rfl
@[simp] theorem State.setLockouts_lamp (s : State) (x : List Lockout) : (s.setLockouts x).lamp = s.lamp := rfl
@[simp] theorem State.setLockouts_lines (s : State) (x : List Lockout) : (s.setLockouts x).lines = s.lines := rfl
@[simp] theorem State.setLockouts_wear (s : State) (x : List Lockout) : (s.setLockouts x).wear = s.wear := rfl
@[simp] theorem State.setLockouts_sources (s : State) (x : List Lockout) : (s.setLockouts x).sources = s.sources := rfl
@[simp] theorem State.setLockouts_engine (s : State) (x : List Lockout) : (s.setLockouts x).engine = s.engine := rfl
@[simp] theorem State.setLockouts_geo (s : State) (x : List Lockout) : (s.setLockouts x).geo = s.geo := rfl
@[simp] theorem State.setLockouts_profiles (s : State) (x : List Lockout) : (s.setLockouts x).profiles = s.profiles := rfl
@[simp] theorem State.setLockouts_scenes (s : State) (x : List Lockout) : (s.setLockouts x).scenes = s.scenes := rfl
@[simp] theorem State.setLockouts_recallNow (s : State) (x : List Lockout) : (s.setLockouts x).recallNow = s.recallNow := rfl
@[simp] theorem State.setLockouts_clock (s : State) (x : List Lockout) : (s.setLockouts x).clock = s.clock := rfl
@[simp] theorem State.setLockouts_uptime (s : State) (x : List Lockout) : (s.setLockouts x).uptime = s.uptime := rfl
@[simp] theorem State.setLockouts_schedule (s : State) (x : List Lockout) : (s.setLockouts x).schedule = s.schedule := rfl
@[simp] theorem State.setLockouts_lockouts (s : State) (x : List Lockout) : (s.setLockouts x).lockouts = x := rfl
@[simp] theorem State.setLockouts_saveOwed (s : State) (x : List Lockout) : (s.setLockouts x).saveOwed = s.saveOwed := rfl
@[simp] theorem State.setLockouts_console (s : State) (x : List Lockout) : (s.setLockouts x).console = s.console := rfl
@[simp] theorem State.setLockouts_store (s : State) (x : List Lockout) : (s.setLockouts x).store = s.store := rfl
@[simp] theorem State.setLockouts_memory (s : State) (x : List Lockout) : (s.setLockouts x).memory = s.memory := rfl
@[simp] theorem State.setLockouts_raised (s : State) (x : List Lockout) : (s.setLockouts x).raised = s.raised := rfl
@[simp] theorem State.setLockouts_pending (s : State) (x : List Lockout) : (s.setLockouts x).pending = s.pending := rfl

@[simp] theorem State.setSaveOwed_ports (s : State) (x : Bool) : (s.setSaveOwed x).ports = s.ports := rfl
@[simp] theorem State.setSaveOwed_authority (s : State) (x : Bool) : (s.setSaveOwed x).authority = s.authority := rfl
@[simp] theorem State.setSaveOwed_resetWait (s : State) (x : Bool) : (s.setSaveOwed x).resetWait = s.resetWait := rfl
@[simp] theorem State.setSaveOwed_floor (s : State) (x : Bool) : (s.setSaveOwed x).floor = s.floor := rfl
@[simp] theorem State.setSaveOwed_lamp (s : State) (x : Bool) : (s.setSaveOwed x).lamp = s.lamp := rfl
@[simp] theorem State.setSaveOwed_lines (s : State) (x : Bool) : (s.setSaveOwed x).lines = s.lines := rfl
@[simp] theorem State.setSaveOwed_wear (s : State) (x : Bool) : (s.setSaveOwed x).wear = s.wear := rfl
@[simp] theorem State.setSaveOwed_sources (s : State) (x : Bool) : (s.setSaveOwed x).sources = s.sources := rfl
@[simp] theorem State.setSaveOwed_engine (s : State) (x : Bool) : (s.setSaveOwed x).engine = s.engine := rfl
@[simp] theorem State.setSaveOwed_geo (s : State) (x : Bool) : (s.setSaveOwed x).geo = s.geo := rfl
@[simp] theorem State.setSaveOwed_profiles (s : State) (x : Bool) : (s.setSaveOwed x).profiles = s.profiles := rfl
@[simp] theorem State.setSaveOwed_scenes (s : State) (x : Bool) : (s.setSaveOwed x).scenes = s.scenes := rfl
@[simp] theorem State.setSaveOwed_recallNow (s : State) (x : Bool) : (s.setSaveOwed x).recallNow = s.recallNow := rfl
@[simp] theorem State.setSaveOwed_clock (s : State) (x : Bool) : (s.setSaveOwed x).clock = s.clock := rfl
@[simp] theorem State.setSaveOwed_uptime (s : State) (x : Bool) : (s.setSaveOwed x).uptime = s.uptime := rfl
@[simp] theorem State.setSaveOwed_schedule (s : State) (x : Bool) : (s.setSaveOwed x).schedule = s.schedule := rfl
@[simp] theorem State.setSaveOwed_lockouts (s : State) (x : Bool) : (s.setSaveOwed x).lockouts = s.lockouts := rfl
@[simp] theorem State.setSaveOwed_saveOwed (s : State) (x : Bool) : (s.setSaveOwed x).saveOwed = x := rfl
@[simp] theorem State.setSaveOwed_console (s : State) (x : Bool) : (s.setSaveOwed x).console = s.console := rfl
@[simp] theorem State.setSaveOwed_store (s : State) (x : Bool) : (s.setSaveOwed x).store = s.store := rfl
@[simp] theorem State.setSaveOwed_memory (s : State) (x : Bool) : (s.setSaveOwed x).memory = s.memory := rfl
@[simp] theorem State.setSaveOwed_raised (s : State) (x : Bool) : (s.setSaveOwed x).raised = s.raised := rfl
@[simp] theorem State.setSaveOwed_pending (s : State) (x : Bool) : (s.setSaveOwed x).pending = s.pending := rfl

@[simp] theorem State.setConsole_ports (s : State) (x : Console) : (s.setConsole x).ports = s.ports := rfl
@[simp] theorem State.setConsole_authority (s : State) (x : Console) : (s.setConsole x).authority = s.authority := rfl
@[simp] theorem State.setConsole_resetWait (s : State) (x : Console) : (s.setConsole x).resetWait = s.resetWait := rfl
@[simp] theorem State.setConsole_floor (s : State) (x : Console) : (s.setConsole x).floor = s.floor := rfl
@[simp] theorem State.setConsole_lamp (s : State) (x : Console) : (s.setConsole x).lamp = s.lamp := rfl
@[simp] theorem State.setConsole_lines (s : State) (x : Console) : (s.setConsole x).lines = s.lines := rfl
@[simp] theorem State.setConsole_wear (s : State) (x : Console) : (s.setConsole x).wear = s.wear := rfl
@[simp] theorem State.setConsole_sources (s : State) (x : Console) : (s.setConsole x).sources = s.sources := rfl
@[simp] theorem State.setConsole_engine (s : State) (x : Console) : (s.setConsole x).engine = s.engine := rfl
@[simp] theorem State.setConsole_geo (s : State) (x : Console) : (s.setConsole x).geo = s.geo := rfl
@[simp] theorem State.setConsole_profiles (s : State) (x : Console) : (s.setConsole x).profiles = s.profiles := rfl
@[simp] theorem State.setConsole_scenes (s : State) (x : Console) : (s.setConsole x).scenes = s.scenes := rfl
@[simp] theorem State.setConsole_recallNow (s : State) (x : Console) : (s.setConsole x).recallNow = s.recallNow := rfl
@[simp] theorem State.setConsole_clock (s : State) (x : Console) : (s.setConsole x).clock = s.clock := rfl
@[simp] theorem State.setConsole_uptime (s : State) (x : Console) : (s.setConsole x).uptime = s.uptime := rfl
@[simp] theorem State.setConsole_schedule (s : State) (x : Console) : (s.setConsole x).schedule = s.schedule := rfl
@[simp] theorem State.setConsole_lockouts (s : State) (x : Console) : (s.setConsole x).lockouts = s.lockouts := rfl
@[simp] theorem State.setConsole_saveOwed (s : State) (x : Console) : (s.setConsole x).saveOwed = s.saveOwed := rfl
@[simp] theorem State.setConsole_console (s : State) (x : Console) : (s.setConsole x).console = x := rfl
@[simp] theorem State.setConsole_store (s : State) (x : Console) : (s.setConsole x).store = s.store := rfl
@[simp] theorem State.setConsole_memory (s : State) (x : Console) : (s.setConsole x).memory = s.memory := rfl
@[simp] theorem State.setConsole_raised (s : State) (x : Console) : (s.setConsole x).raised = s.raised := rfl
@[simp] theorem State.setConsole_pending (s : State) (x : Console) : (s.setConsole x).pending = s.pending := rfl

@[simp] theorem State.setStore_ports (s : State) (x : Store) : (s.setStore x).ports = s.ports := rfl
@[simp] theorem State.setStore_authority (s : State) (x : Store) : (s.setStore x).authority = s.authority := rfl
@[simp] theorem State.setStore_resetWait (s : State) (x : Store) : (s.setStore x).resetWait = s.resetWait := rfl
@[simp] theorem State.setStore_floor (s : State) (x : Store) : (s.setStore x).floor = s.floor := rfl
@[simp] theorem State.setStore_lamp (s : State) (x : Store) : (s.setStore x).lamp = s.lamp := rfl
@[simp] theorem State.setStore_lines (s : State) (x : Store) : (s.setStore x).lines = s.lines := rfl
@[simp] theorem State.setStore_wear (s : State) (x : Store) : (s.setStore x).wear = s.wear := rfl
@[simp] theorem State.setStore_sources (s : State) (x : Store) : (s.setStore x).sources = s.sources := rfl
@[simp] theorem State.setStore_engine (s : State) (x : Store) : (s.setStore x).engine = s.engine := rfl
@[simp] theorem State.setStore_geo (s : State) (x : Store) : (s.setStore x).geo = s.geo := rfl
@[simp] theorem State.setStore_profiles (s : State) (x : Store) : (s.setStore x).profiles = s.profiles := rfl
@[simp] theorem State.setStore_scenes (s : State) (x : Store) : (s.setStore x).scenes = s.scenes := rfl
@[simp] theorem State.setStore_recallNow (s : State) (x : Store) : (s.setStore x).recallNow = s.recallNow := rfl
@[simp] theorem State.setStore_clock (s : State) (x : Store) : (s.setStore x).clock = s.clock := rfl
@[simp] theorem State.setStore_uptime (s : State) (x : Store) : (s.setStore x).uptime = s.uptime := rfl
@[simp] theorem State.setStore_schedule (s : State) (x : Store) : (s.setStore x).schedule = s.schedule := rfl
@[simp] theorem State.setStore_lockouts (s : State) (x : Store) : (s.setStore x).lockouts = s.lockouts := rfl
@[simp] theorem State.setStore_saveOwed (s : State) (x : Store) : (s.setStore x).saveOwed = s.saveOwed := rfl
@[simp] theorem State.setStore_console (s : State) (x : Store) : (s.setStore x).console = s.console := rfl
@[simp] theorem State.setStore_store (s : State) (x : Store) : (s.setStore x).store = x := rfl
@[simp] theorem State.setStore_memory (s : State) (x : Store) : (s.setStore x).memory = s.memory := rfl
@[simp] theorem State.setStore_raised (s : State) (x : Store) : (s.setStore x).raised = s.raised := rfl
@[simp] theorem State.setStore_pending (s : State) (x : Store) : (s.setStore x).pending = s.pending := rfl

@[simp] theorem State.setMemory_ports (s : State) (x : Memory) : (s.setMemory x).ports = s.ports := rfl
@[simp] theorem State.setMemory_authority (s : State) (x : Memory) : (s.setMemory x).authority = s.authority := rfl
@[simp] theorem State.setMemory_resetWait (s : State) (x : Memory) : (s.setMemory x).resetWait = s.resetWait := rfl
@[simp] theorem State.setMemory_floor (s : State) (x : Memory) : (s.setMemory x).floor = s.floor := rfl
@[simp] theorem State.setMemory_lamp (s : State) (x : Memory) : (s.setMemory x).lamp = s.lamp := rfl
@[simp] theorem State.setMemory_lines (s : State) (x : Memory) : (s.setMemory x).lines = s.lines := rfl
@[simp] theorem State.setMemory_wear (s : State) (x : Memory) : (s.setMemory x).wear = s.wear := rfl
@[simp] theorem State.setMemory_sources (s : State) (x : Memory) : (s.setMemory x).sources = s.sources := rfl
@[simp] theorem State.setMemory_engine (s : State) (x : Memory) : (s.setMemory x).engine = s.engine := rfl
@[simp] theorem State.setMemory_geo (s : State) (x : Memory) : (s.setMemory x).geo = s.geo := rfl
@[simp] theorem State.setMemory_profiles (s : State) (x : Memory) : (s.setMemory x).profiles = s.profiles := rfl
@[simp] theorem State.setMemory_scenes (s : State) (x : Memory) : (s.setMemory x).scenes = s.scenes := rfl
@[simp] theorem State.setMemory_recallNow (s : State) (x : Memory) : (s.setMemory x).recallNow = s.recallNow := rfl
@[simp] theorem State.setMemory_clock (s : State) (x : Memory) : (s.setMemory x).clock = s.clock := rfl
@[simp] theorem State.setMemory_uptime (s : State) (x : Memory) : (s.setMemory x).uptime = s.uptime := rfl
@[simp] theorem State.setMemory_schedule (s : State) (x : Memory) : (s.setMemory x).schedule = s.schedule := rfl
@[simp] theorem State.setMemory_lockouts (s : State) (x : Memory) : (s.setMemory x).lockouts = s.lockouts := rfl
@[simp] theorem State.setMemory_saveOwed (s : State) (x : Memory) : (s.setMemory x).saveOwed = s.saveOwed := rfl
@[simp] theorem State.setMemory_console (s : State) (x : Memory) : (s.setMemory x).console = s.console := rfl
@[simp] theorem State.setMemory_store (s : State) (x : Memory) : (s.setMemory x).store = s.store := rfl
@[simp] theorem State.setMemory_memory (s : State) (x : Memory) : (s.setMemory x).memory = x := rfl
@[simp] theorem State.setMemory_raised (s : State) (x : Memory) : (s.setMemory x).raised = s.raised := rfl
@[simp] theorem State.setMemory_pending (s : State) (x : Memory) : (s.setMemory x).pending = s.pending := rfl

@[simp] theorem State.setRaised_ports (s : State) (x : List Notice) : (s.setRaised x).ports = s.ports := rfl
@[simp] theorem State.setRaised_authority (s : State) (x : List Notice) : (s.setRaised x).authority = s.authority := rfl
@[simp] theorem State.setRaised_resetWait (s : State) (x : List Notice) : (s.setRaised x).resetWait = s.resetWait := rfl
@[simp] theorem State.setRaised_floor (s : State) (x : List Notice) : (s.setRaised x).floor = s.floor := rfl
@[simp] theorem State.setRaised_lamp (s : State) (x : List Notice) : (s.setRaised x).lamp = s.lamp := rfl
@[simp] theorem State.setRaised_lines (s : State) (x : List Notice) : (s.setRaised x).lines = s.lines := rfl
@[simp] theorem State.setRaised_wear (s : State) (x : List Notice) : (s.setRaised x).wear = s.wear := rfl
@[simp] theorem State.setRaised_sources (s : State) (x : List Notice) : (s.setRaised x).sources = s.sources := rfl
@[simp] theorem State.setRaised_engine (s : State) (x : List Notice) : (s.setRaised x).engine = s.engine := rfl
@[simp] theorem State.setRaised_geo (s : State) (x : List Notice) : (s.setRaised x).geo = s.geo := rfl
@[simp] theorem State.setRaised_profiles (s : State) (x : List Notice) : (s.setRaised x).profiles = s.profiles := rfl
@[simp] theorem State.setRaised_scenes (s : State) (x : List Notice) : (s.setRaised x).scenes = s.scenes := rfl
@[simp] theorem State.setRaised_recallNow (s : State) (x : List Notice) : (s.setRaised x).recallNow = s.recallNow := rfl
@[simp] theorem State.setRaised_clock (s : State) (x : List Notice) : (s.setRaised x).clock = s.clock := rfl
@[simp] theorem State.setRaised_uptime (s : State) (x : List Notice) : (s.setRaised x).uptime = s.uptime := rfl
@[simp] theorem State.setRaised_schedule (s : State) (x : List Notice) : (s.setRaised x).schedule = s.schedule := rfl
@[simp] theorem State.setRaised_lockouts (s : State) (x : List Notice) : (s.setRaised x).lockouts = s.lockouts := rfl
@[simp] theorem State.setRaised_saveOwed (s : State) (x : List Notice) : (s.setRaised x).saveOwed = s.saveOwed := rfl
@[simp] theorem State.setRaised_console (s : State) (x : List Notice) : (s.setRaised x).console = s.console := rfl
@[simp] theorem State.setRaised_store (s : State) (x : List Notice) : (s.setRaised x).store = s.store := rfl
@[simp] theorem State.setRaised_memory (s : State) (x : List Notice) : (s.setRaised x).memory = s.memory := rfl
@[simp] theorem State.setRaised_raised (s : State) (x : List Notice) : (s.setRaised x).raised = x := rfl
@[simp] theorem State.setRaised_pending (s : State) (x : List Notice) : (s.setRaised x).pending = s.pending := rfl

@[simp] theorem State.setPending_ports (s : State) (x : List Instr) : (s.setPending x).ports = s.ports := rfl
@[simp] theorem State.setPending_authority (s : State) (x : List Instr) : (s.setPending x).authority = s.authority := rfl
@[simp] theorem State.setPending_resetWait (s : State) (x : List Instr) : (s.setPending x).resetWait = s.resetWait := rfl
@[simp] theorem State.setPending_floor (s : State) (x : List Instr) : (s.setPending x).floor = s.floor := rfl
@[simp] theorem State.setPending_lamp (s : State) (x : List Instr) : (s.setPending x).lamp = s.lamp := rfl
@[simp] theorem State.setPending_lines (s : State) (x : List Instr) : (s.setPending x).lines = s.lines := rfl
@[simp] theorem State.setPending_wear (s : State) (x : List Instr) : (s.setPending x).wear = s.wear := rfl
@[simp] theorem State.setPending_sources (s : State) (x : List Instr) : (s.setPending x).sources = s.sources := rfl
@[simp] theorem State.setPending_engine (s : State) (x : List Instr) : (s.setPending x).engine = s.engine := rfl
@[simp] theorem State.setPending_geo (s : State) (x : List Instr) : (s.setPending x).geo = s.geo := rfl
@[simp] theorem State.setPending_profiles (s : State) (x : List Instr) : (s.setPending x).profiles = s.profiles := rfl
@[simp] theorem State.setPending_scenes (s : State) (x : List Instr) : (s.setPending x).scenes = s.scenes := rfl
@[simp] theorem State.setPending_recallNow (s : State) (x : List Instr) : (s.setPending x).recallNow = s.recallNow := rfl
@[simp] theorem State.setPending_clock (s : State) (x : List Instr) : (s.setPending x).clock = s.clock := rfl
@[simp] theorem State.setPending_uptime (s : State) (x : List Instr) : (s.setPending x).uptime = s.uptime := rfl
@[simp] theorem State.setPending_schedule (s : State) (x : List Instr) : (s.setPending x).schedule = s.schedule := rfl
@[simp] theorem State.setPending_lockouts (s : State) (x : List Instr) : (s.setPending x).lockouts = s.lockouts := rfl
@[simp] theorem State.setPending_saveOwed (s : State) (x : List Instr) : (s.setPending x).saveOwed = s.saveOwed := rfl
@[simp] theorem State.setPending_console (s : State) (x : List Instr) : (s.setPending x).console = s.console := rfl
@[simp] theorem State.setPending_store (s : State) (x : List Instr) : (s.setPending x).store = s.store := rfl
@[simp] theorem State.setPending_memory (s : State) (x : List Instr) : (s.setPending x).memory = s.memory := rfl
@[simp] theorem State.setPending_raised (s : State) (x : List Instr) : (s.setPending x).raised = s.raised := rfl
@[simp] theorem State.setPending_pending (s : State) (x : List Instr) : (s.setPending x).pending = x := rfl

end Sys2Proof.Machine
end

