-- ==== Sys2Proof/Laws/Ports.lean ====
section
/-! SUPPORT. Port blocks: get and put, taking an entry, responding, and the offer of notices; the end of a quiet action. -/

namespace Sys2Proof.Machine

@[simp] theorem Ports.get_put (ps : Ports) (p : Port) (b : PortBlock) : (ps.put p b).get p = b := by cases p <;> rfl

theorem Ports.get_put_ne (ps : Ports) {p q : Port} (b : PortBlock) (h : q ≠ p) : (ps.put p b).get q = ps.get q := by
  cases p <;> cases q <;> first | rfl | exact absurd rfl h

@[simp] theorem Ports.put_put (ps : Ports) (p : Port) (a b : PortBlock) : (ps.put p a).put p b = ps.put p b := by
  cases p <;> rfl

@[simp] theorem Ports.put_get (ps : Ports) (p : Port) : ps.put p (ps.get p) = ps := by cases p <;> rfl

@[simp] theorem State.setPort_port (s : State) (p : Port) (b : PortBlock) : (s.setPort p b).port p = b := by
  simp [State.setPort, State.port]

@[simp] theorem State.setPort_setPort (s : State) (p : Port) (a b : PortBlock) : (s.setPort p a).setPort p b = s.setPort p b := by
  simp [State.setPort, State.setPorts]

/-- Everything a replaced port leaves. -/
theorem State.setPort_rest (s : State) (p : Port) (b : PortBlock) :
    s.setPort p b = { s with ports := s.ports.put p b } := rfl

/-- The offer of no notice changes nothing. -/
@[simp] theorem Ports.offerAll_nil (ps : Ports) : ps.offerAll [] = ps := rfl

/-- With nothing raised, the offer of notices changes nothing. -/
theorem State.flush_nil {s : State} (h : s.raised = []) : s.flush = s := by
  cases s; simp_all [State.flush, State.setPorts, State.setRaised]

/-- A port that is offered notices keeps what it had queued, in front (R4, R179). -/
theorem PortBlock.offer_prefix (b : PortBlock) (n : Notice) : b.outq <+: (b.offer n).outq := by
  unfold PortBlock.offer; split <;> simp

/-- What an offer leaves of a port block: the receiver, the input buffer, the mask, OVERRUN and the rate (R179). -/
theorem PortBlock.offer_keeps (b : PortBlock) (n : Notice) :
    (b.offer n).inbox = b.inbox ∧ (b.offer n).rx = b.rx ∧ (b.offer n).mask = b.mask ∧ (b.offer n).overrun = b.overrun
      ∧ (b.offer n).rate = b.rate := by
  unfold PortBlock.offer; split <;> simp

/-- The offer of a list of notices keeps what was queued, in front. -/
theorem PortBlock.offers_prefix (l : List Notice) (b : PortBlock) : b.outq <+: (l.foldl PortBlock.offer b).outq := by
  induction l generalizing b with
  | nil => simp
  | cons n l ih => exact (b.offer_prefix n).trans (ih (b.offer n))

/-- The offer of a list of notices leaves the input buffer. -/
theorem PortBlock.offers_inbox (l : List Notice) (b : PortBlock) : (l.foldl PortBlock.offer b).inbox = b.inbox := by
  induction l generalizing b with
  | nil => rfl
  | cons n l ih => simp [ih, (b.offer_keeps n).1]

/-- A port of a flushed state is the port, offered what was raised (R179). -/
theorem State.flush_port (s : State) (p : Port) : s.flush.port p = s.raised.foldl PortBlock.offer (s.port p) := by
  cases p <;> rfl

/-- Between actions the engine has nothing to settle. -/
theorem State.settle_of {s : State} (hu : ¬ UnmutingOver s) (ho : s.engine.powerUpOwed = false) : s.settle = s := by
  unfold State.settle State.endUnmuting
  rw [if_neg hu]
  simp [State.takePowerUp, ho]

/-- A quiet state is its own end of action. -/
theorem State.finish_of_quiet {s : State} (h : Quiet s) : s.finish = s := by
  unfold State.finish
  rw [State.settle_of h.2.2 h.2.1, State.flush_nil h.1]

end Sys2Proof.Machine
end

