-- ==== Sys2Proof/Laws/Intake.lean ====
section
/-! SUPPORT. A port's command from its row to its answer, once for every command (R3, R10, R18). -/

namespace Sys2Proof.Machine

/-- Each command row is `takeCommand` on its code. -/
theorem exec_rowOf (c : Code) (p : Port) (s : State) : exec (rowOf c p) s = .next (takeCommand c p s) := by
  cases c <;> rfl

/-- Intake of a frame that passes steps 1 to 6, in terms of steps 7 and 8. -/
theorem takeCommand_of_passes {s : State} {p : Port} {c : Code} {tag : Byte} {pl : List Byte} (h : Passes s p c tag pl) :
    takeCommand c p s =
      ((s.popInbox p).intakeFrame p c pl).1.answerPort p tag (codeByte c) ((s.popInbox p).intakeFrame p c pl).2 := by
  obtain ⟨h1, h2, -⟩ := h
  simp [takeCommand, h1, h2]

@[simp] theorem State.popInbox_port (s : State) (p : Port) :
    (s.popInbox p).port p = { s.port p with inbox := (s.port p).inbox.tail } := by simp [State.popInbox]

/-- Steps 1 to 6 do not read the ports, so they pass for the state with the entry taken. -/
theorem checkFrame_of_passes {s : State} {p : Port} {c : Code} {tag : Byte} {pl : List Byte} (h : Passes s p c tag pl) :
    (s.popInbox p).checkFrame (portRequester p) c pl =
      match parseCmd c pl with
      | none => .error .badValue
      | some x =>
        match s.ownerRefusal x.1 with
        | some v => .error v
        | none => .ok x := by
  obtain ⟨-, -, -, -, h4, h5, h6, h7⟩ := h
  have e4 : (s.popInbox p).mayUse (portRequester p) c = s.mayUse (portRequester p) c := by cases p <;> rfl
  have e5 : (s.popInbox p).conditionsHold (portRequester p) c pl = s.conditionsHold (portRequester p) c pl := rfl
  have e6 : (s.popInbox p).lockedOut5 (portRequester p) c = s.lockedOut5 (portRequester p) c := rfl
  have e7 : (s.popInbox p).lockedOut6 (portRequester p) c = s.lockedOut6 (portRequester p) c := rfl
  have e8 : ∀ x, (s.popInbox p).ownerRefusal x = s.ownerRefusal x := by intro x; cases x <;> rfl
  unfold State.checkFrame
  rw [e4, e5, e6, e7, h4, h5, h6, h7]
  cases parseCmd c pl with
  | none => rfl
  | some x => simp only [e8]; rfl

/-- A command that passes steps 1 to 8 is accepted or refused from step 9 on. -/
theorem takeCommand_accept {s : State} {p : Port} {c : Code} {tag : Byte} {pl : List Byte} {cmd : Cmd} {clamped : Bool}
    (h : Passes s p c tag pl) (hp : parseCmd c pl = some (cmd, clamped)) (ho : s.ownerRefusal cmd = none) :
    takeCommand c p s =
      ((s.popInbox p).accept p cmd).1.answerPort p tag (codeByte c) (((s.popInbox p).accept p cmd).2.withClamp clamped) := by
  rw [takeCommand_of_passes h]
  have hw : (s.popInbox p).resetWait = none := h.2.2.1
  have hl := h.2.2.2.1
  unfold State.intakeFrame
  rw [checkFrame_of_passes h]
  simp [hl, hw, hp, ho]

/-- A command refused at steps 7 or 8 changes nothing but its port (R10). -/
theorem takeCommand_refuse {s : State} {p : Port} {c : Code} {tag : Byte} {pl : List Byte} {v : Verdict} (h : Passes s p c tag pl)
    (hp : parseCmd c pl = none ∧ v = .badValue
      ∨ ∃ x, parseCmd c pl = some x ∧ s.ownerRefusal x.1 = some v) :
    takeCommand c p s = (s.popInbox p).answerPort p tag (codeByte c) (refusal v) := by
  rw [takeCommand_of_passes h]
  have hw : (s.popInbox p).resetWait = none := h.2.2.1
  have hl := h.2.2.2.1
  unfold State.intakeFrame
  rw [checkFrame_of_passes h]
  rcases hp with ⟨hn, rfl⟩ | ⟨x, hx, hv⟩
  · simp [hl, hw, hn]
  · simp [hl, hw, hx, hv]

/-- The answer of an action that raised nothing and left the engine settled. -/
theorem answerPort_quiet {s : State} {p : Port} {tag code : Byte} {r : Reply} (h : Quiet s) :
    s.answerPort p tag code r = s.setPort p ((s.port p).respond tag code r) := by
  unfold State.answerPort
  rw [State.settle_of h.2.2 h.2.1]
  exact State.flush_nil (s := s.respond p tag code r) h.1

end Sys2Proof.Machine
end

