-- ==== Sys2Proof/Laws/PerInstr.lean ====
section
/-! SUPPORT. A statement about every row as syntax, one lemma for each constructor: a command row belongs to the port it names, and
is neither a reset nor a report of a line. -/

namespace Sys2Proof.Laws

open Sys2Proof.Machine

/-- The row of a command code from port p is a row of port p, resets nothing by itself and reports no line (R3, R21). -/
def Ported.Statement (i : Instr) : Prop :=
  ∀ c p, rowOf c p = i → portOf i = some p ∧ isReset i = false ∧ movesLines i = false

/-- The same, said of the row itself. -/
theorem Ported.of_rowOf (c : Code) (p : Port) :
    portOf (rowOf c p) = some p ∧ isReset (rowOf c p) = false ∧ movesLines (rowOf c p) = false := by
  cases c <;> exact ⟨rfl, rfl, rfl⟩

/-- Every row meets the statement, whichever it is. -/
theorem Ported.all (i : Instr) : Ported.Statement i := fun c p h => h ▸ Ported.of_rowOf c p

theorem Ported.frameReceive (p : Port) (bytes : List Byte) : Ported.Statement (.frameReceive p bytes) := Ported.all _
theorem Ported.frameGapTimeout (p : Port) (bytes : List Byte) : Ported.Statement (.frameGapTimeout p bytes) := Ported.all _
theorem Ported.badFrameEntry (p : Port) : Ported.Statement (.badFrameEntry p) := Ported.all _
theorem Ported.unknownCommand (p : Port) : Ported.Statement (.unknownCommand p) := Ported.all _
theorem Ported.outboundFrameSent (p : Port) : Ported.Statement (.outboundFrameSent p) := Ported.all _
theorem Ported.portReset (p : Port) : Ported.Statement (.portReset p) := Ported.all _
theorem Ported.powerOnReset (found : PowerOn) : Ported.Statement (.powerOnReset found) := Ported.all _
theorem Ported.resetN : Ported.Statement .resetN := Ported.all _
theorem Ported.controllerResetBegin : Ported.Statement .controllerResetBegin := Ported.all _
theorem Ported.readStatus (p : Port) : Ported.Statement (.readStatus p) := Ported.all _
theorem Ported.readSource (p : Port) : Ported.Statement (.readSource p) := Ported.all _
theorem Ported.readWear (p : Port) : Ported.Statement (.readWear p) := Ported.all _
theorem Ported.readProfile (p : Port) : Ported.Statement (.readProfile p) := Ported.all _
theorem Ported.readScene (p : Port) : Ported.Statement (.readScene p) := Ported.all _
theorem Ported.readEntry (p : Port) : Ported.Statement (.readEntry p) := Ported.all _
theorem Ported.readLockouts (p : Port) : Ported.Statement (.readLockouts p) := Ported.all _
theorem Ported.readAuthority (p : Port) : Ported.Statement (.readAuthority p) := Ported.all _
theorem Ported.readCounts (p : Port) : Ported.Statement (.readCounts p) := Ported.all _
theorem Ported.setNoticeMask (p : Port) : Ported.Statement (.setNoticeMask p) := Ported.all _
theorem Ported.selectInput (p : Port) : Ported.Statement (.selectInput p) := Ported.all _
theorem Ported.recallScene (p : Port) : Ported.Statement (.recallScene p) := Ported.all _
theorem Ported.setMute (p : Port) : Ported.Statement (.setMute p) := Ported.all _
theorem Ported.clearMute (p : Port) : Ported.Statement (.clearMute p) := Ported.all _
theorem Ported.holdFloor (p : Port) : Ported.Statement (.holdFloor p) := Ported.all _
theorem Ported.releaseFloor (p : Port) : Ported.Statement (.releaseFloor p) := Ported.all _
theorem Ported.lampOn (p : Port) : Ported.Statement (.lampOn p) := Ported.all _
theorem Ported.lampOff (p : Port) : Ported.Statement (.lampOff p) := Ported.all _
theorem Ported.setLampLevel (p : Port) : Ported.Statement (.setLampLevel p) := Ported.all _
theorem Ported.setKeystone (p : Port) : Ported.Statement (.setKeystone p) := Ported.all _
theorem Ported.nudgeKeystone (p : Port) : Ported.Statement (.nudgeKeystone p) := Ported.all _
theorem Ported.selectProfile (p : Port) : Ported.Statement (.selectProfile p) := Ported.all _
theorem Ported.openTrial (p : Port) : Ported.Statement (.openTrial p) := Ported.all _
theorem Ported.commitTrial (p : Port) : Ported.Statement (.commitTrial p) := Ported.all _
theorem Ported.discardTrial (p : Port) : Ported.Statement (.discardTrial p) := Ported.all _
theorem Ported.storeScene (p : Port) : Ported.Statement (.storeScene p) := Ported.all _
theorem Ported.setSourceAspect (p : Port) : Ported.Statement (.setSourceAspect p) := Ported.all _
theorem Ported.setInputEnable (p : Port) : Ported.Statement (.setInputEnable p) := Ported.all _
theorem Ported.setClock (p : Port) : Ported.Statement (.setClock p) := Ported.all _
theorem Ported.writeEntry (p : Port) : Ported.Statement (.writeEntry p) := Ported.all _
theorem Ported.eraseEntry (p : Port) : Ported.Statement (.eraseEntry p) := Ported.all _
theorem Ported.setGrace (p : Port) : Ported.Statement (.setGrace p) := Ported.all _
theorem Ported.setLockout (p : Port) : Ported.Statement (.setLockout p) := Ported.all _
theorem Ported.clearLockout (p : Port) : Ported.Statement (.clearLockout p) := Ported.all _
theorem Ported.protectEntry (p : Port) : Ported.Statement (.protectEntry p) := Ported.all _
theorem Ported.replaceLamp (p : Port) : Ported.Statement (.replaceLamp p) := Ported.all _
theorem Ported.writeAuthority (p : Port) : Ported.Statement (.writeAuthority p) := Ported.all _
theorem Ported.clearStoreFault (p : Port) : Ported.Statement (.clearStoreFault p) := Ported.all _
theorem Ported.setRatedLife (p : Port) : Ported.Statement (.setRatedLife p) := Ported.all _
theorem Ported.setIrRoom (p : Port) : Ported.Statement (.setIrRoom p) := Ported.all _
theorem Ported.controllerReset (p : Port) : Ported.Statement (.controllerReset p) := Ported.all _
theorem Ported.lampSenseRise : Ported.Statement .lampSenseRise := Ported.all _
theorem Ported.dropOut : Ported.Statement .dropOut := Ported.all _
theorem Ported.strikeWindowExpiry (run : Nat) : Ported.Statement (.strikeWindowExpiry run) := Ported.all _
theorem Ported.retryPauseEnd (run : Nat) : Ported.Statement (.retryPauseEnd run) := Ported.all _
theorem Ported.warmupEnd (run : Nat) : Ported.Statement (.warmupEnd run) := Ported.all _
theorem Ported.cooldownEnd (run : Nat) : Ported.Statement (.cooldownEnd run) := Ported.all _
theorem Ported.overheat : Ported.Statement .overheat := Ported.all _
theorem Ported.thermHotDeassert : Ported.Statement .thermHotDeassert := Ported.all _
theorem Ported.litSecond : Ported.Statement .litSecond := Ported.all _
theorem Ported.sigRise (n : InputIdx) : Ported.Statement (.sigRise n) := Ported.all _
theorem Ported.sigFall (n : InputIdx) : Ported.Statement (.sigFall n) := Ported.all _
theorem Ported.blanked (msg : List Byte) : Ported.Statement (.blanked msg) := Ported.all _
theorem Ported.unblanked (msg : List Byte) : Ported.Statement (.unblanked msg) := Ported.all _
theorem Ported.locked (msg : List Byte) : Ported.Statement (.locked msg) := Ported.all _
theorem Ported.lockFailed (msg : List Byte) : Ported.Statement (.lockFailed msg) := Ported.all _
theorem Ported.applied (msg : List Byte) : Ported.Statement (.applied msg) := Ported.all _
theorem Ported.timingChanged (msg : List Byte) : Ported.Statement (.timingChanged msg) := Ported.all _
theorem Ported.lockWindowExpiry (num : Nat) : Ported.Statement (.lockWindowExpiry num) := Ported.all _
theorem Ported.overallLockLimitExpiry (num : Nat) : Ported.Statement (.overallLockLimitExpiry num) := Ported.all _
theorem Ported.blankRequestTimeout (num : Nat) : Ported.Statement (.blankRequestTimeout num) := Ported.all _
theorem Ported.tableTimeout (num : Nat) : Ported.Statement (.tableTimeout num) := Ported.all _
theorem Ported.clockMinuteTick (run : Nat) : Ported.Statement (.clockMinuteTick run) := Ported.all _
theorem Ported.uptimeTick : Ported.Statement .uptimeTick := Ported.all _
theorem Ported.deferralExpiry : Ported.Statement .deferralExpiry := Ported.all _
theorem Ported.lockoutExpiry : Ported.Statement .lockoutExpiry := Ported.all _
theorem Ported.storeWriteComplete (write : Nat) : Ported.Statement (.storeWriteComplete write) := Ported.all _
theorem Ported.storeWriteTimeout (write : Nat) : Ported.Statement (.storeWriteTimeout write) := Ported.all _
theorem Ported.keypadSample (v : Byte) : Ported.Statement (.keypadSample v) := Ported.all _
theorem Ported.irFrame (elements : List IrElement) : Ported.Statement (.irFrame elements) := Ported.all _
theorem Ported.frameStopBitError (p : Port) (bytes : List Byte) : Ported.Statement (.frameStopBitError p bytes) := Ported.all _
theorem Ported.frameLenOver48 (p : Port) (bytes : List Byte) (len : Byte) : Ported.Statement (.frameLenOver48 p bytes len) := Ported.all _
theorem Ported.lineReturnsToMark (p : Port) : Ported.Statement (.lineReturnsToMark p) := Ported.all _
theorem Ported.irFrameDiscard (elements : List IrElement) : Ported.Statement (.irFrameDiscard elements) := Ported.all _
theorem Ported.irIdleGap : Ported.Statement .irIdleGap := Ported.all _

end Sys2Proof.Laws
end

