-- ==== Sys2Proof/Laws/Room.lean ====
section
/-! SUPPORT. The room: the blocks that no owner's action touches but by the few commands that own them. Every shared operation leaves it, and
one lemma for each says so. -/

namespace Sys2Proof.Machine

/-- The blocks that only their own rows change: ports, authority, lines, scenes, the two clocks, console, store records, queue. -/
def State.room (s : State) :
    Ports × AuthTable × Lines × Vector Scene 8 × Clock × Nat × Console × Memory × List Instr :=
  (s.ports, s.authority, s.lines, s.scenes, s.clock, s.uptime, s.console, s.memory, s.pending)

@[simp] theorem State.setResetWait_room (s : State) (x : Option SlotWait) : (s.setResetWait x).room = s.room := rfl
@[simp] theorem State.setFloor_room (s : State) (x : Floor) : (s.setFloor x).room = s.room := rfl
@[simp] theorem State.setLamp_room (s : State) (x : Lamp) : (s.setLamp x).room = s.room := rfl
@[simp] theorem State.setWear_room (s : State) (x : Wear) : (s.setWear x).room = s.room := rfl
@[simp] theorem State.setSources_room (s : State) (x : Vector Source 6) : (s.setSources x).room = s.room := rfl
@[simp] theorem State.setEngine_room (s : State) (x : Engine) : (s.setEngine x).room = s.room := rfl
@[simp] theorem State.setGeo_room (s : State) (x : Geometry) : (s.setGeo x).room = s.room := rfl
@[simp] theorem State.setProfiles_room (s : State) (x : Profiles) : (s.setProfiles x).room = s.room := rfl
@[simp] theorem State.setRecallNow_room (s : State) (x : Option Recall) : (s.setRecallNow x).room = s.room := rfl
@[simp] theorem State.setSchedule_room (s : State) (x : Schedule) : (s.setSchedule x).room = s.room := rfl
@[simp] theorem State.setLockouts_room (s : State) (x : List Lockout) : (s.setLockouts x).room = s.room := rfl
@[simp] theorem State.setSaveOwed_room (s : State) (x : Bool) : (s.setSaveOwed x).room = s.room := rfl
@[simp] theorem State.setStore_room (s : State) (x : Store) : (s.setStore x).room = s.room := rfl
@[simp] theorem State.setRaised_room (s : State) (x : List Notice) : (s.setRaised x).room = s.room := rfl
@[simp] theorem State.notify_room (s : State) (n : Notice) : (s.notify n).room = s.room := rfl

@[simp] theorem State.beginSlot_room (s : State) (img : WearRecord) : (s.beginSlot img).room = s.room := by
  simp [State.beginSlot]
@[simp] theorem State.beginRetry_room (s : State) (r : RecordId) : (s.beginRetry r).room = s.room := by
  simp [State.beginRetry]
@[simp] theorem State.beginQueued_room (s : State) (r : RecordId) (rest : List RecordId) : (s.beginQueued r rest).room = s.room := by
  unfold State.beginQueued; split <;> simp
@[simp] theorem State.beginRepair_room (s : State) (r : RecordId) (rest : List RecordId) : (s.beginRepair r rest).room = s.room := by
  simp [State.beginRepair]
@[simp] theorem State.kick_room (s : State) : (s.kick).room = s.room := by unfold State.kick; (repeat' split) <;> simp
@[simp] theorem State.queueRecord_room (s : State) (r : RecordId) : (s.queueRecord r).room = s.room := by
  unfold State.queueRecord; (repeat' split) <;> simp
@[simp] theorem State.checkpoint_room (s : State) : (s.checkpoint).room = s.room := by simp [State.checkpoint]
@[simp] theorem State.wearWriteEnded_room (s : State) : (s.wearWriteEnded).room = s.room := by simp [State.wearWriteEnded]
@[simp] theorem State.failWrite_room (s : State) : (s.failWrite).room = s.room := by
  unfold State.failWrite; (repeat' split) <;> simp
@[simp] theorem State.clearFault_room (s : State) : (s.clearFault).room = s.room := by
  unfold State.clearFault; split <;> simp
@[simp] theorem State.addLockout_room (s : State) (l : Lockout) : (s.addLockout l).room = s.room := by
  unfold State.addLockout; split <;> simp

theorem State.foldNotify_room (l : List LockKind) (s : State) :
    (l.foldl (fun t k => t.notify (outOfForceNotice k)) s).room = s.room := by
  induction l generalizing s with
  | nil => rfl
  | cons k l ih => simp [ih]

@[simp] theorem State.removeLockouts_room (s : State) (gone : Lockout → Bool) : (s.removeLockouts gone).room = s.room := by
  simp [State.removeLockouts, State.foldNotify_room]
@[simp] theorem State.saveLockouts_room (s : State) : (s.saveLockouts).room = s.room := by simp [State.saveLockouts]
@[simp] theorem State.addLampLock_room (s : State) (reason : LockReason) : (s.addLampLock reason).room = s.room := by
  unfold State.addLampLock; (repeat' split) <;> simp
@[simp] theorem State.removeLampLock_room (s : State) (which : Lockout → Bool) : (s.removeLampLock which).room = s.room := by
  unfold State.removeLampLock; split <;> simp
@[simp] theorem State.addThermal_room (s : State) : (s.addThermal).room = s.room := by
  unfold State.addThermal; split <;> simp
@[simp] theorem State.examineThermal_room (s : State) : (s.examineThermal).room = s.room := by
  unfold State.examineThermal; split <;> simp
@[simp] theorem State.renameSchedule_room (s : State) (e : EntryIdx) : (s.renameSchedule e).room = s.room := by
  simp [State.renameSchedule]
@[simp] theorem State.setRecord_room (s : State) (r : WearRecord) : (s.setRecord r).room = s.room := by
  simp [State.setRecord]
@[simp] theorem State.charge_room (s : State) (wu : Nat) : (s.charge wu).room = s.room := by simp [State.charge]
@[simp] theorem State.warnEffect_room (s : State) (old new : WearBand) : (s.warnEffect old new).room = s.room := by
  unfold State.warnEffect; split <;> simp
@[simp] theorem State.ecoEffect_room (s : State) (old new : WearBand) : (s.ecoEffect old new).room = s.room := by
  unfold State.ecoEffect; split <;> simp
@[simp] theorem State.expireEffect_room (s : State) (new : WearBand) : (s.expireEffect new).room = s.room := by
  unfold State.expireEffect; split <;> simp
@[simp] theorem State.testThresholds_room (s : State) : (s.testThresholds).room = s.room := by
  simp [State.testThresholds, apply_ite State.room]
@[simp] theorem State.bookStrike_room (s : State) : (s.bookStrike).room = s.room := by simp [State.bookStrike]
@[simp] theorem State.bookDropOut_room (s : State) : (s.bookDropOut).room = s.room := by simp [State.bookDropOut]
@[simp] theorem State.startLit_room (s : State) : (s.startLit).room = s.room := by simp [State.startLit]
@[simp] theorem State.bookCooldown_room (s : State) : (s.bookCooldown).room = s.room := by simp [State.bookCooldown]
@[simp] theorem State.countMinute_room (s : State) : (s.countMinute).room = s.room := by
  unfold State.countMinute; split <;> simp
@[simp] theorem State.litMinute_room (s : State) : (s.litMinute).room = s.room := by simp [State.litMinute]
@[simp] theorem State.litSecond_room (s : State) : (s.litSecond).room = s.room := by
  unfold State.litSecond; (repeat' split) <;> simp
@[simp] theorem State.startBand_room (s : State) : (s.startBand).room = s.room := by simp [State.startBand]
@[simp] theorem State.bookUnclean_room (s : State) : (s.bookUnclean).room = s.room := by simp [State.bookUnclean]
@[simp] theorem State.setDeferral_room (s : State) (d : Option Deferral) : (s.setDeferral d).room = s.room := by
  simp [State.setDeferral]
@[simp] theorem State.endDeferral_room (s : State) (result : Nat) : (s.endDeferral result).room = s.room := by
  unfold State.endDeferral; split <;> simp
@[simp] theorem State.noteActivity_room (s : State) : (s.noteActivity).room = s.room := by
  unfold State.noteActivity; split <;> simp
@[simp] theorem State.lampOffEndsDeferral_room (s : State) (r : Requester) : (s.lampOffEndsDeferral r).room = s.room := by
  unfold State.lampOffEndsDeferral; split <;> simp
@[simp] theorem State.enterLamp_room (s : State) (l : LampState) (timer : Option Nat) : (s.enterLamp l timer).room = s.room := by
  simp [State.enterLamp]
@[simp] theorem State.strike_room (s : State) : (s.strike).room = s.room := by simp [State.strike, apply_ite State.room]
@[simp] theorem State.enterCooldown_room (s : State) (seconds : Nat) (faultPending : Bool) : (s.enterCooldown seconds faultPending).room = s.room := by
  simp [State.enterCooldown]
@[simp] theorem State.enterRest_room (s : State) (l : LampState) : (s.enterRest l).room = s.room := by simp [State.enterRest]
@[simp] theorem State.lampOn_room (s : State) (r : Requester) : (s.lampOn r).1.room = s.room := by
  unfold State.lampOn; split <;> simp
@[simp] theorem State.lampOff_room (s : State) : (s.lampOff).1.room = s.room := by unfold State.lampOff; split <;> simp
@[simp] theorem State.lampLevel_room (s : State) (l : Level) : (s.lampLevel l).1.room = s.room := by
  unfold State.lampLevel; split <;> simp
@[simp] theorem State.dropPendingOn_room (s : State) : (s.dropPendingOn).room = s.room := by
  unfold State.dropPendingOn; (repeat' split) <;> simp
@[simp] theorem State.senseRise_room (s : State) : (s.senseRise).room = s.room := by unfold State.senseRise; split <;> simp
@[simp] theorem State.strikeFails_room (s : State) : (s.strikeFails).room = s.room := by
  unfold State.strikeFails; (repeat' split) <;> simp
@[simp] theorem State.retryEnds_room (s : State) : (s.retryEnds).room = s.room := by
  unfold State.retryEnds; (repeat' split) <;> simp
@[simp] theorem State.warmupEnds_room (s : State) : (s.warmupEnds).room = s.room := by
  simp [State.warmupEnds, apply_ite State.room]
@[simp] theorem State.decideRestrike_room (s : State) (held : Bool) : (s.decideRestrike held).room = s.room := by
  unfold State.decideRestrike; (repeat' split) <;> simp
@[simp] theorem State.senseFall_room (s : State) : (s.senseFall).room = s.room := by unfold State.senseFall; split <;> simp
@[simp] theorem State.heatLamp_room (s : State) : (s.heatLamp).room = s.room := by unfold State.heatLamp; split <;> simp
@[simp] theorem State.heat_room (s : State) : (s.heat).room = s.room := by simp [State.heat]
@[simp] theorem State.bumpLink_room (s : State) : (s.bumpLink).room = s.room := by simp [State.bumpLink]
@[simp] theorem State.sendTable_room (s : State) (t : BandTable) : (s.sendTable t).room = s.room := by simp [State.sendTable]
@[simp] theorem State.hand_room (s : State) (t : BandTable) (forced : Bool) : (s.hand t forced).room = s.room := by
  unfold State.hand; (repeat' split) <;> simp
@[simp] theorem State.recompute_room (s : State) (forced : Bool) : (s.recompute forced).room = s.room := by
  simp [State.recompute]
@[simp] theorem State.tellAspect_room (s : State) (old : AspectClass) : (s.tellAspect old).room = s.room := by
  unfold State.tellAspect; split <;> simp
@[simp] theorem State.tableApplied_room (s : State) (t : Transfer) : (s.tableApplied t).room = s.room := by
  unfold State.tableApplied; split <;> simp
@[simp] theorem State.tableLost_room (s : State) (t : Transfer) : (s.tableLost t).room = s.room := by simp [State.tableLost]
@[simp] theorem State.dropTables_room (s : State) : (s.dropTables).room = s.room := by simp [State.dropTables]
@[simp] theorem State.setSource_room (s : State) (n : InputIdx) (c : Source) : (s.setSource n c).room = s.room := by
  simp [State.setSource]
@[simp] theorem State.clearTiming_room (s : State) (n : InputIdx) : (s.clearTiming n).room = s.room := by
  simp [State.clearTiming]
@[simp] theorem State.forget_room (s : State) (n : InputIdx) : (s.forget n).room = s.room := by simp [State.forget]
@[simp] theorem State.sendBlank_room (s : State) (k : BlankKind) : (s.sendBlank k).room = s.room := by simp [State.sendBlank]
@[simp] theorem State.compareBlank_room (s : State) : (s.compareBlank).room = s.room := by
  unfold State.compareBlank; (repeat' split) <;> simp
@[simp] theorem State.watchBlank_room (s : State) : (s.watchBlank).room = s.room := by
  unfold State.watchBlank; split <;> simp
@[simp] theorem State.setInFlight_room (s : State) (w : Option Switch) : (s.setInFlight w).room = s.room := by
  simp [State.setInFlight]
@[simp] theorem State.attempt_room (s : State) (w : Switch) (m : LockMode) : (s.attempt w m).room = s.room := by
  simp [State.attempt]
@[simp] theorem State.enterLocking_room (s : State) (w : Switch) : (s.enterLocking w).room = s.room := by
  simp [State.enterLocking]
@[simp] theorem State.route_room (s : State) (w : Switch) : (s.route w).room = s.room := by
  unfold State.route; split <;> simp
@[simp] theorem State.endMuting_room (s : State) : (s.endMuting).room = s.room := by
  unfold State.endMuting; (repeat' split) <;> simp
@[simp] theorem State.enterApplying_room (s : State) (w : Switch) : (s.enterApplying w).room = s.room := by
  simp [State.enterApplying]
@[simp] theorem State.startSwitch_room (s : State) (kind : SwitchKind) (target : InputIdx) (r : Option Requester) : (s.startSwitch kind target r).room = s.room := by
  unfold State.startSwitch; split <;> simp
@[simp] theorem State.wantRelock_room (s : State) : (s.wantRelock).room = s.room := by
  unfold State.wantRelock; split <;> simp
@[simp] theorem State.endRecall_room (s : State) (n : InputIdx) : (s.endRecall n).room = s.room := by
  unfold State.endRecall; (repeat' split) <;> simp
@[simp] theorem State.displaceTarget_room (s : State) : (s.displaceTarget).room = s.room := by
  unfold State.displaceTarget; split <;> simp
@[simp] theorem State.askBusy_room (s : State) (w : Switch) (r : Requester) (n : InputIdx) : (s.askBusy w r n).1.room = s.room := by
  unfold State.askBusy; (repeat' split) <;> simp
@[simp] theorem State.selectInput_room (s : State) (r : Requester) (n : InputIdx) : (s.selectInput r n).1.room = s.room := by
  unfold State.selectInput; (repeat' split) <;> simp
@[simp] theorem State.mute_room (s : State) (m : Bool) : (s.mute m).room = s.room := by simp [State.mute]
@[simp] theorem State.setStored_room (s : State) (p : ProfileIdx) (k : Keystone) : (s.setStored p k).room = s.room := by
  simp [State.setStored]
@[simp] theorem State.setSlot_room (s : State) (t : SlotIdx) (x : Option Trial) : (s.setSlot t x).room = s.room := by
  simp [State.setSlot]
@[simp] theorem State.tellPair_room (s : State) (old : Keystone) : (s.tellPair old).room = s.room := by
  unfold State.tellPair; split <;> simp
@[simp] theorem State.writePair_room (s : State) (p : ProfileIdx) (k : Keystone) : (s.writePair p k).room = s.room := by
  unfold State.writePair; split <;> simp
@[simp] theorem State.nudgePair_room (s : State) (p : ProfileIdx) (d : Direction) : (s.nudgePair p d).1.room = s.room := by
  simp [State.nudgePair]
@[simp] theorem State.selectProfile_room (s : State) (p : ProfileIdx) : (s.selectProfile p).room = s.room := by
  unfold State.selectProfile; split <;> simp
@[simp] theorem State.discardTrial_room (s : State) (t : SlotIdx) : (s.discardTrial t).room = s.room := by
  unfold State.discardTrial; (repeat' split) <;> simp
@[simp] theorem State.enableTrial_room (s : State) (t : SlotIdx) (p : ProfileIdx) : (s.enableTrial t p).room = s.room := by
  simp [State.enableTrial, apply_ite State.room]
@[simp] theorem State.openTrial_room (s : State) (t : SlotIdx) (p : ProfileIdx) : (s.openTrial t p).room = s.room := by
  simp [State.openTrial]
@[simp] theorem State.commitTrial_room (s : State) (t : SlotIdx) : (s.commitTrial t).room = s.room := by
  unfold State.commitTrial; (repeat' split) <;> simp
@[simp] theorem State.setAspect_room (s : State) (n : InputIdx) (o : AspectOverride) : (s.setAspect n o).room = s.room := by
  simp [State.setAspect]
@[simp] theorem State.setEnable_room (s : State) (n : InputIdx) (enabled : Bool) (role : Nat) : (s.setEnable n enabled role).room = s.room := by
  simp [State.setEnable]
@[simp] theorem State.tellHolder_room (s : State) (before : Floor) : (s.tellHolder before).room = s.room := by
  unfold State.tellHolder; split <;> simp
@[simp] theorem State.setElect_room (s : State) (e : Option (Requester × Cmd)) : (s.setElect e).room = s.room := by
  simp [State.setElect]
@[simp] theorem State.dropElect_room (s : State) (result : Nat) : (s.dropElect result).room = s.room := by
  unfold State.dropElect; split <;> simp
@[simp] theorem State.holdDropsElect_room (s : State) : (s.holdDropsElect).room = s.room := by
  unfold State.holdDropsElect; (repeat' split) <;> simp
@[simp] theorem State.becomeElect_room (s : State) (r : Requester) (c : Cmd) : (s.becomeElect r c).room = s.room := by
  unfold State.becomeElect; split <;> simp
@[simp] theorem State.touch_room (s : State) (r : Requester) : (s.touch r).room = s.room := by
  unfold State.touch; split <;> simp
@[simp] theorem State.runLampOn_room (s : State) (r : Requester) : (s.runLampOn r).1.room = s.room := by
  simp [State.runLampOn]
@[simp] theorem State.runLampOff_room (s : State) (r : Requester) : (s.runLampOff r).1.room = s.room := by
  simp [State.runLampOff]
@[simp] theorem State.runLampLevel_room (s : State) (r : Requester) (l : Level) : (s.runLampLevel r l).1.room = s.room := by
  simp [State.runLampLevel]
@[simp] theorem State.recallPower_room (s : State) (r : Requester) (p : ScenePower) : (s.recallPower r p).room = s.room := by
  unfold State.recallPower; (repeat' split) <;> simp
@[simp] theorem State.recallLevel_room (s : State) (r : Requester) (l : SceneLevel) : (s.recallLevel r l).1.room = s.room := by
  unfold State.recallLevel; (repeat' split) <;> simp
@[simp] theorem State.joinRecall_room (s : State) (w : Switch) (r : Requester) (n : InputIdx) : (s.joinRecall w r n).room = s.room := by
  unfold State.joinRecall; split <;> simp
@[simp] theorem State.recallInput_room (s : State) (r : Requester) (n : InputIdx) (indexChanged : Bool) : (s.recallInput r n indexChanged).1.room = s.room := by
  unfold State.recallInput; (repeat' split) <;> simp
@[simp] theorem State.takeRecall_room (s : State) (k : SceneIdx) (r : Requester) (n : InputIdx) (v : Verdict) : (s.takeRecall k r n v).room = s.room := by
  unfold State.takeRecall; split <;> simp
@[simp] theorem State.runRecall_room (s : State) (r : Requester) (k : SceneIdx) : (s.runRecall r k).1.room = s.room := by
  simp [State.runRecall]
@[simp] theorem State.mark_room (s : State) (c : Cmd) (v : Verdict) : (s.mark c v).room = s.room := by
  unfold State.mark; split <;> simp
@[simp] theorem State.ownerActs_room (s : State) (r : Requester) (c : Cmd) : (s.ownerActs r c).1.room = s.room := by
  cases c <;> simp [State.ownerActs]
@[simp] theorem State.proceed_room (s : State) (before : Floor) (r : Requester) (c : Cmd) :
    (s.proceed before r c).1.room = s.room := by
  unfold State.proceed; split
  · dsimp only; split <;> simp
  · simp

@[simp] theorem State.passFloor_room (s : State) (r : Requester) : (s.passFloor r).room = s.room := by simp [State.passFloor]
@[simp] theorem State.floorIntake_room (s : State) (r : Requester) (c : Cmd) : (s.floorIntake r c).1.room = s.room := by
  unfold State.floorIntake; (repeat' split) <;> simp
@[simp] theorem State.handOver_room (s : State) (before : Floor) : (s.handOver before).room = s.room := by
  unfold State.handOver; (repeat' split) <;> simp
@[simp] theorem State.freeFloor_room (s : State) : (s.freeFloor).room = s.room := by simp [State.freeFloor]
@[simp] theorem State.unitEnd_room (s : State) : (s.unitEnd).room = s.room := by unfold State.unitEnd; split <;> simp
@[simp] theorem State.chainEnds_room (s : State) : (s.chainEnds).room = s.room := by unfold State.chainEnds; split <;> simp
@[simp] theorem State.releaseBy_room (s : State) (r : Requester) : (s.releaseBy r).room = s.room := by
  unfold State.releaseBy; split <;> simp
@[simp] theorem State.loseStanding_room (s : State) (r : Requester) : (s.loseStanding r).room = s.room := by
  unfold State.loseStanding; (repeat' split) <;> simp
@[simp] theorem State.dropBarredElect_room (s : State) (k : LockKind) : (s.dropBarredElect k).room = s.room := by
  unfold State.dropBarredElect; (repeat' split) <;> simp
@[simp] theorem State.freeBarredHolder_room (s : State) (k : LockKind) : (s.freeBarredHolder k).room = s.room := by
  unfold State.freeBarredHolder; (repeat' split) <;> simp
@[simp] theorem State.payRelock_room (s : State) : (s.payRelock).room = s.room := by
  unfold State.payRelock; (repeat' split) <;> simp
@[simp] theorem State.endSwitchCond_room (s : State) : (s.endSwitchCond).room = s.room := by
  unfold State.endSwitchCond; (repeat' split) <;> simp
@[simp] theorem State.goIdle_room (s : State) : (s.goIdle).room = s.room := by simp [State.goIdle]
@[simp] theorem State.nextSwitch_room (s : State) : (s.nextSwitch).room = s.room := by
  unfold State.nextSwitch; split <;> simp
@[simp] theorem State.completeSwitch_room (s : State) (r : SwitchResult) : (s.completeSwitch r).room = s.room := by
  unfold State.completeSwitch; split <;> simp
@[simp] theorem State.enterUnmuting_room (s : State) : (s.enterUnmuting).room = s.room := by simp [State.enterUnmuting]
@[simp] theorem State.endApplying_room (s : State) : (s.endApplying).room = s.room := by
  unfold State.endApplying; (repeat' split) <;> simp
@[simp] theorem State.endUnmuting_room (s : State) : (s.endUnmuting).room = s.room := by
  unfold State.endUnmuting; split <;> simp
@[simp] theorem State.lockFails_room (s : State) : (s.lockFails).room = s.room := by
  unfold State.lockFails; (repeat' split) <;> simp
@[simp] theorem State.powerUp_room (s : State) : (s.powerUp).room = s.room := by simp [State.powerUp]
@[simp] theorem State.cutPower_room (s : State) : (s.cutPower).room = s.room := by simp [State.cutPower]
@[simp] theorem State.abortPending_room (s : State) : (s.abortPending).room = s.room := by
  unfold State.abortPending; split <;> simp
@[simp] theorem State.abortSwitch_room (s : State) : (s.abortSwitch).room = s.room := by
  unfold State.abortSwitch; split <;> simp
@[simp] theorem State.powerDown_room (s : State) : (s.powerDown).room = s.room := by simp [State.powerDown]
@[simp] theorem State.takePowerUp_room (s : State) : (s.takePowerUp).room = s.room := by
  unfold State.takePowerUp; split <;> simp
@[simp] theorem State.settle_room (s : State) : (s.settle).room = s.room := by simp [State.settle]
@[simp] theorem State.closureOff_room (s : State) (o : Origin) : (s.closureOff o).room = s.room := by simp [State.closureOff]
@[simp] theorem State.comeIntoForce_room (s : State) (k : LockKind) (o : Origin) : (s.comeIntoForce k o).room = s.room := by
  unfold State.comeIntoForce; split <;> simp
@[simp] theorem State.placeLockout_room (s : State) (l : Lockout) : (s.placeLockout l).room = s.room := by
  unfold State.placeLockout; split <;> simp
@[simp] theorem State.saveIfService_room (s : State) (k : LockKind) : (s.saveIfService k).room = s.room := by
  unfold State.saveIfService; split <;> simp
@[simp] theorem State.setByHand_room (s : State) (r : Requester) (k : LockKind) (expiry : Option Nat) : (s.setByHand r k expiry).room = s.room := by
  unfold State.setByHand; split <;> simp
@[simp] theorem State.clearByHand_room (s : State) (r : Requester) (k : LockKind) : (s.clearByHand r k).1.room = s.room := by
  unfold State.clearByHand; split <;> simp
@[simp] theorem State.expireLockouts_room (s : State) : (s.expireLockouts).room = s.room := by
  unfold State.expireLockouts; split <;> simp
theorem State.innerIntake_room (s : State) (r : Requester) (c : Cmd) (rest : State → State × Reply)
    (h : ∀ u, (rest u).1.room = u.room) : (s.innerIntake r c rest).1.room = s.room := by
  unfold State.innerIntake; (repeat' split) <;> simp [h]

@[simp] theorem State.innerLampOn_room (s : State) (r : Requester) : (s.innerLampOn r).1.room = s.room :=
  State.innerIntake_room _ _ _ _ (by simp)

@[simp] theorem State.innerLampOff_room (s : State) (r : Requester) : (s.innerLampOff r).1.room = s.room :=
  State.innerIntake_room _ _ _ _ (by simp)

@[simp] theorem State.innerLevel_room (s : State) (r : Requester) (l : Level) : (s.innerLevel r l).1.room = s.room :=
  State.innerIntake_room _ _ _ _ (by simp)

@[simp] theorem State.innerFloor_room (s : State) (r : Requester) (c : Cmd) : (s.innerFloor r c).1.room = s.room :=
  State.innerIntake_room _ _ _ _ (by simp)

@[simp] theorem State.fireDeferral_room (s : State) : (s.fireDeferral).room = s.room := by simp [State.fireDeferral]
@[simp] theorem State.startDeferral_room (s : State) (e : EntryIdx) : (s.startDeferral e).room = s.room := by
  unfold State.startDeferral; split <;> simp
@[simp] theorem State.leaveEntry_room (s : State) (old new : Option Effective) : (s.leaveEntry old new).room = s.room := by
  unfold State.leaveEntry; (repeat' split) <;> simp
@[simp] theorem State.bookLockout_room (s : State) (e : Effective) (old : Option Effective) (k : LockKind) : (s.bookLockout e old k).room = s.room := by
  unfold State.bookLockout; split <;> simp
@[simp] theorem State.bookKind_room (s : State) (e : Effective) (old : Option Effective) : (s.bookKind e old).room = s.room := by
  unfold State.bookKind; split <;> simp
@[simp] theorem State.bookScene_room (s : State) (e : Effective) (old : Option Effective) : (s.bookScene e old).room = s.room := by
  unfold State.bookScene; (repeat' split) <;> simp
@[simp] theorem State.enterEntry_room (s : State) (e : Effective) (old : Option Effective) : (s.enterEntry e old).room = s.room := by
  unfold State.enterEntry; split <;> simp
@[simp] theorem State.evaluate_room (s : State) : (s.evaluate).room = s.room := by
  simp only [State.evaluate]; (repeat' split) <;> simp
@[simp] theorem State.changeEntry_room (s : State) (e : EntryIdx) (c : Entry) : (s.changeEntry e c).room = s.room := by
  simp [State.changeEntry]
@[simp] theorem State.examineDeferral_room (s : State) : (s.examineDeferral).room = s.room := by
  unfold State.examineDeferral; split <;> simp
@[simp] theorem State.expireDeferral_room (s : State) : (s.expireDeferral).room = s.room := by
  unfold State.expireDeferral; (repeat' split) <;> simp
@[simp] theorem State.leaveFault_room (s : State) : (s.leaveFault).room = s.room := by
  unfold State.leaveFault; split <;> simp
@[simp] theorem State.endReplacement_room (s : State) (m : ReplaceMode) : (s.endReplacement m).room = s.room := by
  simp [State.endReplacement]
@[simp] theorem State.replaceNew_room (s : State) (identity : Vector Byte 8) : (s.replaceNew identity).room = s.room := by
  simp [State.replaceNew]
@[simp] theorem State.replaceOld_room (s : State) : (s.replaceOld).room = s.room := by simp [State.replaceOld]
@[simp] theorem State.setRatedLife_room (s : State) (hours : Nat) : (s.setRatedLife hours).room = s.room := by
  simp [State.setRatedLife]
@[simp] theorem State.setGrace_room (s : State) (minutes : Nat) : (s.setGrace minutes).room = s.room := by
  simp [State.setGrace]
@[simp] theorem State.askReset_room (s : State) : (s.askReset).room = s.room := by unfold State.askReset; split <;> simp

end Sys2Proof.Machine
end

