-- ==== Sys2Proof/Laws/Store.lean ====
section
/-! SUPPORT. The settings store: what queueing a record and beginning a write leave (R184, R185). -/

namespace Sys2Proof.Machine

/-- The blocks that the beginning of a store write may touch are the store, save-owed, the wear counter's wait for a
replacement's write, and a pending reset's wait. -/
theorem State.kick_rest (s : State) :
    s.kick = { s with store := s.kick.store, saveOwed := s.kick.saveOwed, resetWait := s.kick.resetWait,
                      wear := { s.wear with replacement := s.kick.wear.replacement } } := by
  unfold State.kick; split
  · rfl
  · split <;> simp [State.beginSlot, State.beginRetry, State.beginQueued, State.beginRepair, State.setStore, State.setWear,
      State.setResetWait, State.setSaveOwed]
    split <;> rfl

/-- Queueing a record touches the same blocks. -/
theorem State.queueRecord_rest (s : State) (r : RecordId) :
    s.queueRecord r = { s with store := (s.queueRecord r).store, saveOwed := (s.queueRecord r).saveOwed,
                               resetWait := (s.queueRecord r).resetWait,
                               wear := { s.wear with replacement := (s.queueRecord r).wear.replacement } } := by
  unfold State.queueRecord; split
  · rfl
  · split
    · rw [State.kick_rest]; rfl
    · split <;> rfl

/-- A checkpoint touches the same blocks and the minutes since it (R76). -/
theorem State.checkpoint_rest (s : State) :
    s.checkpoint = { s with store := s.checkpoint.store, saveOwed := s.checkpoint.saveOwed, resetWait := s.checkpoint.resetWait,
                            wear := { s.wear with replacement := s.checkpoint.wear.replacement, sinceCheckpoint := 0 } } := by
  unfold State.checkpoint; rw [State.kick_rest]; rfl

/-- No reset waits after a beginning write when none waited before. -/
theorem State.kick_noReset {s : State} (h : s.resetWait = none) : s.kick.resetWait = none := by
  unfold State.kick; split
  · exact h
  · split
    · simp [State.beginSlot, State.setStore, State.setWear, State.setResetWait, h]
    · exact h
    · unfold State.beginQueued; split <;> exact h
    · exact h
    · exact h

/-- What a record's image is taken from is not touched by the beginning of a store write (R182). -/
theorem State.kick_imageOf (s : State) (r : RecordId) : s.kick.imageOf r = s.imageOf r := by
  rw [State.kick_rest]; cases r <;> rfl

/-- A record in the write queue stays there, or its image is being written once the next write has begun (R185). -/
theorem State.kick_saving {s : State} {r : RecordId} (h : r ∈ s.store.queue) : Saving s.kick r := by
  rw [Saving, State.kick_imageOf]
  unfold State.kick; split
  · exact .inl h
  · split
    · exact .inl h
    · rename_i q hs hr
      by_cases e : r = q
      · exact .inr (e ▸ rfl)
      · left; simpa [State.beginRetry, State.setStore, e] using h
    · rename_i q rest hs hr hq
      rw [hq] at h
      rcases List.mem_cons.mp h with e | e
      · right; unfold State.beginQueued; split <;> exact e ▸ rfl
      · left; unfold State.beginQueued; split
        · simp only [State.setStore, State.setSaveOwed, enqueue]; split <;> simp [e]
        · exact e
    · rename_i q rest hs hr hq _; simp_all
    · simp_all

/-- A record asked for while the store can take it waits in the queue, or its image is being written (R184, R185). -/
theorem State.queueRecord_saving {s : State} {r : RecordId} (h : StoreTakes s r) : Saving (s.queueRecord r) r := by
  unfold State.queueRecord
  by_cases hm : r ∈ s.store.queue
  · rw [if_pos hm]; exact .inl hm
  · rw [if_neg hm, if_pos (h.2.resolve_left hm)]
    exact State.kick_saving (by simp [State.setStore])

/-- With the fault clear and no write in flight, the next write begins as R185 and R168 order it: the store, save-owed, and the two waits
for a wear slot write. -/
theorem State.kick_resumed {s : State} (hf : s.store.fault = false) (hw : s.store.inFlight = none) :
    s.kick = { s with store := s.resumed, saveOwed := s.owedOn, resetWait := s.resetWait.map s.waitOn,
                      wear := { s.wear with replacement := s.waitOn s.wear.replacement } } := by
  have hm : s.resetWait.map (fun w => w) = s.resetWait := Option.map_id'
  unfold State.kick State.resumed State.owedOn
  rw [if_neg (by simp [hw, hf])]
  split
  · rename_i h
    simp only [State.beginSlot, State.setStore, State.setWear, State.setResetWait, Store.start, h]
    have : s.waitOn = SlotWait.begun := by
      funext w; cases w <;> simp [State.waitOn, SlotWait.begun, h]
    simp [this]
  all_goals
    rename_i h1 h2
    have : s.waitOn = fun w => w := by funext w; simp [State.waitOn, *]
    simp only [this, hm]
    simp_all [State.beginRetry, State.beginQueued, State.beginRepair, State.setStore, State.setSaveOwed, Store.start]
  split <;> simp_all [enqueue]

end Sys2Proof.Machine
end

