-- ==== Sys2Proof/Tests/Slice0.lean ====
section
/-! SUPPORT. Tests on small states: the well-formedness checks, figures and cases the manual works out, and for each statement states and
operands that meet its hypotheses, clause by clause. -/

open Sys2Proof Sys2Proof.Machine

namespace Sys2Proof.Tests

-- One theorem at a time: evaluated side by side they ask for more thread stacks than the check's memory limit gives.
set_option Elab.async false

/-! ## Helpers -/

/-- The state a command leads to. -/
def after (c : Instr) (s : State) : State :=
  match exec c s with
  | .next t => t
  | .fault _ => s
  | .refused _ => s

/-- The command answers a next state. -/
def runs (o : Host.Outcome State Fault Refusal) : Bool :=
  match o with
  | .next _ => true
  | .fault _ => false
  | .refused _ => false

/-- s with command c waiting at port p, tag 7, and p's outbound queue empty. -/
def asked (s : State) (p : Port) (c : Code) (pl : List Byte) : State :=
  s.setPort p { s.port p with inbox := [.frame { tag := 7, code := codeByte c, payload := pl }], outq := [] }

/-- The hypotheses that most statements share. Their others read parts of s that `asked` leaves alone, so they are shown of s. -/
def Ready (s : State) (p : Port) (c : Code) (pl : List Byte) : Bool :=
  decide (Quiet (asked s p c pl)) && decide (Passes (asked s p c pl) p c 7 pl)

/-- The response and the notices that follow it at port p, by code and payload. -/
def said (s : State) (p : Port) : List (Byte × List Byte) := (s.port p).outq.map fun f => (f.code, f.payload)

/-- The state after reset with this lamp state. -/
def lamp (l : LampState) : State := { State.reset with lamp := { State.reset.lamp with state := l, attempts := 1 } }

/-- IN1 carries a locked 1920 × 1080 picture, shown, with the lamp lit. -/
def shown : State :=
  { lamp .lit with
    lines := { lampSense := true, thermHot := false },
    wear := { State.reset.wear with running := true },
    sources := State.reset.sources.set 0
      { settings := .factory, present := true, timing := some { width := 1920, height := 1080, refresh := 6000 },
        remembered := some { width := 1920, height := 1080, refresh := 6000 } },
    engine := { State.reset.engine with powered := true, blank := .unblanked, compHeld := false } }

/-- A switch to IN1 for PANEL. -/
def toFirst : Switch := { kind := .select, target := 0, requester := some .panel, lockMode := none, window := none, limit := none }

/-- The picture of `shown` with a switch to IN1 in this engine state, and no timing yet. -/
def switching (e : EngineState) (w : Switch) : State :=
  { shown with
    sources := State.reset.sources.set 0 { settings := .factory, present := true, timing := none, remembered := none },
    floor := { holder := some .panel, hold := false, elect := none, marker := true },
    engine := { State.reset.engine with powered := true, state := e, inFlight := some w, switchCond := true } }

/-- What the part finds with every line low and no record spoiled. -/
def quietPower : PowerOn :=
  { sig := Vector.replicate 6 false, lampSense := false, thermHot := false, serviceRate := .b9600, campusRate := .b9600,
    panelRate := .b9600, spoiled := [] }

/-! ## Well-formedness -/

theorem test_wf_len : Instr.WellFormed (.frameLenOver48 .panel [0xC3, 1, 1] 48) = false := by decide
theorem test_wf_spoiled_range : Instr.WellFormed (.powerOnReset { quietPower with spoiled := [46] }) = false := by decide
theorem test_wf_spoiled_repeat : Instr.WellFormed (.powerOnReset { quietPower with spoiled := [3, 3] }) = false := by decide
theorem test_wf_ir_width : Instr.WellFormed (.irFrameDiscard [.mark 0]) = false := by decide
theorem test_wf_ir_alternates : Instr.WellFormed (.irFrameDiscard [.mark 50, .mark 50]) = false := by decide
theorem test_wf_ir_gap : Instr.WellFormed (.irFrame [.mark 50, .space 25, .mark 6]) = false := by decide
theorem test_wf_link_kind : Instr.WellFormed (.blanked (linkBytes 0x82 1 [])) = false := by decide
theorem test_wf_link_check : Instr.WellFormed (.blanked [0xA5, 0x81, 1, 0, 0]) = false := by decide
theorem test_wf_link_length : Instr.WellFormed (.locked (linkBytes 0x83 1 [0, 0])) = false := by decide
theorem test_wf_timing_number : Instr.WellFormed (.timingChanged (linkBytes 0xC1 1 [])) = false := by decide
theorem test_wf_link_number : Instr.WellFormed (.lockWindowExpiry 0) = false ∧ Instr.WellFormed (.tableTimeout 256) = false := by decide
theorem test_wf_accepts : Instr.WellFormed (.blanked (linkBytes 0x81 1 [])) = true
    ∧ Instr.WellFormed (.powerOnReset quietPower) = true ∧ Instr.WellFormed (.frameLenOver48 .panel [0xC3, 1, 1] 49) = true
    ∧ Instr.WellFormed (.irFrame (irWire (List.replicate 16 true))) = true := by decide

/-! ## Figures the manual works out -/

/-- R108: 2.5 becomes 3, −2.5 becomes −3, 77.5 becomes 78, −77.5 becomes −78. -/
theorem test_round : (roundDiv 5 2, roundDiv (-5) 2, roundDiv 155 2, roundDiv (-155) 2) = (3, -3, 78, -78) := by decide

/-- R109's table. -/
theorem test_clamp : [clampKeystone ⟨30, 20⟩, clampKeystone ⟨-25, -15⟩, clampKeystone ⟨40, -3⟩, clampKeystone ⟨-100, 100⟩]
    = [⟨30, 7⟩, ⟨-25, -11⟩, ⟨30, -3⟩, ⟨-30, 7⟩] := by decide

/-- R110: (26, −10) nudged up in v becomes (27, −9) with CLAMPED; (30, 7) nudged up in h stays. -/
theorem test_nudge : nudge ⟨26, -10⟩ .vUp = (⟨27, -9⟩, true) ∧ nudge ⟨30, 7⟩ .hUp = (⟨30, 7⟩, true) := by decide

/-- The worked case of a moderate correction, band 0 for WIDE10, STD and WIDE9, and the steepest correction's width. -/
theorem test_bands : bandOf ⟨10, -5⟩ (window .wide10) 0 = ⟨0, 77, 66, 1842, 37⟩
    ∧ bandOf ⟨10, -5⟩ (window .std) 0 = ⟨0, 224, 64, 1694, 39⟩ ∧ bandOf ⟨10, -5⟩ (window .wide9) 15 = ⟨15, 6, 1080, 1913, 1105⟩
    ∧ (bandTable ⟨10, -5⟩ .std).efficiency = 76 ∧ (bandOf ⟨30, 7⟩ (window .wide10) 0).width = 1456 := by decide

/-- The worked case of a lamp in mid-life: WU 1,701,600 against R 3000 is 590 permille. -/
theorem test_wear_ratio : wearRatio 1701600 3000 = 590 ∧ bandOfRatio 590 = .good ∧ wearRatio 2880006 2600 = 1153 := by decide

/-! ## Single steps -/

/-- A power-on with every line low and a store of valid factory records gives the reset state (log 4, log 5). -/
theorem test_powerOn : after (.powerOnReset quietPower) State.reset = State.reset := by decide +kernel

/-- R54, R47: LAMP_ON in OFF is answered STARTED, and STATE STRIKING follows with attempt count 1. -/
theorem test_lampOn : said (after (.lampOn .panel) (asked State.reset .panel .lampOn [])) .panel
    = [(0x81, [0, 0x18]), (0xC0, [1, 1, 0, 1])] := by decide +kernel

/-- The first start of a fresh store: STORE count 39 and LAMP count 1 on each port, the WEAR image first, the 45 other records in the repair
set. -/
theorem test_fresh_store :
    let t := after (.powerOnReset { quietPower with spoiled := List.range 46 }) State.reset
    (t.port .campus).outq.length = 7 ∧ (t.port .campus).counts.toList = [1, 0, 0, 0, 0, 0, 39, 0, 0]
      ∧ t.store.inFlight = some (.wear .factory) ∧ t.store.repair.length = 45 := by decide +kernel

/-- The worked case of crossing into WARN: WEAR_STATE WARN, then LAMP WARN_REACHED. -/
theorem test_warn :
    let s : State := { State.reset with
      wear := { State.reset.wear with running := true, record := { WearRecord.factory with wu := 2591992, lit := 59 } } }
    (after .litSecond s).wear.record.wu = 2592008
      ∧ (said (after .litSecond s) .campus).drop 1 = [(0xC1, [1, 1, 0, 0]), (0xC0, [4, 1, 0, 0])] := by decide +kernel

/-- R186: a completion taken first succeeds and the next write begins; the expiry of the first one's limit finds it over. -/
theorem test_stale_limit :
    let s : State := { State.reset with
      store := { State.reset.store with inFlight := some (.profile 0 zeroPair), queue := [.config], writes := 3 } }
    let t := after (.storeWriteComplete 3) s
    t.store.inFlight = some (s.imageOf .config) ∧ after (.storeWriteTimeout 3) t = t
      ∧ (after (.storeWriteTimeout 4) t).store.retry = some .config := by decide +kernel

/-- R53: at the entry to FAULT the notices are LAMP STATE FAULT, then LOCKOUT IN_FORCE of LAMP_LOCK. -/
theorem test_fault :
    let s : State := { lamp .cooldown with lamp := { (lamp .cooldown).lamp with attempts := 3, faultPending := true, startUp := true } }
    (said (after (.cooldownEnd 0) s) .campus).drop 1 = [(0xC0, [1, 6, 0, 3]), (0xC5, [1, 3, 0, 0x40])] := by decide +kernel

/-- R136: a recall that joins PANEL's switch to IN1 gives its requester to the switch's end. -/
theorem test_recall_joins :
    let s := { switching .locking toFirst with floor := State.reset.floor }
    ((after (.recallScene .campus) (asked s .campus .recallScene [0])).engine.inFlight.map Switch.requester) = some (some .campus) := by
  decide +kernel

/-- R139: with term week 12, the tick from Sunday minute 1439 gives Monday, minute 0, term week 13. -/
theorem test_clock_wrap :
    ({ isSet := true, minute := 1439, weekday := 6, week := 12, run := 3 } : Clock).tick
      = { isSet := true, minute := 0, weekday := 0, week := 13, run := 4 } := by decide

/-- R70: 450 becomes 500 and 3050 becomes 3000. -/
theorem test_rated_life : (clampRatedLife 450, clampRatedLife 3050, clampRatedLife 3000) = (500, 3000, 3000) := by decide

/-- R20: the bytes from TAG through CHECK sum to 0 modulo 256. -/
theorem test_frame_wire : Frame.wire { tag := 7, code := 0x10, payload := [2] } = [0xC3, 7, 0x10, 1, 2, 0xE6] := by decide

/-! ## The statements' hypotheses are met: the invariants -/

/-- `shown` with a store write in flight, whose completion the queue brings. -/
def saving : State :=
  { shown with store := { State.reset.store with inFlight := some (.profile 0 zeroPair), queue := [.config] },
               pending := [.storeWriteComplete 0] }

theorem witness_PortsApart :
    runs (exec (.storeWriteComplete 0) saving) = true ∧ portOf (.storeWriteComplete 0) ≠ some .panel ∧ isReset (.storeWriteComplete 0) = false := by
  decide +kernel
theorem witness_OwnersAlone :
    writesMemory .lampSenseRise = false ∧ movesClock .lampSenseRise = false ∧ movesUptime .lampSenseRise = false
      ∧ movesLines .litSecond = false ∧ writesAuthority .litSecond = false ∧ writesScenes .litSecond = false := by decide
theorem witness_PlacesKept : runs (step saving) = true ∧ PortsSound saving ∧ QueueSound saving := by decide +kernel
theorem witness_FieldsKept : runs (step saving) = true ∧ PairsSound saving ∧ RangesSound saving := by decide +kernel
theorem witness_WearStateKept : runs (step saving) = true ∧ BandSound saving := by decide +kernel
/-- The start of a CLOSED Monday's first minute waits in the queue. -/
def closing : State :=
  { shown with
    clock := { isSet := true, minute := 1439, weekday := 6, week := 59, run := 0 }, pending := [.clockMinuteTick 0],
    schedule := { State.reset.schedule with
      entries := State.reset.schedule.entries.set 23
        { inUse := true, kind := .closed, days := 1, start := 0, finish := 1440, parity := .any, scene := none, isProtected := false } } }

theorem witness_LockoutsAndScheduleKept : runs (step closing) = true ∧ LockoutsSound closing ∧ ScheduleSound closing := by decide +kernel
theorem witness_EngineKept : runs (step saving) = true ∧ Quiet saving ∧ EngineSound saving ∧ PowerSound saving := by decide +kernel
theorem witness_PictureKept :
    runs (step saving) = true ∧ Quiet saving ∧ EngineSound saving ∧ PowerSound saving ∧ TimingSound saving ∧ BlankSound saving := by
  decide +kernel

/-- CAMPUS waits as elect behind PANEL's switch, and the limit of the lock runs out. -/
def contended : State :=
  { switching .locking { toFirst with limit := some 255 } with
    floor := { holder := some .panel, hold := false, elect := some (.campus, .setMute), marker := true },
    pending := [.overallLockLimitExpiry 255] }

theorem witness_FloorKept :
    runs (step contended) = true ∧ Quiet contended ∧ EngineSound contended ∧ PowerSound contended ∧ FloorSound contended := by
  decide +kernel

/-! ## Serial lines and intake -/

/-- A frame of the longest payload. -/
def longest : Frame := { tag := 7, code := 0x40, payload := List.replicate 48 1 }

/-- Port p of s with these entries waiting, and an empty outbound queue. -/
def waiting (s : State) (p : Port) (l : List InEntry) : State := s.setPort p { s.port p with inbox := l, outq := [] }

theorem witness_FrameReceived : (State.reset.port .panel).rx = .hunting ∧ longest.payload.length ≤ 48 := by decide
theorem witness_LineRows :
    longest.payload.length ≤ 48 ∧ (State.reset.port .panel).rx = .hunting ∧ 2 ≤ 52 ∧ 52 < longest.wire.length ∧ 48 < (49#8).toNat
      ∧ ((after (.portReset .panel) State.reset).port .panel).rx = .breakHeld
      ∧ Quiet (waiting State.reset .panel [.bad 9]) ∧ ((waiting State.reset .panel [.bad 9]).port .panel).outq.length < 8
      ∧ ((waiting State.reset .panel [.bad 9]).port .panel).inbox.head? = some (.bad 9)
      ∧ ((waiting State.reset .panel [.frame longest]).port .panel).inbox.head? = some (.frame longest)
      ∧ (allCodes.all fun c => longest.code != codeByte c) = true := by decide +kernel
theorem witness_PortResetActs :
    let s (h : Option Requester) (e : Option (Requester × Cmd)) : State :=
      { State.reset with floor := { holder := h, hold := false, elect := e, marker := true } }
    (Quiet (s none none) ∧ (s none none).floor.holder ≠ some .panel ∧ ∀ e ∈ (s none none).floor.elect, e.1 ≠ .panel)
      ∧ (Quiet (s (some .panel) none) ∧ (s (some .panel) none).floor.holder = some .panel)
      ∧ (Quiet (s (some .panel) (some (.campus, .setMute))) ∧ (s (some .panel) (some (.campus, .setMute))).floor.holder = some .panel
        ∧ (s (some .panel) (some (.campus, .setMute))).floor.elect = some (.campus, .setMute) ∧ Requester.campus ≠ .panel)
      ∧ (Quiet (s (some .service) (some (.panel, .setMute))) ∧ (s (some .service) (some (.panel, .setMute))).floor.holder ≠ some .panel
        ∧ (s (some .service) (some (.panel, .setMute))).floor.elect = some (.panel, .setMute)) := by decide +kernel

/-- A lockout set by SERVICE. -/
def byService (k : LockKind) : Lockout := { kind := k, origin := .manual .service, reason := none, setAt := 0, expiry := none }

/-- The five records by hand that fill the set without CAMPUS's PANEL_HOLD. -/
def fiveByHand : List Lockout :=
  [byService .panelHold, { byService .panelHold with origin := .manual .panel }, byService .roomClosed,
    { byService .roomClosed with origin := .manual .campus }, { byService .roomClosed with origin := .manual .panel }]

/-- The write queue is full. -/
def queueFull : Store :=
  { State.reset.store with queue := [.authority, .profile 0, .profile 1, .profile 2, .profile 3, .scene 0, .scene 1, .scene 2] }

/-- Intake's hypotheses up to step 6, for SERVICE's commands. -/
def Taken (s : State) (c : Code) (pl : List Byte) : Bool :=
  decide (Quiet (asked s .service c pl)) && decide (((asked s .service c pl).port .service).outq.length < 8)
    && decide (pl.length = codeLength c)

theorem witness_RefusalChangesNothing :
    (Quiet (asked State.reset .service .lampOn [1]) ∧ ([1] : List Byte).length ≠ codeLength .lampOn)
      ∧ (Taken { State.reset with resetWait := some .toEnd } .lampOn [] ∧ State.reset.resetWait = none)
      ∧ ((asked State.reset .panel .storeScene [0]).mayUse .panel .storeScene = true
        ∧ (asked State.reset .panel .setLockout [2, 0, 0]).conditionsHold .panel .setLockout [2, 0, 0] = false
        ∧ State.reset.mayUse .panel .controllerReset = false)
      ∧ ({ State.reset with lockouts := [byService .serviceLock] } : State).lockedOut5 .panel .lampOn = true
      ∧ ({ State.reset with lockouts := [byService .roomClosed] } : State).lockedOut6 .panel .lampOn = true
      ∧ (Taken State.reset .storeScene [8] ∧ State.reset.mayUse .service .storeScene = true
        ∧ State.reset.conditionsHold .service .storeScene [8] = true ∧ State.reset.lockedOut5 .service .storeScene = false
        ∧ State.reset.lockedOut6 .service .storeScene = false ∧ parseCmd .storeScene [8] = none)
      ∧ (parseCmd .commitTrial [1] = some (.commitTrial 1, false) ∧ State.reset.ownerRefusal (.commitTrial 1) = some .wrongState)
      ∧ (Taken { State.reset with store := queueFull } .storeScene [7] ∧ parseCmd .storeScene [7] = some (.storeScene 7, false)
        ∧ ({ State.reset with store := queueFull } : State).ownerRefusal (.storeScene 7) = none
        ∧ ({ State.reset with store := queueFull } : State).isFloor (.storeScene 7) = false
        ∧ ({ State.reset with store := queueFull } : State).lateRefusal .service (.storeScene 7) = some .storeBusy)
      ∧ ({ State.reset with lockouts := fiveByHand } : State).lateRefusal .campus (.setLockout .panelHold none) = some .setFull
      ∧ (let c : Cmd := .setKeystone 0 ⟨30, 7⟩
         let open_ : State := { State.reset with store := { State.reset.store with fault := true } }
         let waits : State := { open_ with floor := { holder := some .panel, hold := false, elect := none, marker := true } }
         Taken open_ .setKeystone [0, 30, 7] ∧ Taken waits .setKeystone [0, 30, 7] ∧ parseCmd .setKeystone [0, 30, 7] = some (c, false)
           ∧ open_.ownerRefusal c = none ∧ open_.isFloor c = true ∧ open_.lateRefusal .service c = some .storeFault
           ∧ FloorOpens open_ .service ∧ FloorWaits waits .service) := by
  decide +kernel
theorem witness_ReadsAnswer :
    Ready State.reset .panel .readStatus [] ∧ Ready State.reset .panel .readSource [6] ∧ Ready State.reset .panel .readWear []
      ∧ Ready State.reset .panel .readProfile [3] ∧ Ready State.reset .panel .readScene [7] ∧ Ready State.reset .panel .readEntry [23]
      ∧ Ready { State.reset with lockouts := fiveByHand } .service .readLockouts [] ∧ Ready State.reset .panel .readAuthority []
      ∧ Ready State.reset .panel .readCounts [] := by decide +kernel
theorem witness_NoticeMask :
    Ready State.reset .panel .setNoticeMask (bytes16 511) ∧ Ready State.reset .panel .setNoticeMask (bytes16 512)
      ∧ PortBlock.reset.mask.getLsbD (classIndex .lamp).val = true ∧ PortBlock.reset.outq.length + 2 ≤ 8
      ∧ (asked { State.reset with resetWait := some .settled } .panel .lampOn []).resetReady = true := by decide +kernel

/-! ## Floor and PRESENT -/

/-- A floor with this holder, HOLD, marker and elect. -/
def floored (s : State) (h : Option Requester) (hold marker : Bool) (e : Option (Requester × Cmd)) : State :=
  { s with floor := { holder := h, hold := hold, elect := e, marker := marker } }

theorem witness_FloorContention :
    Ready (floored State.reset (some .service) true false none) .panel .setMute []
      ∧ FloorHeld (floored State.reset (some .service) true false none) .panel ∧ parseCmd .setMute [] = some (.setMute, false)
      ∧ (asked State.reset .panel .setMute []).ownerRefusal .setMute = none ∧ State.reset.isFloor .setMute = true
      ∧ Ready (floored State.reset (some .service) false true (some (.campus, .setMute))) .panel .setMute []
      ∧ FloorBusy (floored State.reset (some .service) false true (some (.campus, .setMute))) .panel
      ∧ State.reset.lateRefusal .panel .setMute = none
      ∧ Ready (floored State.reset (some .service) false true none) .panel .setMute []
      ∧ Ready (floored State.reset (some .service) false true (some (.console, .setMute))) .panel .setMute []
      ∧ FloorWaits (floored State.reset (some .service) false true none) .panel
      ∧ FloorWaits (floored State.reset (some .service) false true (some (.console, .setMute))) .panel := by decide +kernel
theorem witness_HoldAndRelease :
    Ready (floored State.reset (some .panel) true false none) .panel .holdFloor []
      ∧ (Ready (floored State.reset (some .panel) false true (some (.console, .setMute))) .panel .holdFloor []
        ∧ FloorOpens (floored State.reset (some .panel) false true (some (.console, .setMute))) .panel)
      ∧ Ready (floored State.reset none false false none) .panel .releaseFloor []
      ∧ Ready (floored State.reset (some .panel) true false none) .panel .releaseFloor [] := by decide +kernel
/-- PANEL holds the floor of s with a unit in flight, and CAMPUS waits with this command. -/
def electing (s : State) (c : Cmd) : State := floored s (some .panel) false true (some (.campus, c))

/-- PANEL's release hands the floor of s to CAMPUS, whose command steps 6 to 11 let pass. -/
def passesOn (s : State) (c : Cmd) : Bool :=
  Ready (electing s c) .panel .releaseFloor [] && decide ((electing s c).handOverRefusal .campus c = none ∧ s.engine.state ≠ .unmuting)

/-- The state after reset with scene 5 asking for power and the level NORMAL. -/
def lighting (s : State) : State :=
  { s with scenes := s.scenes.set 5 { input := 5, profile := 3, mute := true, level := .normal, power := .on } }

theorem witness_HandOver :
    let off : State := { State.reset with
      sources := State.reset.sources.set 5
        { settings := { SourceSettings.factory with enabled := false }, present := false, timing := none, remembered := none } }
    (Ready (electing off (.selectInput 5)) .panel .releaseFloor []
      ∧ (electing off (.selectInput 5)).handOverRefusal .campus (.selectInput 5) = some .badValue)
      ∧ (passesOn shown .holdFloor ∧ passesOn shown .setMute ∧ passesOn shown .clearMute)
      ∧ (passesOn shown (.selectProfile 0) ∧ passesOn shown (.selectProfile 3) ∧ shown.profiles.active = 0)
      ∧ (passesOn shown (.setKeystone 0 ⟨30, 7⟩) ∧ shown.winner 0 = none ∧ shown.effectivePair 0 ≠ ⟨30, 7⟩
        ∧ passesOn shown (.nudgeKeystone 0 .vUp) ∧ passesOn shown (.setKeystone 3 zeroPair))
      ∧ (passesOn State.reset (.selectInput 5) ∧ State.reset.engine.powered = false
        ∧ passesOn shown (.selectInput 0) ∧ passesOn (switching .locking toFirst) (.selectInput 5) ∧ passesOn shown (.selectInput 5))
      ∧ (passesOn State.reset (.recallScene 5) ∧ passesOn (switching .locking toFirst) (.recallScene 0)
        ∧ passesOn (lighting State.reset) (.recallScene 5) ∧ (lighting State.reset).recallLights .campus 5 = true
        ∧ State.reset.lamp.state = .off ∧ EngineSound State.reset ∧ State.reset.engine.blankReq = none) := by
  decide +kernel
/-- `shown` with a switch to IN1 in UNMUTING for PANEL, the picture still blanked. -/
def revealing : State :=
  { shown with
    floor := { holder := some .panel, hold := false, elect := none, marker := true },
    engine := { shown.engine with state := .unmuting, inFlight := some toFirst, blank := .blanked,
                                  blankReq := some { kind := .unblank, num := 255 } } }

/-- A SET_MUTE from PANEL, the holder, finds s in UNMUTING. -/
def endsMuted (s : State) : Bool :=
  Ready s .panel .setMute [] && decide (FloorOpens s .panel ∧ s.engine.state = .unmuting ∧ s.engine.inFlight = some toFirst
    ∧ s.engine.compHeld = false)

theorem witness_MuteActs :
    (Ready shown .panel .setMute [] ∧ FloorOpens shown .panel ∧ shown.engine.state ≠ .unmuting ∧ Ready shown .panel .clearMute [])
      ∧ (endsMuted revealing ∧ ChainLast revealing)
      ∧ (let s : State := { revealing with engine := { revealing.engine with owedRelock := true } }
         endsMuted s ∧ ChainLast s)
      ∧ endsMuted { revealing with engine := { revealing.engine with pendingTarget := some { input := 5, requester := .panel } } }
      ∧ (let s : State := floored revealing (some .panel) false true (some (.campus, .clearMute))
         endsMuted s ∧ s.handOverRefusal .campus .clearMute = none) := by
  decide +kernel
theorem witness_SelectWithoutStart :
    (Ready State.reset .panel .selectInput [6] ∧ State.reset.enabled 5 = true ∧ FloorOpens State.reset .panel
      ∧ State.reset.engine.powered = false)
      ∧ (Ready shown .panel .selectInput [1] ∧ shown.engine.powered = true ∧ shown.engine.inFlight = none ∧ shown.engine.routed = 0
        ∧ (shown.source 0).timing ≠ none ∧ shown.engine.blank ≠ .unknown ∧ FloorOpens shown .panel)
      ∧ (let s := switching .locking toFirst
         Ready s .panel .selectInput [1] ∧ Ready s .panel .selectInput [6] ∧ FloorOpens s .panel ∧ s.engine.powered = true
           ∧ s.engine.inFlight = some toFirst)
      ∧ (let s : State := { switching .locking toFirst with
           engine := { (switching .locking toFirst).engine with pendingTarget := some { input := 5, requester := .campus } },
           recallNow := some { scene := 5, requester := .campus, input := 5 } }
         Ready s .panel .selectInput [1] ∧ Ready s .panel .selectInput [5] ∧ FloorOpens s .panel
           ∧ (s.engine.displaced 0 4).map PendingTarget.input = some 5) := by decide +kernel
theorem witness_SelectStarts :
    let s (b : BlankRecord) (q : Option BlankRequest) : State :=
      { shown with engine := { shown.engine with blank := b, blankReq := q } }
    let good (s : State) : Bool := decide (Ready s .panel .selectInput [6] ∧ s.enabled 5 = true ∧ FloorOpens s .panel ∧ s.engine.powered = true
      ∧ s.engine.inFlight = none ∧ s.engine.pendingTarget = none ∧ s.standing 5 = false)
    good (s .unblanked (some { kind := .blank, num := 1 })) ∧ good (s .unblanked none) ∧ good (s .blanked none) := by decide +kernel
theorem witness_RecallActs :
    let good (s : State) (k : SceneIdx) : Bool := decide (Ready s .panel .recallScene [byte k.val] ∧ s.enabled s.scenes[k].input = true
      ∧ FloorOpens s .panel)
    let idle (s : State) : Bool := decide (s.engine.powered = true ∧ s.engine.inFlight = none ∧ s.engine.state = .idle
      ∧ s.engine.pendingTarget = none)
    let other : State := { shown with profiles := { shown.profiles with active := 3 } }
    let cooling : State := lighting { shown with lamp := { shown.lamp with state := .cooldown }, wear := { shown.wear with band := .expired } }
    (good State.reset 5 ∧ State.reset.recallLights .panel 5 = false ∧ State.reset.engine.powered = false
      ∧ State.reset.engine.inFlight = none ∧ State.reset.engine.state = .idle)
      ∧ (good shown 5 ∧ idle shown ∧ shown.standing shown.scenes[(5 : SceneIdx)].input = false)
      ∧ (good shown 0 ∧ shown.standing 0 = true ∧ shown.scenes[(0 : SceneIdx)].profile = shown.profiles.active)
      ∧ (good other 0 ∧ idle other ∧ other.standing 0 = true ∧ other.profiles.active ≠ other.scenes[(0 : SceneIdx)].profile)
      ∧ (good (switching .locking toFirst) 0 ∧ good (switching .applying toFirst) 5
        ∧ (switching .locking toFirst).engine.state ≠ .unmuting)
      ∧ (let silent : State := { revealing with scenes := Vector.replicate 8 { Scene.factory 0 with mute := true } }
         good silent 0 ∧ silent.engine.state = .unmuting ∧ silent.engine.powered = true ∧ silent.engine.inFlight = some toFirst
           ∧ silent.engine.compHeld = false ∧ silent.scenes[(0 : SceneIdx)].mute = true ∧ silent.lamp.state ≠ .off)
      ∧ (good cooling 5 ∧ cooling.recallLights .panel 5 = true ∧ (cooling.levelGiven .panel cooling.scenes[(5 : SceneIdx)]) = (some .eco, true))
      ∧ (good (lighting State.reset) 5 ∧ (lighting State.reset).recallLights .panel 5 = true ∧ (lighting State.reset).lamp.state = .off
        ∧ EngineSound (lighting State.reset) ∧ (lighting State.reset).engine.powered = false
        ∧ (lighting State.reset).engine.blankReq = none) := by decide +kernel

/-! ## POWER -/

theorem witness_LampOnActs :
    (Ready { State.reset with wear := { State.reset.wear with replacement := .toEnd } } .panel .lampOn []
      ∧ ({ State.reset with wear := { State.reset.wear with replacement := .toEnd } } : State).replacing = true)
      ∧ (Ready State.reset .panel .lampOn [] ∧ EngineSound State.reset ∧ State.reset.lamp.state = .off ∧ State.reset.replacing = false
        ∧ State.reset.engine.powered = false ∧ State.reset.engine.blankReq = none)
      ∧ Ready (lamp .striking) .panel .lampOn [] ∧ Ready (lamp .warmup) .panel .lampOn [] ∧ Ready (lamp .cooldown) .panel .lampOn []
      ∧ (lamp .cooldown).replacing = false := by decide +kernel
theorem witness_LampLevelSet :
    Ready (lamp .warmup) .panel .setLampLevel [byte (levelCode .eco)]
      ∧ Ready (lamp .lit) .panel .setLampLevel [byte (levelCode .normal)]
      ∧ worn .endOfLife = true := by decide +kernel
theorem witness_LampOffActs :
    Ready State.reset .panel .lampOff [] ∧ Ready (lamp .warmup) .panel .lampOff [] ∧ Ready (lamp .cooldown) .panel .lampOff []
      ∧ Ready (lamp .lit) .panel .lampOff [] := by decide +kernel

/-! ## ADJUST -/

/-- T1 overlays profile q with no correction. -/
def trial (s : State) (q : ProfileIdx) : State :=
  { s with profiles := { s.profiles with slots := s.profiles.slots.set 1 (some { target := q, pair := zeroPair }) } }

theorem witness_GeometryLimits : Keystone.inLimits ⟨-30, -7⟩ = true ∧ 0 < 1 := by decide
theorem witness_KeystoneWritten :
    State.reset.profiles.active ≠ 3
      ∧ Ready State.reset .service .setKeystone [3, 0x80, 0x7F] ∧ State.reset.winner 3 = none ∧ StoreTakes State.reset (.profile 3)
      ∧ Ready (trial State.reset 3) .service .setKeystone [3, 30, 20] ∧ (trial State.reset 3).winner 3 = some 1
      ∧ Ready State.reset .service .nudgeKeystone [3, 3] ∧ Ready (trial State.reset 3) .service .nudgeKeystone [3, 0] := by decide +kernel
theorem witness_ActiveKeystoneWritten :
    Ready (trial shown 0) .service .setKeystone [0, 30, 20] ∧ FloorOpens (trial shown 0) .service ∧ (trial shown 0).profiles.active = 0
      ∧ (trial shown 0).winner 0 = some 1
      ∧ (Ready shown .service .setKeystone [0, 0x80, 0x7F] ∧ shown.winner 0 = none ∧ StoreTakes shown (.profile 0) ∧ FloorOpens shown .service
        ∧ shown.profiles.active = 0)
      ∧ Ready shown .service .nudgeKeystone [0, 3] ∧ Ready (trial shown 0) .service .nudgeKeystone [0, 0] := by decide +kernel
theorem witness_ProfileSelected :
    Ready shown .service .selectProfile [0] ∧ Ready shown .service .selectProfile [3] ∧ FloorOpens shown .service
      ∧ shown.profiles.active = 0 := by decide +kernel
theorem witness_TrialsAct :
    Ready State.reset .service .openTrial [1, 3] ∧ State.reset.winner 0 = none ∧ State.reset.profiles.active = 0
      ∧ Ready (trial State.reset 3) .service .discardTrial [1] ∧ (trial State.reset 3).winner 0 = none
      ∧ (let s := trial { shown with profiles := { shown.profiles with stored := shown.profiles.stored.set 0 ⟨10, -5⟩ } } 0
         Ready s .service .openTrial [1, 0] ∧ Ready s .service .discardTrial [1] ∧ Ready s .service .commitTrial [1]
           ∧ s.winner s.profiles.active = some 1 ∧ StoreTakes s (.profile 0))
      ∧ Ready State.reset .service .commitTrial [0] ∧ State.reset.slot 0 = none
      ∧ Ready (trial State.reset 3) .service .commitTrial [1] ∧ (trial State.reset 3).slot 1 = some { target := 3, pair := zeroPair }
      ∧ StoreTakes (trial State.reset 3) (.profile 3) := by decide +kernel
theorem witness_SceneStored :
    (Ready { State.reset with store := { State.reset.store with fault := true } } .service .storeScene [7])
      ∧ (Ready { State.reset with store := queueFull } .service .storeScene [7]
        ∧ ¬ StoreTakes { State.reset with store := queueFull } (.scene 7))
      ∧ (Ready State.reset .service .storeScene [7] ∧ StoreTakes State.reset (.scene 7))
      ∧ (let s : State := { State.reset with
           sources := State.reset.sources.set 0
             { settings := { SourceSettings.factory with enabled := false }, present := false, timing := none, remembered := none } }
         Ready s .panel .recallScene [0] ∧ s.enabled s.scenes[0].input = false) := by decide +kernel
theorem witness_AspectSet :
    Ready shown .service .setSourceAspect [1, byte (overrideCode .fill)] ∧ StoreTakes shown (.source 0)
      ∧ Ready shown .service .setSourceAspect [6, byte (overrideCode .std)] ∧ StoreTakes shown (.source 5) := by decide +kernel
theorem witness_InputEnabled :
    (15#8).toNat ≤ 15
      ∧ Ready { State.reset with store := { State.reset.store with fault := true } } .service .setInputEnable [6, 0, 15]
      ∧ Ready { State.reset with store := queueFull } .service .setInputEnable [6, 0, 15]
      ∧ Ready State.reset .service .setInputEnable [6, 0, 15] ∧ StoreTakes State.reset (.source 5)
      ∧ (let s : State := { State.reset with
           sources := State.reset.sources.set 5
             { settings := { SourceSettings.factory with enabled := false }, present := true, timing := none, remembered := none } }
         Ready s .panel .selectInput [6] ∧ s.enabled 5 = false) := by decide +kernel

/-! ## PLAN and the schedule -/

/-- The clock is set to the last minute of Sunday, week 59. -/
def lateSunday : State := { State.reset with clock := { isSet := true, minute := 1439, weekday := 6, week := 59, run := 0 } }

/-- A CLOSED entry 23 on Mondays from midnight. -/
def closedMonday : State := { closing with pending := [] }

/-- The session of entry 5 governs to the end of Sunday. -/
def sessionLeft : State :=
  { lateSunday with schedule := { State.reset.schedule with remembered := some { index := 5, kind := .session, scene := some 0 } } }

theorem witness_EntriesWritten :
    StoreTakes State.reset (.entry 23)
      ∧ Ready State.reset .service .writeEntry ([23, byte (entryKindCode .closed), 127] ++ bytes16 1439 ++ bytes16 1440 ++ [2, 7])
      ∧ State.reset.effective = State.reset.schedule.remembered
      ∧ Ready State.reset .service .eraseEntry [23] ∧ Ready State.reset .service .protectEntry [23, 1]
      ∧ (let s : State := { closedMonday with clock := { closedMonday.clock with minute := 0, weekday := 0 } }
         Ready s .service .eraseEntry [23] ∧ StoreTakes s (.entry 23) ∧ s.effective ≠ s.schedule.remembered) := by decide +kernel
theorem witness_EffectiveEntry :
    ({ closedMonday with clock := closedMonday.clock.tick } : State).effective = some { index := 23, kind := .closed, scene := none } := by
  decide +kernel
theorem witness_MinuteTicks :
    Ready State.reset .service .setClock (bytes16 1439 ++ [6, 60])
      ∧ ({ State.reset with clock := { isSet := true, minute := 1439, weekday := 6, week := 60, run := 1 } } : State).effective
          = State.reset.schedule.remembered
      ∧ (Quiet State.reset ∧ State.reset.clock.isSet = false)
      ∧ (Quiet lateSunday ∧ lateSunday.clock.isSet = true ∧ lateSunday.clock.minute ≤ 1439 ∧ lateSunday.clock.weekday ≤ 6
        ∧ ({ lateSunday with clock := lateSunday.clock.tick } : State).effective = lateSunday.schedule.remembered)
      ∧ (Quiet sessionLeft ∧ sessionLeft.schedule.remembered = some { index := 5, kind := .session, scene := some 0 }
        ∧ ({ sessionLeft with clock := sessionLeft.clock.tick } : State).effective = none ∧ sessionLeft.schedule.grace ≠ 0)
      ∧ (let left (k : EntryKind) (l : LockKind) : State := { sessionLeft with
           schedule := { sessionLeft.schedule with remembered := some { index := 5, kind := k, scene := some 0 }, grace := 0 },
           lockouts := [{ kind := l, origin := .schedule 5, reason := none, setAt := 0, expiry := none }], lamp := (lamp .lit).lamp }
         (Quiet (left .exam .panelHold) ∧ (left .exam .panelHold).inForce .serviceLock = false
           ∧ lostNotices (left .exam .panelHold).lockouts [] ≠ [] ∧ (left .exam .panelHold).resetWait = none)
           ∧ Quiet (left .closed .roomClosed) ∧ lostNotices (left .closed .roomClosed).lockouts [] ≠ []
           ∧ Ready (left .exam .panelHold) .service .setClock (bytes16 0 ++ [byte 0, byte 0])
           ∧ ({ left .exam .panelHold with clock := { isSet := true, minute := 0, weekday := 0, week := 0, run := 1 } } : State).effective
               = none) := by
  decide +kernel
/-- Entry 23 of `closedMonday` is an EXAM or a SESSION with scene 5, in this room. -/
def booked (s : State) (k : EntryKind) : State :=
  { s with
    clock := closedMonday.clock,
    schedule := { closedMonday.schedule with
      entries := State.reset.schedule.entries.set 23
        { inUse := true, kind := k, days := 1, start := 0, finish := 1440, parity := .any, scene := some 5, isProtected := false } } }

/-- Entry 5 governed s with this kind and scene, and the lockout it calls for. -/
def following (s : State) (k : EntryKind) (c : SceneIdx) : State :=
  { s with
    schedule := { s.schedule with remembered := some { index := 5, kind := k, scene := if k = .closed then none else some c } },
    lockouts := (bookedKind (some k)).toList.map fun l =>
      { kind := l, origin := .schedule 5, reason := none, setAt := 0, expiry := none } }

theorem witness_BookingBegins :
    let begins (s : State) (x : Effective) : Bool := decide (Quiet s ∧ s.clock.isSet = true ∧ s.schedule.remembered ≠ some x
      ∧ ({ s with clock := s.clock.tick } : State).effective = some x)
    let x (k : EntryKind) : Effective := { index := 23, kind := k, scene := some 5 }
    let closed : Effective := { index := 23, kind := .closed, scene := none }
    let freed : State := { booked (floored shown (some .panel) true false none) .exam with lockouts := [byService .roomClosed] }
    let locked : State := { booked shown .session with lockouts := [byService .serviceLock] }
    let busy : State := booked (floored (switching .locking toFirst) (some .panel) false true none) .session
    let dark : State := booked State.reset .exam
    (begins closedMonday closed ∧ closedMonday.inForce .roomClosed = false ∧ closedMonday.lamp.state = .lit)
      ∧ (begins { closedMonday with lockouts := [byService .roomClosed] } closed ∧ begins (following closedMonday .closed 0) closed)
      ∧ (begins freed (x .exam) ∧ freed.inForce .panelHold = false ∧ freed.floor.under .panelHold = ⟨none, false, none, false⟩
        ∧ freed.innerRefusal .schedule (.recallScene 5) = none ∧ freed.lamp.state ≠ .off)
      ∧ (begins locked (x .session) ∧ locked.innerRefusal .schedule (.recallScene 5) ≠ none)
      ∧ (begins busy (x .session) ∧ busy.innerRefusal .schedule (.recallScene 5) = none ∧ FloorWaits busy .schedule)
      ∧ (begins dark (x .exam) ∧ dark.resetWait = none ∧ dark.innerRefusal .schedule .lampOn = none ∧ dark.lamp.state = .off
        ∧ EngineSound dark ∧ dark.engine.powered = false ∧ dark.engine.blankReq = none ∧ FloorOpens dark .schedule)
      ∧ (begins (following freed .exam 5) (x .exam) ∧ begins (following busy .exam 5) (x .session)
        ∧ begins (following busy .exam 0) (x .session) ∧ begins (following dark .closed 0) (x .exam)
        ∧ (following dark .session 5).innerRefusal .schedule .lampOn = none ∧ begins (following dark .session 5) (x .exam))
      ∧ (begins (floored dark (some .service) true false none) (x .exam)
        ∧ FloorHeld (floored dark (some .service) true false none) .schedule)
      ∧ (Ready dark .panel .setClock (bytes16 0 ++ [byte 0, byte 60]) = false
        ∧ Ready dark .service .setClock (bytes16 0 ++ [byte 0, byte 60])
        ∧ ({ dark with clock := { isSet := true, minute := 0, weekday := 0, week := 60, run := 1 } } : State).effective
            = some (x .exam)) := by
  decide +kernel
theorem witness_UptimeAndDeferral :
    let s (due : Bool) : State := { shown with
      uptime := 45,
      schedule := { State.reset.schedule with deferral := some { entryLeft := 5, start := 0, quietFrom := 34, due := due } } }
    (Quiet shown ∧ shown.schedule.deferral = none) ∧ Quiet (s false)
      ∧ (Quiet (s true) ∧ 34 + 1 + (s true).schedule.grace ≤ (s true).uptime ∧ (s true).resetWait = none
        ∧ (s true).inForce .serviceLock = false ∧ (s true).lamp.state = .lit)
      ∧ (let k : State := { s true with lockouts := [byService .serviceLock] }
         Quiet k ∧ k.inForce .serviceLock = true) := by decide +kernel

/-! ## GUARD and lockouts -/

theorem witness_LockoutSet :
    let s (l : List Lockout) : State := { State.reset with lockouts := l }
    let own : Lockout := { byService .panelHold with origin := .manual .campus }
    (Ready (s [own]) .campus .setLockout (0 :: bytes16 1441) ∧ (s [own]).inForce .panelHold = true)
      ∧ (Ready (s [byService .panelHold]) .campus .setLockout (0 :: bytes16 0) ∧ (s [byService .panelHold]).inForce .panelHold = true
        ∧ ((s [byService .panelHold]).lockouts.filter Lockout.byHand).length < 5)
      ∧ (Ready (s fiveByHand) .campus .setLockout (0 :: bytes16 1) ∧ (s fiveByHand).inForce .panelHold = true
        ∧ 5 ≤ ((s fiveByHand).lockouts.filter Lockout.byHand).length)
      ∧ (Ready (s [byService .serviceLock]) .service .setLockout (2 :: bytes16 65535)
        ∧ (s [byService .serviceLock]).inForce .serviceLock = true ∧ StoreTakes (s [byService .serviceLock]) .lockout) := by
  decide +kernel
theorem witness_LockoutComes :
    let s : State := floored State.reset (some .panel) false false (some (.console, .setMute))
    let waits : State := { s with lamp := { s.lamp with state := .cooldown, pendingOn := some .lamp } }
    let few (s : State) (k : LockKind) : Bool := decide (s.inForce k = false ∧ (s.lockouts.filter Lockout.byHand).length < 5)
    (Ready s .campus .setLockout [0, 0, 0] ∧ few s .panelHold)
      ∧ (Ready waits .service .setLockout [2, 0, 0] ∧ few waits .serviceLock ∧ StoreTakes waits .lockout)
      ∧ (Ready shown .campus .setLockout (1 :: bytes16 1441) ∧ few shown .roomClosed ∧ shown.lamp.state = .lit)
      ∧ (Ready (lamp .warmup) .campus .setLockout (1 :: bytes16 1) ∧ few (lamp .warmup) .roomClosed) := by decide +kernel
theorem witness_LockoutsEnd :
    Ready { State.reset with lockouts := fiveByHand } .campus .clearLockout [0]
      ∧ (Ready { State.reset with lockouts := [byService .serviceLock] } .service .clearLockout [2]
        ∧ StoreTakes { State.reset with lockouts := [byService .serviceLock] } .lockout)
      ∧ Quiet { State.reset with lockouts := [{ byService .panelHold with expiry := some 1 }], uptime := 1 }
      ∧ Quiet { State.reset with lockouts := [{ byService .serviceLock with expiry := some 1440 }], uptime := 1440 } := by decide +kernel

/-! ## SERVICE -/

theorem witness_SettingsWritten :
    StoreTakes State.reset .config ∧ StoreTakes State.reset .authority ∧ Ready State.reset .service .setGrace [31]
      ∧ Ready State.reset .service .setIrRoom [15] ∧ Ready State.reset .service .setIrRoom [0xFF]
      ∧ Ready State.reset .service .setRatedLife (bytes16 65535)
      ∧ (let s : State := { shown with wear := { shown.wear with record := { WearRecord.factory with wu := 550000 } } }
         Ready s .service .setRatedLife (bytes16 500) ∧ StoreTakes s .config
           ∧ ({ s with wear := { s.wear with ratedLife := 500 } } : State).newlyExpired = true)
      ∧ Ready State.reset .service .writeAuthority [0, 0] ∧ Ready State.reset .service .writeAuthority [4, 127] := by decide +kernel

/-- A lamp's identity of eight bytes. -/
def identity : Vector Byte 8 := Vector.replicate 8 0x41

theorem witness_LampReplaced :
    let s (why : Option LockReason) : State := { lamp .fault with
      lockouts := [{ kind := .lampLock, origin := .lamp, reason := why, setAt := 0, expiry := none }] }
    let good (s : State) : Bool := decide ((s.lamp.state = .off ∨ s.lamp.state = .fault) ∧ s.replacing = false ∧ s.store.fault = false
      ∧ LockoutsSound s)
    (good (s (some .expired)) ∧ Ready (s (some .expired)) .service .replaceLamp (0 :: identity.toList))
      ∧ (Ready (s (some .expired)) .service .replaceLamp (1 :: identity.toList) ∧ (s (some .expired)).expiredLocked = true)
      ∧ (good (s (some .ignition)) ∧ Ready (s (some .ignition)) .service .replaceLamp (1 :: identity.toList)
        ∧ (s (some .ignition)).expiredLocked = false ∧ (s (some .ignition)).lampRecord ≠ none) := by decide +kernel
theorem witness_StoreFaultCleared :
    let s : State := { State.reset with store := { queueFull with fault := true, slot := some .factory, retry := some .config } }
    Ready State.reset .service .clearStoreFault [] ∧ State.reset.store.fault = false
      ∧ (Ready s .service .clearStoreFault [] ∧ s.store.fault = true ∧ s.store.inFlight = none)
      ∧ (Quiet saving ∧ saving.store.inFlight ≠ none) := by decide +kernel
theorem witness_ResetAsked :
    Ready { State.reset with store := { State.reset.store with fault := true } } .service .controllerReset []
      ∧ (Ready saving .service .controllerReset [] ∧ saving.store.fault = false ∧ saving.store.inFlight ≠ none)
      ∧ (Ready State.reset .service .controllerReset [] ∧ State.reset.store.inFlight = none) := by decide +kernel

/-! ## Lamp -/

/-- The lamp has had this many attempts. -/
def tried (l : LampState) (n : Nat) : State := { lamp l with lamp := { (lamp l).lamp with attempts := n } }

/-- A LAMP_LOCK of the lamp's own. -/
def lampLocked (s : State) : State :=
  { s with lockouts := [{ kind := .lampLock, origin := .lamp, reason := some .expired, setAt := 0, expiry := none }] }

theorem witness_IgnitionEvents :
    (Quiet (lamp .striking) ∧ (lamp .striking).lines.lampSense = false) ∧ (Quiet (lamp .lit) ∧ (lamp .lit).lines.lampSense = false)
      ∧ (Quiet (tried .striking 2) ∧ (tried .striking 2).lamp.attempts < 3) ∧ (tried .striking 3).lamp.attempts = 3
      ∧ (Quiet (lampLocked (lamp .retryPause)) ∧ (lampLocked (lamp .retryPause)).inForce .lampLock = true)
      ∧ (Quiet (lamp .retryPause) ∧ (lamp .retryPause).inForce .lampLock = false
        ∧ (lamp .retryPause).lamp.run = 0)
      ∧ (Quiet (lamp .warmup) ∧ (lamp .warmup).lamp.heldOff = false)
      ∧ Quiet { lamp .warmup with lamp := { (lamp .warmup).lamp with heldOff := true } } := by decide +kernel
theorem witness_CooldownEnds :
    let good (s : State) : Bool := decide (Quiet s ∧ s.lamp.state = .cooldown ∧ s.lamp.run = 0
      ∧ (∀ x ∈ s.lockouts, x.origin = .thermal ↔ x.kind = .thermalLock))
    let cool (s : State) (start f : Bool) (a : Option LampAsker) : State :=
      { s with lamp := { s.lamp with state := .cooldown, startUp := start, faultPending := f, pendingOn := a } }
    let aborting : State := switching .locking toFirst
    (good (cool shown false false none) ∧ good (cool State.reset true false none))
      ∧ (good (cool aborting false false none) ∧ aborting.engine.inFlight.isSome = true ∧ aborting.floor.marker = true
        ∧ aborting.floor.elect = none ∧ aborting.holderBarred = false)
      ∧ (good (cool { shown with lockouts := [byService .roomClosed] } false false (some .lamp))
        ∧ ({ shown with lockouts := [byService .roomClosed] } : State).askerPasses .lamp = false)
      ∧ (good (cool shown false true (some (.requester .panel))) ∧ good (cool (lampLocked State.reset) true true none))
      ∧ (good (cool shown false false (some .lamp)) ∧ shown.askerPasses .lamp = true)
      ∧ (let s := cool State.reset true false (some (.requester .panel))
         good s ∧ s.askerPasses (.requester .panel) = true ∧ EngineSound s ∧ s.engine.powered = false ∧ s.engine.blankReq = none)
      ∧ (let s := after .thermHotDeassert (after .overheat (lamp .lit))
         Quiet s ∧ s.lamp.state = .cooldown ∧ s.thermalPresent = true ∧ s.lines.thermHot = false
           ∧ s.lamp.faultPending = false ∧ s.lamp.pendingOn = none ∧ (∀ x ∈ s.lockouts, x.origin = .thermal ↔ x.kind = .thermalLock)) := by
  decide +kernel
theorem witness_DropOutActs :
    let s (h u : Bool) : State := { shown with lamp := { shown.lamp with heldOff := h, restrikeUsed := u } }
    (Quiet shown ∧ shown.lines.lampSense = true ∧ shown.lamp.state = .lit) ∧ Quiet (s true false) ∧ Quiet (s false true)
      ∧ (let k : State := { s false false with lockouts := [byService .serviceLock] }
         Quiet k ∧ k.inForce .serviceLock = true ∧ k.lines.lampSense = true)
      ∧ (s false false).inForce .serviceLock = false
      ∧ (let k : State := { lamp .off with lines := { lampSense := true, thermHot := false } }
         Quiet k ∧ k.lines.lampSense = true ∧ k.lamp.state ≠ .warmup ∧ k.lamp.state ≠ .lit) := by decide +kernel
theorem witness_HeatActs :
    let good (s : State) : Bool := decide (Quiet s ∧ s.lines.thermHot = false ∧ s.thermalPresent = s.inForce .thermalLock)
    let hot (s : State) : State := after .overheat s
    (let bounced : State := after .thermHotDeassert (hot (lamp .lit))
     good bounced ∧ bounced.thermalPresent = true ∧ bounced.lamp.state = .cooldown) ∧ good State.reset ∧ good (lamp .cooldown) ∧ good (lamp .lit)
      ∧ (Quiet (hot (lamp .lit)) ∧ (hot (lamp .lit)).lines.thermHot = true ∧ (hot (lamp .lit)).lamp.state = .cooldown)
      ∧ (Quiet (hot State.reset) ∧ (hot State.reset).lines.thermHot = true ∧ (hot State.reset).lamp.state ≠ .cooldown
        ∧ (∀ x ∈ (hot State.reset).lockouts, x.origin = .thermal ↔ x.kind = .thermalLock) ∧ (hot State.reset).thermalPresent = true) := by
  decide +kernel
theorem witness_LitSecondCounts :
    let s (lit since wu : Nat) (b : WearBand) : State :=
      { shown with wear := { shown.wear with
          sinceCheckpoint := since, band := b, record := { WearRecord.factory with lit := lit, wu := wu } } }
    let booked (wu : Nat) (b : WearBand) : State := s 0 0 (wu + 16) b
    (Quiet State.reset ∧ State.reset.wear.running = false) ∧ (Quiet (s 58 0 0 .good) ∧ (s 58 0 0 .good).wear.running = true)
      ∧ (Quiet (s 59 13 2591992 .good) ∧ (booked 2591992 .good).newlyExpired = false ∧ bandOfRatio (booked 2591992 .good).ratio = .warn)
      ∧ (Quiet (s 59 0 2879992 .warn) ∧ (booked 2879992 .warn).ecoForced = true ∧ (booked 2879992 .warn).newlyExpired = false)
      ∧ (Quiet (s 59 14 3167992 .endOfLife) ∧ (booked 3167992 .endOfLife).newlyExpired = true) := by decide +kernel

/-! ## Sources and the scaler -/

theorem witness_SignalActs :
    let dull : State := { switching .idle toFirst with
      sources := State.reset.sources, engine := { shown.engine with blank := .blanked, compHeld := true } }
    let quiet (s : State) : Bool := decide (Quiet s ∧ s.engine.compHeld = s.composition)
    let routed (s : State) (e : EngineState) (present : Bool) : Bool :=
      quiet s && decide ((0 : InputIdx) = s.engine.routed ∧ s.engine.powered = true ∧ s.engine.state = e ∧ (s.source 0).present = present)
    let flying (e : EngineState) : State := { switching e toFirst with engine := { (switching e toFirst).engine with compHeld := true } }
    let gone (e : EngineState) : State := { flying e with sources := State.reset.sources }
    let ending : State := { shown with engine := { shown.engine with state := .unmuting, inFlight := some toFirst, blank := .blanked } }
    (quiet shown ∧ (5 : InputIdx) ≠ shown.engine.routed ∧ (shown.source 5).present = false)
      ∧ (quiet (after (.sigRise 5) shown) ∧ ((after (.sigRise 5) shown).source 5).present = true)
      ∧ (quiet State.reset ∧ State.reset.engine.powered = false ∧ (State.reset.source 0).timing = none
        ∧ (0 : InputIdx) = State.reset.engine.routed)
      ∧ (routed dull .idle false ∧ dull.engine.inFlight = none ∧ (dull.source 0).timing = none)
      ∧ (routed (gone .muting) .muting false ∧ routed (gone .locking) .locking false ∧ routed (gone .applying) .applying false
        ∧ (gone .locking).engine.inFlight = some toFirst ∧ ((gone .applying).source 0).timing = none)
      ∧ (routed shown .idle true ∧ shown.engine.inFlight = none)
      ∧ (routed (flying .muting) .muting true ∧ routed (flying .locking) .locking true ∧ routed (flying .applying) .applying true
        ∧ ((flying .locking).source 0).timing = none)
      ∧ (routed ending .unmuting true ∧ ending.engine.inFlight = some toFirst ∧ ChainLast ending ∧ ending.engine.owedRelock = false) := by
  decide +kernel

/-- A blank request outstanding. -/
def blanking (s : State) (k : BlankKind) : State := { s with engine := { s.engine with blankReq := some { kind := k, num := 255 } } }

theorem witness_BlankReplies :
    let held : State := { shown with engine := { shown.engine with userMute := true, compHeld := true } }
    let unmuting : State := blanking
      { shown with engine := { shown.engine with state := .unmuting, inFlight := some toFirst, blank := .blanked } } .unblank
    let asks (s : State) (k : BlankKind) : Bool := decide (Quiet s ∧ s.engine.blankReq = some { kind := k, num := 255 }
      ∧ s.engine.compHeld = s.composition ∧ s.engine.powered = true)
    (asks (blanking held .blank) .blank ∧ held.composition = true ∧ held.engine.state = .idle)
      ∧ (asks (blanking shown .blank) .blank ∧ shown.composition = false ∧ shown.engine.state = .idle)
      ∧ asks (blanking held .unblank) .unblank ∧ asks (blanking shown .unblank) .unblank
      ∧ (asks (blanking (switching .muting toFirst) .blank) .blank ∧ (switching .muting toFirst).composition = true)
      ∧ (asks unmuting .unblank ∧ unmuting.composition = false ∧ ChainLast unmuting ∧ unmuting.engine.owedRelock = false)
      ∧ (let s : State := { unmuting with engine := { unmuting.engine with owedRelock := true } }
         asks s .unblank ∧ ChainLast s ∧ s.composition = false)
      ∧ (let s : State :=
           { unmuting with engine := { unmuting.engine with pendingTarget := some { input := 5, requester := .campus } } }
         asks s .unblank ∧ s.composition = false)
      ∧ (Quiet shown ∧ shown.engine.blankReq = none)
      ∧ (let s : State := blanking (switching .muting toFirst) .blank
         Quiet s ∧ s.engine.inFlight = some toFirst ∧ ChainLast s ∧ s.engine.owedRelock = false)
      ∧ (let s : State := blanking (switching .muting toFirst) .blank
         Quiet { s with engine := { s.engine with pendingTarget := some { input := 5, requester := .campus } } }) := by decide +kernel

/-- A lock attempt in this mode, with this pending target. -/
def attempt (m : LockMode) (x : Option PendingTarget) : State :=
  let s := switching .locking { toFirst with lockMode := some m, window := some 3000, limit := some 255 }
  { s with engine := { s.engine with lockReq := some { num := 255, mode := m, timing := none }, pendingTarget := x } }

theorem witness_LockReplies :
    (let s := attempt .quick none
     Quiet s ∧ s.engine.state = .locking ∧ s.engine.powered = true ∧ s.engine.switchCond = true ∧ s.engine.compHeld = true
       ∧ s.engine.routed = toFirst.target ∧ (s.source 0).present = true)
      ∧ (({ width := 640, height := 480, refresh := 2300 } : Timing).inRange = true
        ∧ ({ width := 639, height := 480, refresh := 2300 } : Timing).inRange = false)
      ∧ (let s := attempt .full none
         Quiet s ∧ s.engine.pendingTarget = none ∧ s.engine.owedRelock = false ∧ s.recallNow = none ∧ s.floor.elect = none
           ∧ s.holderBarred = false ∧ (s.source 0).timing = none)
      ∧ (let s : State := { attempt .full none with
           floor := { holder := some .panel, hold := false, elect := none, marker := true }, lockouts := [byService .panelHold] }
         Quiet s ∧ s.holderBarred = true ∧ s.floor.elect = none ∧ s.floor.marker = true)
      ∧ (let s : State := floored (attempt .full none) (some .panel) false true (some (.campus, .holdFloor))
         Quiet s ∧ s.floor.holder ≠ some .campus ∧ s.lockedOut6 .campus .holdFloor = false)
      ∧ ((attempt .full none).engine.lockReq.map LockRequest.num = some 255
        ∧ (let s : State := { attempt .full none with
             sources := State.reset.sources.set 0 { settings := .factory, present := false, timing := none, remembered := none } }
           Quiet s ∧ (s.source 0).present = false))
      ∧ (let s := attempt .full (some { input := 5, requester := .panel })
         Quiet s ∧ s.engine.pendingTarget = some { input := 5, requester := .panel }) := by decide +kernel

/-- CAMPUS waits with command c behind PANEL's full attempt. -/
def awaiting (c : Cmd) : State := floored (attempt .full none) (some .panel) false true (some (.campus, c))

/-- s once that attempt has ended NO_LOCK, with the unit-end processing still to come. -/
def unlocked (s : State) : State :=
  { s with ports := s.ports.offerAll [toFirst.ended 0xA1], floor := { s.floor with marker := false },
           engine := { s.engine with state := .idle, inFlight := none, lockReq := none } }

/-- The hand-over of c at that end passes steps 6 to 11. -/
def handsOver (c : Cmd) : Bool := decide (Quiet (awaiting c) ∧ (unlocked (awaiting c)).handOverRefusal .campus c = none)

theorem witness_LockReplies_handOver :
    (handsOver .holdFloor ∧ handsOver .setMute ∧ handsOver .clearMute ∧ handsOver (.selectProfile 3)
      ∧ handsOver (.setKeystone 0 ⟨30, 7⟩) ∧ handsOver (.nudgeKeystone 0 .vUp) ∧ handsOver (.selectInput 5) ∧ handsOver (.recallScene 5))
      ∧ (let off : State := { awaiting (.selectInput 5) with
           sources := (awaiting .setMute).sources.set 5
             { settings := { SourceSettings.factory with enabled := false }, present := false, timing := none, remembered := none } }
         Quiet off ∧ (unlocked off).handOverRefusal .campus (.selectInput 5) = some .badValue) := by decide +kernel

/-- A table in transfer. -/
def sending (s : State) (b : Option BandTable) : State :=
  { s with geo := { s.geo with inTransfer := some { num := 255, seq := 255, table := .flat }, pendingTable := b } }

theorem witness_TableReplies :
    (Quiet (sending shown none) ∧ (sending shown none).engine.state ≠ .applying)
      ∧ Quiet (sending shown (some .flat))
      ∧ (let s : State := sending
           { shown with
             engine := { shown.engine with state := .applying, inFlight := some toFirst, switchCond := true, compHeld := true, blank := .blanked } }
           none
         Quiet s ∧ toFirst.kind ≠ .apply ∧ s.engine.pendingTarget = none ∧ s.engine.powered = true ∧ s.engine.userMute = false
           ∧ s.routedSource.present = true ∧ s.routedSource.timing ≠ none ∧ s.engine.blankReq = none ∧ s.engine.owedRelock = false
           ∧ s.recallNow = none ∧ s.floor.elect = none ∧ s.holderBarred = false)
      ∧ (let applies (k : SwitchKind) (held : Bool) : State := sending
           { revealing with
             engine := { shown.engine with
               state := .applying, inFlight := some { toFirst with kind := k }, switchCond := k != .apply,
               compHeld := held || k != .apply, userMute := held, blank := .blanked } } none
         let good (s : State) : Bool := decide (Quiet s ∧ s.engine.compHeld = s.composition ∧ s.engine.pendingTarget = none ∧ ChainLast s)
         (good (applies .apply false) ∧ good (applies .apply true) ∧ good (applies .select true))
           ∧ Quiet { applies .select false with
               engine := { (applies .select false).engine with pendingTarget := some { input := 5, requester := .panel } } }
           ∧ (let s : State := floored (applies .apply false) (some .panel) false true (some (.campus, .holdFloor))
              Quiet s ∧ s.engine.compHeld = s.composition ∧ s.handOverRefusal .campus .holdFloor = none)) := by decide +kernel

/-! ## Store, console, link -/

theorem witness_StoreWritesEnd :
    (Quiet State.reset ∧ State.reset.store.inFlight = none) ∧ (Quiet saving ∧ saving.store.writes ≠ 1)
      ∧ (Quiet saving ∧ saving.store.inFlight = some (.profile 0 zeroPair) ∧ saving.store.fault = false ∧ saving.store.writes = 0)
      ∧ (let s : State := { State.reset with
           store := { queueFull with inFlight := some (.wear .factory) }, saveOwed := true, resetWait := some .toEnd,
           wear := { State.reset.wear with replacement := .toEnd } }
         Quiet s ∧ s.store.inFlight = some (.wear .factory) ∧ s.store.writes = 0) := by decide +kernel

/-- The console with this keypad and an idle infrared decoder. -/
def keyed (d : Debounce) : State := { State.reset with console := { keypad := d, ir := .idle, room := some 0 } }

/-- The bits of a frame for room 0 with this key and this check, high bits first. -/
def bitsOf (key check : Nat) : List Bool :=
  List.replicate 4 false ++ [7, 6, 5, 4, 3, 2, 1, 0].map key.testBit ++ [3, 2, 1, 0].map check.testBit

/-- A key is about to be accepted in s: LOCAL's command c is let through to its owner, the infrared decoder idle. -/
def ordered (s : State) (c : Cmd) : Bool :=
  decide (Quiet s ∧ s.console.ir = .idle ∧ s.resetWait = none ∧ s.innerRefusal .console c = none)

/-- A frame of room 0 that carries key code `code` with a good check. -/
def sends (code : Nat) : Bool :=
  let l := bitsOf code (code / 16 ^^^ code % 16)
  decide (l.length = 16 ∧ fromBits (l.take 4) = 0 ∧ fromBits ((l.drop 4).take 8) = code ∧ fromBits (l.drop 12) = code / 16 ^^^ code % 16)

theorem witness_ConsoleActs :
    let reading (s : State) : State := { s with console := (keyed .released).console }
    let lectern (m : Bool) (e : Option (Requester × Cmd)) : State := reading (floored shown (some .campus) false m e)
    (Quiet (keyed .released) ∧ 128 ≤ (159#8).toNat ∧ (159#8).toNat ≤ 128 + 31)
      ∧ Quiet (keyed (.candidate .power)) ∧ Quiet (keyed (.pressed none)) ∧ Quiet (keyed (.releaseSeen (some .mute)))
      ∧ (224 ≤ (224#8).toNat ∧ (32 ≤ (63#8).toNat ∧ (63#8).toNat ≤ 63))
      ∧ ([irCode .power, irCode .source, irCode .mute, irCode .eco, irCode .normal, irCode (.input 5), 0x37].all sends
        ∧ fromBits ((bitsOf 0x1E 0).drop 12) ≠ 0xF)
      ∧ ((∀ b, (keyed .released).console.ir ≠ .idleGap .data b) ∧ 60 < 61)
      ∧ (Quiet { keyed .released with resetWait := some .toEnd }
        ∧ (lampLocked (reading (lamp .fault))).innerRefusal .console .lampOn = some .lockedOut)
      ∧ (ordered (keyed .released) .lampOn ∧ ordered (reading (lamp .cooldown)) .lampOn ∧ ordered (reading (lamp .lit)) .lampOff
        ∧ ordered (reading (lamp .warmup)) .lampOff ∧ ordered (reading (lamp .warmup)) (.setLampLevel .normal))
      ∧ (ordered (reading shown) .setMute ∧ FloorOpens (reading shown) .console ∧ shown.engine.state ≠ .unmuting
        ∧ ordered (reading shown) (.selectInput 5) ∧ shown.isFloor (.selectInput 5) = true)
      ∧ (FloorHeld (floored (lectern false none) (some .campus) true false none) .console ∧ FloorWaits (lectern true none) .console
        ∧ FloorBusy (lectern true (some (.panel, .setMute))) .console)
      ∧ (let s : State := reading (after (.sigRise 4) shown)
         s.engine.selected = 0 ∧ s.enabled (0 + 4) = true ∧ (s.source (0 + 4)).present = true ∧ (s.source (0 + 3)).present = false) := by
  refine ⟨by decide +kernel, by decide +kernel, by decide +kernel, by decide +kernel, by decide, by decide +kernel, ?_, by decide +kernel,
    by decide +kernel, by decide +kernel, by decide +kernel, by decide +kernel⟩
  refine ⟨?_, by decide⟩
  intro b h
  cases h
theorem witness_ResetsRebuild :
    State.reset.clock.isSet = false ∧ ({ State.reset with resetWait := some .settled } : State).resetReady = true
      ∧ (closedMonday.clock.isSet = true ∧ (after .resetN closedMonday).effective = none)
      ∧ (let s : State := { State.reset with
           memory := { Memory.factory with
             entries := Memory.factory.entries.set 23
               { inUse := true, kind := .exam, days := 1, start := 0, finish := 1440, parity := .any, scene := some 5,
                 isProtected := false } },
           clock := { isSet := true, minute := 0, weekday := 0, week := 0, run := 0 } }
         let u := after .resetN { s with clock := { s.clock with isSet := false } }
         ({ u with clock := s.clock } : State).effective = some { index := 23, kind := .exam, scene := some 5 }) := by decide +kernel
theorem witness_LinkRead :
    (255 < 256 ∧ (List.replicate 146 (0#8)).length ≤ 146) ∧ (Quiet State.reset ∧ readLink [0xA5, 0x81, 1, 0, 0] = none)
      ∧ (1 ≤ 255 ∧ 255 < 256) := by decide +kernel

end Sys2Proof.Tests
end

