-- ==== Sys2Proof/Proofs/EngineFrame.lean ====
section
/-! SUPPORT. What the switch engine and the transfer of tables leave alone: all but the sources, the engine and the geometry unit. -/

namespace Sys2Proof.Machine

/-- From s to t nothing but the sources, the engine and the geometry unit has changed. -/
def EngineOnly (s t : State) : Prop := t = { s with sources := t.sources, engine := t.engine, geo := t.geo }

theorem EngineOnly.of_eq {s t : State} {a : Vector Source 6} {b : Engine} {c : Geometry}
    (h : t = { s with sources := a, engine := b, geo := c }) : EngineOnly s t := by subst h; rfl

theorem EngineOnly.eq {s t : State} (h : EngineOnly s t) : t = { s with sources := t.sources, engine := t.engine, geo := t.geo } := h

theorem EngineOnly.refl (s : State) : EngineOnly s s := rfl

theorem EngineOnly.trans {s t u : State} (h : EngineOnly s t) (k : EngineOnly t u) : EngineOnly s u := by
  refine EngineOnly.of_eq (a := u.sources) (b := u.engine) (c := u.geo) ?_
  rw [k, h]

/-- A chain of two branches that both leave the rest alone. -/
theorem EngineOnly.ite {s t u : State} {p : Prop} [Decidable p] (ht : p → EngineOnly s t) (hu : ¬ p → EngineOnly s u) :
    EngineOnly s (if p then t else u) := by
  by_cases h : p
  · rw [if_pos h]; exact ht h
  · rw [if_neg h]; exact hu h

theorem EngineOnly.ports {s t : State} (h : EngineOnly s t) : t.ports = s.ports := by rw [h.eq]
theorem EngineOnly.floor {s t : State} (h : EngineOnly s t) : t.floor = s.floor := by rw [h.eq]
theorem EngineOnly.lamp {s t : State} (h : EngineOnly s t) : t.lamp = s.lamp := by rw [h.eq]
theorem EngineOnly.profiles {s t : State} (h : EngineOnly s t) : t.profiles = s.profiles := by rw [h.eq]
theorem EngineOnly.recallNow {s t : State} (h : EngineOnly s t) : t.recallNow = s.recallNow := by rw [h.eq]
theorem EngineOnly.store {s t : State} (h : EngineOnly s t) : t.store = s.store := by rw [h.eq]
theorem EngineOnly.raised {s t : State} (h : EngineOnly s t) : t.raised = s.raised := by rw [h.eq]

theorem EngineOnly.setEngine (s : State) (x : Engine) : EngineOnly s (s.setEngine x) := rfl
theorem EngineOnly.setGeo (s : State) (x : Geometry) : EngineOnly s (s.setGeo x) := rfl
theorem EngineOnly.setSource (s : State) (n : InputIdx) (c : Source) : EngineOnly s (s.setSource n c) := rfl
theorem EngineOnly.clearTiming (s : State) (n : InputIdx) : EngineOnly s (s.clearTiming n) := rfl
theorem EngineOnly.forget (s : State) (n : InputIdx) : EngineOnly s (s.forget n) := rfl
theorem EngineOnly.bumpLink (s : State) : EngineOnly s s.bumpLink := rfl
theorem EngineOnly.sendTable (s : State) (t : BandTable) : EngineOnly s (s.sendTable t) := rfl
theorem EngineOnly.sendBlank (s : State) (k : BlankKind) : EngineOnly s (s.sendBlank k) := rfl
theorem EngineOnly.attempt (s : State) (w : Switch) (m : LockMode) : EngineOnly s (s.attempt w m) := rfl
theorem EngineOnly.enterLocking (s : State) (w : Switch) : EngineOnly s (s.enterLocking w) := rfl

theorem EngineOnly.hand (s : State) (t : BandTable) (forced : Bool) : EngineOnly s (s.hand t forced) := by
  unfold State.hand
  exact .ite (fun _ => rfl) fun _ => .ite (fun _ => rfl) fun _ => .ite (fun _ => rfl) fun _ => rfl

theorem EngineOnly.recompute (s : State) (forced : Bool) : EngineOnly s (s.recompute forced) :=
  (EngineOnly.setGeo s _).trans (.hand _ _ _)

theorem EngineOnly.tellAspect (s : State) (old : AspectClass) : EngineOnly s (s.tellAspect old) :=
  .ite (fun _ => rfl) fun _ => .recompute s false

theorem EngineOnly.tellPair (s : State) (old : Keystone) : EngineOnly s (s.tellPair old) :=
  .ite (fun _ => rfl) fun _ => .recompute s false

theorem EngineOnly.compareBlank (s : State) : EngineOnly s s.compareBlank :=
  .ite (fun _ => rfl) fun _ => .ite (fun _ => rfl) fun _ => .ite (fun _ => rfl) fun _ => rfl

theorem EngineOnly.watchBlank (s : State) : EngineOnly s s.watchBlank :=
  .ite (fun _ => rfl) fun _ => (EngineOnly.setEngine s _).trans (.compareBlank _)

theorem EngineOnly.route (s : State) (w : Switch) : EngineOnly s (s.route w) := by
  have h : EngineOnly s (if s.engine.routed = w.target then s else s.clearTiming s.engine.routed) :=
    .ite (fun _ => rfl) fun _ => rfl
  exact h.trans (((EngineOnly.setEngine _ _).trans (.clearTiming _ _)).trans
    ((EngineOnly.tellAspect _ _).trans ((EngineOnly.watchBlank _).trans (.enterLocking _ _))))

theorem EngineOnly.endMuting (s : State) : EngineOnly s s.endMuting := by
  unfold State.endMuting
  split
  · exact .ite (fun _ => .route _ _) fun _ => rfl
  · rfl

theorem EngineOnly.enterApplying (s : State) (w : Switch) : EngineOnly s (s.enterApplying w) :=
  (EngineOnly.setEngine s _).trans (.recompute _ _)

theorem EngineOnly.startSwitch (s : State) (k : SwitchKind) (n : InputIdx) (r : Option Requester) :
    EngineOnly s (s.startSwitch k n r) :=
  .ite (fun _ => (EngineOnly.setEngine s _).trans (.enterApplying _ _)) fun _ =>
    (EngineOnly.setEngine s _).trans ((EngineOnly.setEngine _ _).trans ((EngineOnly.compareBlank _).trans (.endMuting _)))

theorem EngineOnly.wantRelock (s : State) : EngineOnly s s.wantRelock := by
  unfold State.wantRelock
  split
  · exact .startSwitch _ _ _ _
  all_goals rfl

theorem EngineOnly.mute (s : State) (m : Bool) : EngineOnly s (s.mute m) := (EngineOnly.setEngine s _).trans (.watchBlank _)

theorem EngineOnly.payRelock (s : State) : EngineOnly s s.payRelock :=
  .ite (fun _ => .ite (fun _ => .startSwitch _ _ _ _) fun _ => rfl) fun _ => rfl

theorem EngineOnly.endSwitchCond (s : State) : EngineOnly s s.endSwitchCond := by
  unfold State.endSwitchCond
  split
  · exact (EngineOnly.setEngine s _).trans (.watchBlank _)
  · exact .ite (fun _ => (EngineOnly.setEngine s _).trans (.watchBlank _)) fun _ => rfl

theorem EngineOnly.enterUnmuting (s : State) : EngineOnly s s.enterUnmuting := (EngineOnly.setEngine s _).trans (.watchBlank _)

theorem EngineOnly.powerUp (s : State) : EngineOnly s s.powerUp := (EngineOnly.setEngine s _).trans (.startSwitch _ _ _ _)

theorem EngineOnly.takePowerUp (s : State) : EngineOnly s s.takePowerUp := .ite (fun _ => .powerUp s) fun _ => rfl

theorem EngineOnly.cutPower (s : State) : EngineOnly s s.cutPower :=
  (((EngineOnly.setEngine s _).trans (.setGeo _ _)).trans (.clearTiming _ _)).trans (.tellAspect _ _)

end Sys2Proof.Machine
end

