-- ==== Sys2Proof/Proofs/StorePlaces.lean ====
section
/-! SUPPORT. The settings store through every shared operation: which of them leave it alone, and that the others keep the write queue
within its places (R183, R184). -/

namespace Sys2Proof.Machine

/-! ## Operations that leave the store alone -/

@[simp] theorem State.notify_store (s : State) (n : Notice) : (s.notify n).store = s.store := rfl
@[simp] theorem State.addLockout_store (s : State) (l : Lockout) : (s.addLockout l).store = s.store := by
  unfold State.addLockout; split <;> rfl
theorem State.foldNotify_store (l : List LockKind) (s : State) :
    (l.foldl (fun t k => t.notify (outOfForceNotice k)) s).store = s.store := by
  induction l generalizing s with
  | nil => rfl
  | cons k l ih => simp [ih]
@[simp] theorem State.removeLockouts_store (s : State) (gone : Lockout → Bool) : (s.removeLockouts gone).store = s.store := by
  simp [State.removeLockouts, State.foldNotify_store]
@[simp] theorem State.addThermal_store (s : State) : s.addThermal.store = s.store := by
  unfold State.addThermal; split <;> simp
@[simp] theorem State.examineThermal_store (s : State) : s.examineThermal.store = s.store := by
  unfold State.examineThermal; split <;> simp
@[simp] theorem State.warnEffect_store (s : State) (a b : WearBand) : (s.warnEffect a b).store = s.store := by
  unfold State.warnEffect; split <;> rfl
@[simp] theorem State.ecoEffect_store (s : State) (a b : WearBand) : (s.ecoEffect a b).store = s.store := by
  unfold State.ecoEffect; split <;> rfl
@[simp] theorem State.endDeferral_store (s : State) (n : Nat) : (s.endDeferral n).store = s.store := by
  unfold State.endDeferral; split <;> rfl
@[simp] theorem State.noteActivity_store (s : State) : s.noteActivity.store = s.store := by
  unfold State.noteActivity; split <;> rfl
@[simp] theorem State.touch_store (s : State) (r : Requester) : (s.touch r).store = s.store := by
  unfold State.touch; split <;> simp
@[simp] theorem State.lampOffEndsDeferral_store (s : State) (r : Requester) : (s.lampOffEndsDeferral r).store = s.store := by
  unfold State.lampOffEndsDeferral; split <;> simp
@[simp] theorem State.lampLevel_store (s : State) (l : Level) : (s.lampLevel l).1.store = s.store := by
  unfold State.lampLevel; split <;> rfl
@[simp] theorem State.dropPendingOn_store (s : State) : s.dropPendingOn.store = s.store := by
  unfold State.dropPendingOn; split
  · split <;> rfl
  · rfl
@[simp] theorem State.decideRestrike_store (s : State) (held : Bool) : (s.decideRestrike held).store = s.store := by
  unfold State.decideRestrike; (repeat' split) <;> rfl
@[simp] theorem State.endRecall_store (s : State) (n : InputIdx) : (s.endRecall n).store = s.store := by
  unfold State.endRecall; split
  · split <;> rfl
  · rfl
@[simp] theorem State.displaceTarget_store (s : State) : s.displaceTarget.store = s.store := by
  unfold State.displaceTarget; split <;> simp
@[simp] theorem State.askBusy_store (s : State) (w : Switch) (r : Requester) (n : InputIdx) :
    (s.askBusy w r n).1.store = s.store := by
  unfold State.askBusy; (repeat' split) <;> simp
@[simp] theorem State.selectInput_store (s : State) (r : Requester) (n : InputIdx) : (s.selectInput r n).1.store = s.store := by
  unfold State.selectInput
  split
  · rfl
  · split
    · simp
    · split
      · rfl
      · exact (EngineOnly.startSwitch _ _ _ _).store
@[simp] theorem State.joinRecall_store (s : State) (w : Switch) (r : Requester) (n : InputIdx) :
    (s.joinRecall w r n).store = s.store := by unfold State.joinRecall; split <;> rfl
@[simp] theorem State.recallInput_store (s : State) (r : Requester) (n : InputIdx) (b : Bool) :
    (s.recallInput r n b).1.store = s.store := by
  unfold State.recallInput
  split
  · rfl
  · split
    · simp
    · split
      · exact (EngineOnly.startSwitch _ _ _ _).store
      · split
        · exact (EngineOnly.startSwitch _ _ _ _).store
        · rfl
@[simp] theorem State.takeRecall_store (s : State) (k : SceneIdx) (r : Requester) (n : InputIdx) (v : Verdict) :
    (s.takeRecall k r n v).store = s.store := by unfold State.takeRecall; split <;> rfl
@[simp] theorem State.recallLevel_store (s : State) (r : Requester) (l : SceneLevel) : (s.recallLevel r l).1.store = s.store := by
  unfold State.recallLevel; split
  · split <;> simp
  · rfl
@[simp] theorem State.recompute_store (s : State) (b : Bool) : (s.recompute b).store = s.store := (EngineOnly.recompute s b).store
@[simp] theorem State.tellPair_store (s : State) (k : Keystone) : (s.tellPair k).store = s.store := (EngineOnly.tellPair s k).store
@[simp] theorem State.tellAspect_store (s : State) (a : AspectClass) : (s.tellAspect a).store = s.store :=
  (EngineOnly.tellAspect s a).store
@[simp] theorem State.mute_store (s : State) (m : Bool) : (s.mute m).store = s.store := (EngineOnly.mute s m).store
@[simp] theorem State.watchBlank_store (s : State) : s.watchBlank.store = s.store := (EngineOnly.watchBlank s).store
@[simp] theorem State.startSwitch_store (s : State) (k : SwitchKind) (n : InputIdx) (r : Option Requester) :
    (s.startSwitch k n r).store = s.store := (EngineOnly.startSwitch s k n r).store
@[simp] theorem State.takePowerUp_store (s : State) : s.takePowerUp.store = s.store := (EngineOnly.takePowerUp s).store
@[simp] theorem State.setSlot_store (s : State) (t : SlotIdx) (x : Option Trial) : (s.setSlot t x).store = s.store := rfl
@[simp] theorem State.setStored_store (s : State) (p : ProfileIdx) (k : Keystone) : (s.setStored p k).store = s.store := rfl
@[simp] theorem State.selectProfile_store (s : State) (p : ProfileIdx) : (s.selectProfile p).store = s.store := by
  unfold State.selectProfile; split <;> simp
@[simp] theorem State.discardTrial_store (s : State) (t : SlotIdx) : (s.discardTrial t).store = s.store := by
  unfold State.discardTrial; split
  · rfl
  · split <;> simp
@[simp] theorem State.openTrial_store (s : State) (t : SlotIdx) (p : ProfileIdx) : (s.openTrial t p).store = s.store := by
  simp only [State.openTrial, State.enableTrial]; split <;> simp
@[simp] theorem State.tellHolder_store (s : State) (f : Floor) : (s.tellHolder f).store = s.store := by
  unfold State.tellHolder; split <;> rfl
@[simp] theorem State.setElect_store (s : State) (e : Option (Requester × Cmd)) : (s.setElect e).store = s.store := rfl
@[simp] theorem State.dropElect_store (s : State) (n : Nat) : (s.dropElect n).store = s.store := by
  unfold State.dropElect; split <;> rfl
@[simp] theorem State.holdDropsElect_store (s : State) : s.holdDropsElect.store = s.store := by
  unfold State.holdDropsElect; split
  · split <;> simp
  · rfl
@[simp] theorem State.becomeElect_store (s : State) (r : Requester) (c : Cmd) : (s.becomeElect r c).store = s.store := by
  unfold State.becomeElect; split <;> rfl
@[simp] theorem State.mark_store (s : State) (c : Cmd) (v : Verdict) : (s.mark c v).store = s.store := by
  unfold State.mark; split <;> rfl
@[simp] theorem State.passFloor_store (s : State) (r : Requester) : (s.passFloor r).store = s.store := rfl
@[simp] theorem State.freeFloor_store (s : State) : s.freeFloor.store = s.store := rfl
@[simp] theorem State.dropBarredElect_store (s : State) (k : LockKind) : (s.dropBarredElect k).store = s.store := by
  unfold State.dropBarredElect; split
  · split <;> simp
  · rfl
@[simp] theorem State.freeBarredHolder_store (s : State) (k : LockKind) : (s.freeBarredHolder k).store = s.store := by
  unfold State.freeBarredHolder; split
  · split <;> simp
  · rfl
@[simp] theorem State.abortPending_store (s : State) : s.abortPending.store = s.store := by
  unfold State.abortPending; split <;> rfl
@[simp] theorem State.renameSchedule_store (s : State) (e : EntryIdx) : (s.renameSchedule e).store = s.store := rfl
@[simp] theorem State.examineDeferral_store (s : State) : s.examineDeferral.store = s.store := by
  unfold State.examineDeferral; split <;> rfl
@[simp] theorem State.enterLamp_store (s : State) (l : LampState) (t : Option Nat) : (s.enterLamp l t).store = s.store := rfl
@[simp] theorem State.setRecord_store (s : State) (r : WearRecord) : (s.setRecord r).store = s.store := rfl
@[simp] theorem State.charge_store (s : State) (n : Nat) : (s.charge n).store = s.store := rfl
@[simp] theorem State.bookDropOut_store (s : State) : s.bookDropOut.store = s.store := rfl
@[simp] theorem State.senseRise_store (s : State) : s.senseRise.store = s.store := by
  unfold State.senseRise; split <;> rfl
@[simp] theorem State.leaveFault_store (s : State) : s.leaveFault.store = s.store := by
  unfold State.leaveFault; split <;> rfl
@[simp] theorem State.zeroCounts_store (s : State) (p : Port) : (s.zeroCounts p).store = s.store := rfl
@[simp] theorem State.setMask_store (s : State) (p : Port) (m : BitVec 9) : (s.setMask p m).store = s.store := rfl
@[simp] theorem State.dropNotice_store (s : State) (a : Option LampAsker) : (s.dropNotice a).store = s.store := by
  unfold State.dropNotice; split <;> rfl
@[simp] theorem State.flush_store (s : State) : s.flush.store = s.store := rfl

/-! ## The write queue within its places -/

/-- The write queue of a store within its bounds: at most eight entries, none twice, never WEAR, none of the repair set (R183, R184). -/
def Store.Sound (q : Store) : Prop :=
  q.queue.length ≤ Config.queuePlaces ∧ q.queue.Nodup ∧ RecordId.wear ∉ q.queue ∧ ∀ r ∈ q.queue, r ∉ q.repair

theorem queueSound_iff (s : State) : QueueSound s ↔ s.store.Sound := Iff.rfl

/-- A part of the queue is sound with a part of the repair set. -/
theorem Store.Sound.sub {q t : Store} (h : q.Sound) (hq : t.queue.Sublist q.queue) (hr : ∀ r ∈ t.repair, r ∈ q.repair) : t.Sound := by
  obtain ⟨hlen, hnd, hw, hd⟩ := h
  exact ⟨hq.length_le.trans hlen, hnd.sublist hq, fun m => hw (hq.subset m), fun r m m' => hd r (hq.subset m) (hr r m')⟩

/-- A queue with a free place takes a record it does not hold, the repair set giving it up (R184). -/
theorem Store.Sound.add {q t : Store} {r : RecordId} (h : q.Sound) (hr : r ≠ .wear) (hm : r ∉ q.queue)
    (hl : q.queue.length < Config.queuePlaces) (hq : t.queue = q.queue ++ [r]) (hp : t.repair = q.repair.filter (· != r)) :
    t.Sound := by
  obtain ⟨-, hnd, hw, hd⟩ := h
  refine ⟨?_, ?_, ?_, ?_⟩
  · rw [hq, List.length_append]; exact hl
  · rw [hq]
    exact List.nodup_append.mpr ⟨hnd, List.nodup_singleton r, fun a ha b hb e => hm (by simp_all)⟩
  · simp [hq, hw, Ne.symm hr]
  · intro x hx
    rw [hq] at hx
    rw [hp]
    rcases List.mem_append.mp hx with hx | hx
    · exact fun m => hd x hx (List.mem_of_mem_filter m)
    · simp_all

/-- The beginning of a write from the queue, with the owed LOCKOUT save in the place it frees (R168, R185). -/
theorem State.beginQueued_sound {s : State} {r : RecordId} {rest : List RecordId} (h : s.store.Sound)
    (hq : s.store.queue = r :: rest) : (s.beginQueued r rest).store.Sound := by
  have hs : rest.Sublist s.store.queue := by rw [hq]; exact List.sublist_cons_self r rest
  unfold State.beginQueued
  split
  · by_cases hm : RecordId.lockout ∈ rest
    · exact h.sub (t := { s.store with queue := enqueue rest .lockout, repair := s.store.repair.filter (· != .lockout) })
        (by simpa [enqueue, hm] using hs) fun x m => List.mem_of_mem_filter m
    · have hrest : Store.Sound { s.store with queue := rest } := h.sub hs fun _ m => m
      have hl := h.1
      rw [hq] at hl
      exact hrest.add (t := { s.store with queue := enqueue rest .lockout, repair := s.store.repair.filter (· != .lockout) })
        (by simp) hm (by simpa using hl) (by simp [enqueue, hm]) rfl
  · exact h.sub hs fun _ m => m

theorem State.kick_sound {s : State} (h : s.store.Sound) : s.kick.store.Sound := by
  unfold State.kick
  split
  · exact h
  · split
    · exact h
    · exact h.sub List.filter_sublist fun _ m => m
    · exact State.beginQueued_sound h ‹_›
    · rename_i hr
      exact h.sub (List.Sublist.refl _) fun x m => hr ▸ List.mem_cons_of_mem _ m
    · exact h

theorem State.queueRecord_sound {s : State} {r : RecordId} (h : s.store.Sound) (hr : r ≠ .wear) : (s.queueRecord r).store.Sound := by
  unfold State.queueRecord
  by_cases hm : r ∈ s.store.queue
  · rw [if_pos hm]; exact h
  · rw [if_neg hm]
    split
    · exact State.kick_sound (h.add hr hm ‹_› rfl rfl)
    · split <;> exact h

theorem State.saveLockouts_sound {s : State} (h : s.store.Sound) : s.saveLockouts.store.Sound := State.queueRecord_sound h (by simp)

theorem State.checkpoint_sound {s : State} (h : s.store.Sound) : s.checkpoint.store.Sound := State.kick_sound h

theorem State.completeWrite_sound {s : State} (h : s.store.Sound) : s.completeWrite.store.Sound := by
  unfold State.completeWrite
  split
  · exact h
  · exact State.kick_sound (by split <;> exact h)

theorem Store.giveBack_sound {q : Store} (h : q.Sound) (i : Image) : (q.giveBack i).Sound := by
  cases i <;> exact h

theorem State.failWrite_sound {s : State} (h : s.store.Sound) : s.failWrite.store.Sound := by
  unfold State.failWrite
  split
  · exact h
  · rename_i i _
    have := Store.giveBack_sound h i
    dsimp only
    split <;> exact this

theorem State.clearFault_sound {s : State} (h : s.store.Sound) : s.clearFault.store.Sound := by
  unfold State.clearFault
  split
  · exact State.kick_sound h
  · exact h

theorem State.addLampLock_sound {s : State} (h : s.store.Sound) (x : LockReason) : (s.addLampLock x).store.Sound := by
  unfold State.addLampLock
  split
  · exact State.saveLockouts_sound (by simpa using h)
  · split
    · exact State.saveLockouts_sound h
    · exact h

theorem State.removeLampLock_sound {s : State} (h : s.store.Sound) (f : Lockout → Bool) : (s.removeLampLock f).store.Sound := by
  unfold State.removeLampLock
  split
  · exact State.saveLockouts_sound (by simpa using h)
  · exact h

theorem State.expireEffect_sound {s : State} (h : s.store.Sound) (b : WearBand) : (s.expireEffect b).store.Sound := by
  unfold State.expireEffect
  split
  · exact State.addLampLock_sound h _
  · exact h

theorem State.testThresholds_sound {s : State} (h : s.store.Sound) : s.testThresholds.store.Sound := by
  simp only [State.testThresholds]
  split
  · exact h
  · exact State.expireEffect_sound (by simpa using h) _

theorem State.bookStrike_sound {s : State} (h : s.store.Sound) : s.bookStrike.store.Sound :=
  State.testThresholds_sound (State.checkpoint_sound h)

theorem State.bookCooldown_sound {s : State} (h : s.store.Sound) : s.bookCooldown.store.Sound := State.checkpoint_sound h

theorem State.countMinute_sound {s : State} (h : s.store.Sound) : s.countMinute.store.Sound := by
  unfold State.countMinute
  split
  · exact State.checkpoint_sound h
  · exact h

theorem State.litSecond_sound {s : State} (h : s.store.Sound) : s.litSecond.store.Sound := by
  unfold State.litSecond
  split
  · exact h
  · split
    · exact h
    · exact State.testThresholds_sound (State.countMinute_sound h)

theorem State.strike_sound {s : State} (h : s.store.Sound) : s.strike.store.Sound := by
  unfold State.strike
  exact State.bookStrike_sound (by dsimp only; split <;> exact h)

theorem State.enterCooldown_sound {s : State} (h : s.store.Sound) (n : Nat) (b : Bool) : (s.enterCooldown n b).store.Sound :=
  State.bookCooldown_sound h

theorem State.lampOn_sound {s : State} (h : s.store.Sound) (r : Requester) : (s.lampOn r).1.store.Sound := by
  unfold State.lampOn
  split
  · exact State.strike_sound h
  all_goals exact h

theorem State.lampOff_sound {s : State} (h : s.store.Sound) : s.lampOff.1.store.Sound := by
  unfold State.lampOff
  split
  any_goals exact h
  all_goals exact State.enterCooldown_sound h _ _

theorem State.strikeFails_sound {s : State} (h : s.store.Sound) : s.strikeFails.store.Sound := by
  unfold State.strikeFails
  split
  · exact h
  · split
    · exact h
    · exact State.enterCooldown_sound h _ _

theorem State.retryEnds_sound {s : State} (h : s.store.Sound) : s.retryEnds.store.Sound := by
  unfold State.retryEnds
  split
  · exact h
  · split
    · exact State.enterCooldown_sound h _ _
    · exact State.strike_sound h

theorem State.warmupEnds_sound {s : State} (h : s.store.Sound) : s.warmupEnds.store.Sound := by
  unfold State.warmupEnds
  split
  · exact h
  · dsimp only
    split
    · apply State.enterCooldown_sound; exact h
    · exact h

theorem State.senseFall_sound {s : State} (h : s.store.Sound) : s.senseFall.store.Sound := by
  unfold State.senseFall
  split
  any_goals exact h
  all_goals
    rw [State.decideRestrike_store]
    apply State.enterCooldown_sound; exact h

theorem State.heat_sound {s : State} (h : s.store.Sound) : s.heat.store.Sound := by
  unfold State.heat State.heatLamp
  rw [State.addThermal_store]
  split
  any_goals exact h
  all_goals exact State.enterCooldown_sound h _ _

theorem State.writePair_sound {s : State} (h : s.store.Sound) (p : ProfileIdx) (k : Keystone) : (s.writePair p k).store.Sound := by
  simp only [State.writePair]
  split <;> rw [State.tellPair_store]
  · exact h
  · exact State.queueRecord_sound h (by simp)

theorem State.commitTrial_sound {s : State} (h : s.store.Sound) (t : SlotIdx) : (s.commitTrial t).store.Sound := by
  unfold State.commitTrial
  split
  · exact h
  · rename_i x _
    have hs : ((s.setStored x.target x.pair).queueRecord (.profile x.target)).store.Sound := State.queueRecord_sound h (by simp)
    dsimp only
    split
    · simpa using hs
    · exact hs

theorem State.storeScene_sound {s : State} (h : s.store.Sound) (k : SceneIdx) : (s.storeScene k).store.Sound :=
  State.queueRecord_sound h (by simp)

theorem State.setAspect_sound {s : State} (h : s.store.Sound) (n : InputIdx) (o : AspectOverride) :
    (s.setAspect n o).store.Sound := State.queueRecord_sound (by rw [State.tellAspect_store]; exact h) (by simp)

theorem State.setEnable_sound {s : State} (h : s.store.Sound) (n : InputIdx) (b : Bool) (k : Nat) :
    (s.setEnable n b k).store.Sound := State.queueRecord_sound h (by simp)

theorem State.runLampOn_sound {s : State} (h : s.store.Sound) (r : Requester) : (s.runLampOn r).1.store.Sound :=
  State.lampOn_sound (by rwa [State.touch_store]) r

theorem State.runLampOff_sound {s : State} (h : s.store.Sound) (r : Requester) : (s.runLampOff r).1.store.Sound :=
  State.lampOff_sound (by rwa [State.lampOffEndsDeferral_store, State.touch_store])

theorem State.runLampLevel_sound {s : State} (h : s.store.Sound) (r : Requester) (l : Level) :
    (s.runLampLevel r l).1.store.Sound := by simpa [State.runLampLevel] using h

theorem State.recallPower_sound {s : State} (h : s.store.Sound) (r : Requester) (x : ScenePower) :
    (s.recallPower r x).store.Sound := by
  unfold State.recallPower
  split
  any_goals exact h
  all_goals
    split
    · exact State.lampOn_sound h r
    · exact h

theorem State.runRecall_sound {s : State} (h : s.store.Sound) (r : Requester) (k : SceneIdx) : (s.runRecall r k).1.store.Sound := by
  simpa [State.runRecall] using State.recallPower_sound h r s.scenes[k].power

theorem State.ownerActs_sound {s : State} (h : s.store.Sound) (r : Requester) (c : Cmd) : (s.ownerActs r c).1.store.Sound := by
  cases c
  case recallScene k => exact State.runRecall_sound h r k
  case setKeystone p k => exact State.writePair_sound h p k
  case nudgeKeystone p d => exact State.writePair_sound h p _
  all_goals simpa [State.ownerActs] using h

theorem State.proceed_sound {s : State} (h : s.store.Sound) (f : Floor) (r : Requester) (c : Cmd) :
    (s.proceed f r c).1.store.Sound := by
  unfold State.proceed
  split
  · dsimp only; split <;> simpa using h
  · rw [State.mark_store]
    exact State.ownerActs_sound (by rwa [State.tellHolder_store]) r c

theorem State.floorIntake_sound {s : State} (h : s.store.Sound) (r : Requester) (c : Cmd) : (s.floorIntake r c).1.store.Sound := by
  unfold State.floorIntake
  split
  · exact h
  · exact h
  · split
    · exact h
    · split
      · simpa using h
      · exact State.proceed_sound (by simpa using h) _ r c
      · exact State.proceed_sound (by simpa using h) _ r c

theorem State.handOver_sound {s : State} (h : s.store.Sound) (f : Floor) : (s.handOver f).store.Sound := by
  unfold State.handOver
  split
  · simpa using h
  · split
    · simpa using h
    · apply State.proceed_sound; exact h

theorem State.chainEnds_sound {s : State} (h : s.store.Sound) : s.chainEnds.store.Sound := by
  unfold State.chainEnds
  split
  · exact State.handOver_sound (by split <;> exact h) _
  · exact h

theorem State.releaseBy_sound {s : State} (h : s.store.Sound) (r : Requester) : (s.releaseBy r).store.Sound := by
  unfold State.releaseBy
  split
  · exact State.handOver_sound (s := s.freeFloor) h _
  · exact h

theorem State.loseStanding_sound {s : State} (h : s.store.Sound) (r : Requester) : (s.loseStanding r).store.Sound := by
  unfold State.loseStanding
  split
  · exact State.handOver_sound (s := s.freeFloor) h _
  · split
    · split
      · simpa using h
      · exact h
    · exact h

theorem State.goIdle_sound {s : State} (h : s.store.Sound) : s.goIdle.store.Sound := by
  unfold State.goIdle
  rw [(EngineOnly.endSwitchCond _).store, (EngineOnly.payRelock _).store]
  exact State.chainEnds_sound h

theorem State.nextSwitch_sound {s : State} (h : s.store.Sound) : s.nextSwitch.store.Sound := by
  unfold State.nextSwitch
  split
  · simpa using h
  · exact State.goIdle_sound h

theorem State.completeSwitch_sound {s : State} (h : s.store.Sound) (x : SwitchResult) : (s.completeSwitch x).store.Sound := by
  unfold State.completeSwitch
  split
  · exact h
  · exact State.nextSwitch_sound (by simpa using h)

theorem State.endApplying_sound {s : State} (h : s.store.Sound) : s.endApplying.store.Sound := by
  unfold State.endApplying
  split
  · split
    · split
      · exact State.completeSwitch_sound h _
      · rw [(EngineOnly.enterUnmuting _).store]; exact h
    · exact h
  · exact h

theorem State.settle_sound {s : State} (h : s.store.Sound) : s.settle.store.Sound := by
  unfold State.settle State.endUnmuting
  rw [State.takePowerUp_store]
  split
  · exact State.completeSwitch_sound h _
  · exact h

theorem State.finish_sound {s : State} (h : s.store.Sound) : s.finish.store.Sound := State.settle_sound h

theorem State.lockFails_sound {s : State} (h : s.store.Sound) : s.lockFails.store.Sound := by
  unfold State.lockFails
  split
  · split
    · exact h
    · exact State.completeSwitch_sound h _
  all_goals exact h

theorem State.powerDown_sound {s : State} (h : s.store.Sound) : s.powerDown.store.Sound := by
  have hc : s.cutPower.store.Sound := by rw [(EngineOnly.cutPower s).store]; exact h
  unfold State.powerDown State.abortSwitch
  rw [State.watchBlank_store]
  split
  · exact hc
  · exact State.chainEnds_sound (by simpa using hc)

theorem State.placeLockout_sound {s : State} (h : s.store.Sound) (l : Lockout) : (s.placeLockout l).store.Sound := by
  unfold State.placeLockout State.comeIntoForce
  dsimp only
  split
  · simpa using h
  · split
    · simpa using h
    · exact State.lampOff_sound (by simpa using h)
    · simpa using h
    · simpa using h
    · simpa using h

theorem State.saveIfService_sound {s : State} (h : s.store.Sound) (k : LockKind) : (s.saveIfService k).store.Sound := by
  unfold State.saveIfService
  split
  · exact State.saveLockouts_sound h
  · exact h

theorem State.setByHand_sound {s : State} (h : s.store.Sound) (r : Requester) (k : LockKind) (x : Option Nat) :
    (s.setByHand r k x).store.Sound := by
  unfold State.setByHand
  refine State.saveIfService_sound ?_ k
  split
  · exact h
  · exact State.placeLockout_sound h _

theorem State.clearByHand_sound {s : State} (h : s.store.Sound) (r : Requester) (k : LockKind) :
    (s.clearByHand r k).1.store.Sound := by
  have hr : (s.removeLockouts (clearable r k)).store.Sound := by simpa using h
  simp only [State.clearByHand]
  split
  · exact State.saveIfService_sound hr k
  · exact hr

theorem State.expireLockouts_sound {s : State} (h : s.store.Sound) : s.expireLockouts.store.Sound := by
  have hr : (s.removeLockouts s.lockoutDue).store.Sound := by simpa using h
  unfold State.expireLockouts
  dsimp only
  split
  · exact State.saveLockouts_sound hr
  · exact hr

theorem State.innerIntake_sound {s : State} (h : s.store.Sound) (r : Requester) (c : Cmd) (f : State → State × Reply)
    (hf : (f s).1.store.Sound) : (s.innerIntake r c f).1.store.Sound := by
  unfold State.innerIntake
  split
  · exact h
  · split
    · exact h
    · exact hf

theorem State.innerLampOff_sound {s : State} (h : s.store.Sound) (r : Requester) : (s.innerLampOff r).1.store.Sound :=
  State.innerIntake_sound h _ _ _ (State.runLampOff_sound h r)

theorem State.innerLampOn_sound {s : State} (h : s.store.Sound) (r : Requester) : (s.innerLampOn r).1.store.Sound :=
  State.innerIntake_sound h _ _ _ (State.runLampOn_sound h r)

theorem State.innerFloor_sound {s : State} (h : s.store.Sound) (r : Requester) (c : Cmd) : (s.innerFloor r c).1.store.Sound :=
  State.innerIntake_sound h _ _ _ (State.floorIntake_sound h r c)

theorem State.innerLevel_sound {s : State} (h : s.store.Sound) (r : Requester) (l : Level) : (s.innerLevel r l).1.store.Sound :=
  State.innerIntake_sound h _ _ _ (State.runLampLevel_sound h r l)

theorem State.runLocal_sound {s : State} (h : s.store.Sound) (c : Cmd) : (s.runLocal c).1.store.Sound := by
  unfold State.runLocal
  split
  · exact State.innerLampOn_sound h _
  · exact State.innerLampOff_sound h _
  · exact State.innerLevel_sound h _ _
  · exact State.innerFloor_sound h _ _

theorem State.fireDeferral_sound {s : State} (h : s.store.Sound) : s.fireDeferral.store.Sound :=
  State.innerLampOff_sound (by rwa [State.endDeferral_store]) _

theorem State.startDeferral_sound {s : State} (h : s.store.Sound) (e : EntryIdx) : (s.startDeferral e).store.Sound := by
  unfold State.startDeferral
  dsimp only
  split
  · apply State.fireDeferral_sound; exact h
  · exact h

theorem State.leaveEntry_sound {s : State} (h : s.store.Sound) (a b : Option Effective) : (s.leaveEntry a b).store.Sound := by
  have hr : (if removesRecord (kindOf a) (kindOf b) then s.removeLockouts Lockout.ofSchedule else s).store.Sound := by
    split
    · simpa using h
    · exact h
  unfold State.leaveEntry
  generalize (if removesRecord (kindOf a) (kindOf b) then s.removeLockouts Lockout.ofSchedule else s) = t at hr ⊢
  dsimp only
  split
  · split
    · exact State.startDeferral_sound hr _
    · exact hr
  · exact hr
  · exact hr

theorem State.bookLockout_sound {s : State} (h : s.store.Sound) (e : Effective) (a : Option Effective) (k : LockKind) :
    (s.bookLockout e a k).store.Sound := by
  unfold State.bookLockout
  split
  · exact h
  · exact State.placeLockout_sound h _

theorem State.enterEntry_sound {s : State} (h : s.store.Sound) (e : Effective) (a : Option Effective) :
    (s.enterEntry e a).store.Sound := by
  have hk : ((s.endDeferral 2).bookKind e a).store.Sound := by
    unfold State.bookKind
    split
    · simpa using h
    · exact State.bookLockout_sound (by simpa using h) _ _ _
    · exact State.bookLockout_sound (by simpa using h) _ _ _
  have hl := State.innerLampOn_sound hk .schedule
  unfold State.enterEntry State.bookScene
  dsimp only
  split
  · exact hk
  · split
    · split
      · exact hl
      · exact State.innerFloor_sound hl _ _
    · exact hl

theorem State.evaluate_sound {s : State} (h : s.store.Sound) : s.evaluate.store.Sound := by
  have hl : (((s.setSchedule { s.schedule with remembered := s.effective }).notify (entryNotice s.effective)).leaveEntry
      s.schedule.remembered s.effective).store.Sound := by apply State.leaveEntry_sound; exact h
  unfold State.evaluate
  dsimp only
  split
  · exact h
  · split
    · exact State.enterEntry_sound hl _ _
    · exact hl

theorem State.changeEntry_sound {s : State} (h : s.store.Sound) (e : EntryIdx) (c : Entry) : (s.changeEntry e c).store.Sound :=
  State.evaluate_sound (State.queueRecord_sound h (by simp))

theorem State.minuteTick_sound {s : State} (h : s.store.Sound) : s.minuteTick.store.Sound := by
  unfold State.minuteTick
  split
  · exact State.evaluate_sound h
  · exact h

theorem State.expireDeferral_sound {s : State} (h : s.store.Sound) : s.expireDeferral.store.Sound := by
  unfold State.expireDeferral
  split
  · split
    · exact State.fireDeferral_sound h
    · exact h
  · exact h

theorem State.endReplacement_sound {s : State} (h : s.store.Sound) (m : ReplaceMode) : (s.endReplacement m).store.Sound :=
  State.checkpoint_sound h

theorem State.replaceNew_sound {s : State} (h : s.store.Sound) (i : Vector Byte 8) : (s.replaceNew i).store.Sound :=
  State.endReplacement_sound (State.testThresholds_sound (State.removeLampLock_sound (by rw [State.leaveFault_store]; exact h) _)) _

theorem State.replaceOld_sound {s : State} (h : s.store.Sound) : s.replaceOld.store.Sound :=
  State.endReplacement_sound (State.removeLampLock_sound (by rw [State.leaveFault_store]; exact h) _) _

theorem State.askReset_sound {s : State} (h : s.store.Sound) : s.askReset.store.Sound := by
  unfold State.askReset
  split
  · exact h
  · exact State.checkpoint_sound h

/-- What an owner does with any command keeps the queue within its places. -/
theorem State.act_sound {s : State} (h : s.store.Sound) (p : Port) (c : Cmd) : (s.act p c).1.store.Sound := by
  cases c
  case releaseFloor => exact State.releaseBy_sound h _
  case lampOn => exact State.runLampOn_sound h _
  case lampOff => exact State.runLampOff_sound h _
  case setLampLevel l => exact State.runLampLevel_sound h _ l
  case openTrial t q => simpa [State.act, done] using h
  case commitTrial t => exact State.commitTrial_sound h t
  case discardTrial t => simpa [State.act, done] using h
  case storeScene k => exact State.storeScene_sound h k
  case setSourceAspect n o => exact State.setAspect_sound h n o
  case setInputEnable n e k => exact State.setEnable_sound h n e k
  case setClock m w k => exact State.evaluate_sound h
  case writeEntry e f => exact State.changeEntry_sound h e _
  case eraseEntry e => exact State.changeEntry_sound h e _
  case protectEntry e f => exact State.changeEntry_sound h e _
  case setGrace m => exact State.queueRecord_sound h (by simp)
  case setLockout k x => exact State.setByHand_sound h _ k x
  case clearLockout k => exact State.clearByHand_sound h _ k
  case replaceLamp m i =>
    cases m
    · exact State.replaceNew_sound h i
    · exact State.replaceOld_sound h
  case writeAuthority a x => exact State.queueRecord_sound h (by simp)
  case clearStoreFault => exact State.clearFault_sound h
  case setRatedLife n => exact State.testThresholds_sound (State.queueRecord_sound h (by simp))
  case setIrRoom x => exact State.queueRecord_sound h (by simp)
  case controllerReset => exact State.askReset_sound h
  case selectInput | recallScene | setMute | clearMute | holdFloor | setKeystone | nudgeKeystone | selectProfile =>
    exact State.ownerActs_sound h _ _
  all_goals exact h

theorem State.accept_sound {s : State} (h : s.store.Sound) (p : Port) (c : Cmd) : (s.accept p c).1.store.Sound := by
  unfold State.accept
  split
  · exact State.floorIntake_sound h _ _
  · split
    · exact h
    · exact State.act_sound h p c

theorem State.intakeFrame_sound {s : State} (h : s.store.Sound) (p : Port) (c : Code) (pl : List Byte) :
    (s.intakeFrame p c pl).1.store.Sound := by
  unfold State.intakeFrame
  split
  · exact h
  · split
    · exact h
    · split
      · exact h
      · exact State.accept_sound h p _

theorem State.answerPort_sound {s : State} (h : s.store.Sound) (p : Port) (tag code : Byte) (r : Reply) :
    (s.answerPort p tag code r).store.Sound := State.settle_sound h

theorem takeCommand_sound {s : State} (h : s.store.Sound) (c : Code) (p : Port) : (takeCommand c p s).store.Sound := by
  unfold takeCommand
  split
  · split
    · apply State.answerPort_sound
      exact State.intakeFrame_sound (s := s.popInbox p) h p c _
    · exact h
  all_goals exact h

end Sys2Proof.Machine
end

