-- ==== Sys2Proof/Proofs/RoomRows.lean ====
section
/-! SUPPORT. The room through a start and through every row: which rows move the clocks, the lines, the authority table, the scenes and the
stored records, and what a row does to each port block. -/

namespace Sys2Proof.Machine

/-! ## The start's own operations leave the room (R65, R81, R169) -/

@[simp] theorem State.startTable_room (s : State) : s.startTable.room = s.room := rfl

@[simp] theorem State.startExpired_room (s : State) : s.startExpired.room = s.room := by
  unfold State.startExpired; split <;> simp

@[simp] theorem State.startNotices_room (s : State) : s.startNotices.room = s.room := by
  have h : ∀ (l : List LockKind) (t : State), (l.foldl (fun t k =>
      match s.lockouts.find? fun l => l.kind == k with
      | some l => t.notify (inForceNotice k l.origin)
      | none => t) t).room = t.room := by
    intro l
    induction l with
    | nil => intro t; rfl
    | cons k l ih =>
      intro t
      rw [List.foldl_cons, ih]
      split <;> rfl
  exact h allKinds s

@[simp] theorem State.startCooling_room (s : State) : s.startCooling.room = s.room := by
  simp only [State.startCooling]; split <;> simp

@[simp] theorem State.startLamp_room (s : State) : s.startLamp.room = s.room := by
  simp only [State.startLamp]; (repeat' split) <;> simp

@[simp] theorem State.startHeat_room (s : State) : s.startHeat.room = s.room := by
  unfold State.startHeat; split <;> simp

/-- The start up to the end of its action. -/
def State.begun (s : State) (sig : Vector Bool 6) : State :=
  (((s.load sig).kick.startTable.startBand.startExpired.startNotices.startLamp).startHeat).evaluate

theorem State.start_eq (s : State) (sig : Vector Bool 6) : s.start sig = (s.begun sig).finish := rfl

theorem State.begun_room (s : State) (sig : Vector Bool 6) : (s.begun sig).room = (s.load sig).room := by simp [State.begun]

/-! ## The parts that only their own rows change -/

/-- The parts of the room that few rows change: authority, lines, scenes, the two clocks, the store records, the queue. -/
def State.owned (s : State) : AuthTable × Lines × Vector Scene 8 × Clock × Nat × Memory × List Instr :=
  (s.authority, s.lines, s.scenes, s.clock, s.uptime, s.memory, s.pending)

theorem State.owned_of_room {s t : State} (h : t.room = s.room) : t.owned = s.owned := by
  simp only [State.room, State.owned, Prod.mk.injEq] at h ⊢
  obtain ⟨-, ha, hl, hs, hc, hu, -, hm, hp⟩ := h
  exact ⟨ha, hl, hs, hc, hu, hm, hp⟩

theorem State.ports_of_room {s t : State} (h : t.room = s.room) : t.ports = s.ports := congrArg Prod.fst h

@[simp] theorem State.flush_owned (s : State) : s.flush.owned = s.owned := rfl

@[simp] theorem State.settle_owned (s : State) : s.settle.owned = s.owned := State.owned_of_room s.settle_room

@[simp] theorem State.finish_owned (s : State) : s.finish.owned = s.owned := s.settle_owned

@[simp] theorem State.answerPort_owned (s : State) (p : Port) (tag code : Byte) (r : Reply) :
    (s.answerPort p tag code r).owned = s.owned := s.settle_owned

/-- From s to t the parts with owners are kept but for those of the flags: clock, authority table, scenes. -/
structure OwnedKept (clock authority scenes : Bool) (s t : State) : Prop where
  pending : t.pending = s.pending
  memory : t.memory = s.memory
  uptime : t.uptime = s.uptime
  lines : t.lines = s.lines
  clock : clock = false → t.clock = s.clock
  authority : authority = false → t.authority = s.authority
  scenes : scenes = false → t.scenes = s.scenes

theorem OwnedKept.of_owned {a b c : Bool} {s t : State} (h : t.owned = s.owned) : OwnedKept a b c s t := by
  simp only [State.owned, Prod.mk.injEq] at h
  obtain ⟨ha, hl, hs, hc, hu, hm, hp⟩ := h
  exact ⟨hp, hm, hu, hl, fun _ => hc, fun _ => ha, fun _ => hs⟩

theorem OwnedKept.of_room {a b c : Bool} {s t : State} (h : t.room = s.room) : OwnedKept a b c s t :=
  .of_owned (State.owned_of_room h)

/-- The action's end adds nothing to what was kept. -/
theorem OwnedKept.then {a b c : Bool} {s t u : State} (h : OwnedKept a b c s t) (k : u.owned = t.owned) : OwnedKept a b c s u := by
  simp only [State.owned, Prod.mk.injEq] at k
  obtain ⟨ha, hl, hs, hc, hu, hm, hp⟩ := k
  exact ⟨hp.trans h.pending, hm.trans h.memory, hu.trans h.uptime, hl.trans h.lines, fun e => hc.trans (h.clock e),
    fun e => ha.trans (h.authority e), fun e => hs.trans (h.scenes e)⟩

theorem OwnedKept.trans {a b c : Bool} {s t u : State} (h : OwnedKept a b c s t) (k : OwnedKept a b c t u) : OwnedKept a b c s u :=
  ⟨k.pending.trans h.pending, k.memory.trans h.memory, k.uptime.trans h.uptime, k.lines.trans h.lines,
    fun e => (k.clock e).trans (h.clock e), fun e => (k.authority e).trans (h.authority e),
    fun e => (k.scenes e).trans (h.scenes e)⟩

/-- The command's code is the one its frame named (R21). -/
theorem parseCmd_code {c : Code} {pl : List Byte} {cmd : Cmd} {b : Bool} (h : parseCmd c pl = some (cmd, b)) : cmdCode cmd = c := by
  cases c <;> simp only [parseCmd, plain, Option.map_eq_some_iff] at h
  case setNoticeMask | setClock =>
    split at h
    · injection h with h; injection h with h; subst h; rfl
    · cases h
  case nudgeKeystone | openTrial | setSourceAspect | writeEntry | protectEntry | writeAuthority =>
    split at h
    · injection h with h; injection h with h; subst h; rfl
    · cases h
  case setInputEnable =>
    split at h
    · split at h
      · injection h with h; injection h with h; subst h; rfl
      · cases h
    · cases h
  case setLockout =>
    obtain ⟨k, -, hk⟩ := h
    split at hk <;> (injection hk with hk; subst hk; rfl)
  all_goals first
    | (injection h with h; injection h with h; subst h; rfl)
    | (obtain ⟨x, -, hx⟩ := h; injection hx with hx; subst hx; rfl)

/-- What an owner does with a command of this code keeps the parts of other owners (R9, R130, R138). -/
theorem State.act_kept (s : State) (p : Port) (cmd : Cmd) :
    OwnedKept (cmdCode cmd == .setClock) (cmdCode cmd == .writeAuthority) (cmdCode cmd == .storeScene) s (s.act p cmd).1 := by
  cases cmd
  case setClock m w k =>
    have h := State.owned_of_room (State.evaluate_room
      (s.setClock { isSet := true, minute := m, weekday := w, week := k, run := s.clock.run + 1 }))
    exact OwnedKept.then (⟨rfl, rfl, rfl, rfl, (by simp [cmdCode]), fun _ => rfl, fun _ => rfl⟩ :
      OwnedKept _ _ _ s (s.setClock { isSet := true, minute := m, weekday := w, week := k, run := s.clock.run + 1 })) h
  case writeAuthority a x =>
    exact OwnedKept.then (⟨rfl, rfl, rfl, rfl, fun _ => rfl, (by simp [cmdCode]), fun _ => rfl⟩ :
      OwnedKept _ _ _ s (s.setAuthority (s.authority.put a (keptClasses a x)))) (State.owned_of_room (State.queueRecord_room _ _))
  case storeScene k =>
    exact OwnedKept.then (⟨rfl, rfl, rfl, rfl, fun _ => rfl, fun _ => rfl, (by simp [cmdCode])⟩ :
      OwnedKept _ _ _ s (s.setScenes (s.scenes.set k s.sceneNow))) (State.owned_of_room (State.queueRecord_room _ _))
  case setIrRoom x =>
    exact OwnedKept.then (⟨rfl, rfl, rfl, rfl, fun _ => rfl, fun _ => rfl, fun _ => rfl⟩ :
      OwnedKept _ _ _ s (s.setConsole { s.console with room := x })) (State.owned_of_room (State.queueRecord_room _ _))
  case replaceLamp m i =>
    cases m
    · exact .of_room (State.replaceNew_room s i)
    · exact .of_room (State.replaceOld_room s)
  case readCounts | setNoticeMask => exact .of_owned rfl
  all_goals exact .of_room (by simp [State.act, done, answer])

theorem State.accept_kept (s : State) (p : Port) (cmd : Cmd) :
    OwnedKept (cmdCode cmd == .setClock) (cmdCode cmd == .writeAuthority) (cmdCode cmd == .storeScene) s (s.accept p cmd).1 := by
  unfold State.accept
  split
  · exact .of_room (State.floorIntake_room _ _ _)
  · split
    · exact .of_room rfl
    · exact s.act_kept p cmd

theorem State.checkFrame_code {s : State} {r : Requester} {c : Code} {pl : List Byte} {x : Cmd × Bool}
    (h : s.checkFrame r c pl = .ok x) : cmdCode x.1 = c := by
  unfold State.checkFrame at h
  split at h
  · cases h
  · split at h
    · cases h
    · split at h
      · cases h
      · rename_i y hy
        split at h
        · cases h
        · injection h with h
          subst h
          exact parseCmd_code hy

theorem State.intakeFrame_kept (s : State) (p : Port) (c : Code) (pl : List Byte) :
    OwnedKept (c == .setClock) (c == .writeAuthority) (c == .storeScene) s (s.intakeFrame p c pl).1 := by
  unfold State.intakeFrame
  split
  · exact .of_room rfl
  · split
    · exact .of_room rfl
    · split
      · exact .of_room rfl
      · rename_i cmd b h
        obtain rfl := State.checkFrame_code h
        exact s.accept_kept p cmd

/-- A command row keeps the parts that its command does not own. -/
theorem takeCommand_kept (c : Code) (p : Port) (s : State) :
    OwnedKept (c == .setClock) (c == .writeAuthority) (c == .storeScene) s (takeCommand c p s) := by
  unfold takeCommand
  split
  · split
    · exact (OwnedKept.of_owned (s := s) (t := s.popInbox p) rfl).trans
        (((s.popInbox p).intakeFrame_kept p c _).then (State.answerPort_owned _ _ _ _ _))
    · exact .of_room rfl
  all_goals exact .of_room rfl

end Sys2Proof.Machine
end

