-- ==== Sys2Proof/Proofs/PortRows.lean ====
section
/-! SUPPORT. Every row once: what it does to each port block, and which parts with owners it keeps. -/

namespace Sys2Proof.Machine

/-! ## The console's operations -/

theorem State.runLocal_room (s : State) (c : Cmd) : (s.runLocal c).1.room = s.room := by
  unfold State.runLocal; split <;> simp

theorem State.takeKey_room (s : State) (k : Key) : (s.takeKey k).room = s.room := by
  unfold State.takeKey
  split
  · rfl
  · simp [State.runLocal_room]

/-- What the console's operations leave: the ports and the parts with owners. -/
def State.aside (s : State) : Ports × AuthTable × Lines × Vector Scene 8 × Clock × Nat × Memory × List Instr := (s.ports, s.owned)

theorem State.aside_of_room {s t : State} (h : t.room = s.room) : t.aside = s.aside :=
  Prod.ext (State.ports_of_room h) (State.owned_of_room h)

theorem State.sample_aside (s : State) (v : Byte) : (s.sample v).aside = s.aside := by
  simp only [State.sample]
  split
  · exact (State.aside_of_room (State.takeKey_room _ _)).trans rfl
  · rfl

theorem State.takeFrame_aside (s : State) (bits : List Bool) : (s.takeFrame bits).aside = s.aside := by
  unfold State.takeFrame
  split
  · split
    · exact State.aside_of_room (State.takeKey_room _ _)
    · rfl
  · rfl

theorem State.takeElement_aside (s : State) (e : IrElement) : (s.takeElement e).aside = s.aside := by
  simp only [State.takeElement]
  split
  · exact (State.takeFrame_aside _ _).trans rfl
  · rfl

theorem State.takeElements_aside (s : State) (l : List IrElement) : (s.takeElements l).aside = s.aside := by
  induction l generalizing s with
  | nil => rfl
  | cons e l ih => exact (ih (s.takeElement e)).trans (s.takeElement_aside e)

/-! ## Port blocks -/

theorem PortSound.place {b : PortBlock} (h : PortSound b) (e : InEntry) : PortSound (b.place e) := by
  unfold PortBlock.place
  split
  · rename_i hl
    exact ⟨by rw [List.length_append]; exact hl, h.2⟩
  · exact h

theorem PortSound.takeByte {b : PortBlock} (h : PortSound b) (x : Byte) : PortSound (b.takeByte x) := by
  unfold PortBlock.takeByte
  split
  · exact h
  · rename_i rx e _
    exact PortSound.place (b := { b with rx := rx }) h e

theorem PortSound.takeBytes {b : PortBlock} (h : PortSound b) (l : List Byte) : PortSound (b.takeBytes l) := by
  unfold PortBlock.takeBytes
  induction l generalizing b with
  | nil => exact h
  | cons x l ih => exact ih (h.takeByte x)

theorem PortSound.abandon {b : PortBlock} (h : PortSound b) : PortSound b.abandon := by
  unfold PortBlock.abandon
  split
  · exact h
  · exact PortSound.place (b := { b with rx := .hunting }) h _
  all_goals exact h

theorem replicate_zero_le : ∀ n ∈ (Vector.replicate 9 0).toList, n ≤ Config.countTop := by decide

/-- A port that is offered a notice stays within its places: a frame needs two free, a count stops at 255 (R179, R181). -/
theorem PortSound.offer {b : PortBlock} (h : PortSound b) (n : Notice) : PortSound (b.offer n) := by
  obtain ⟨hi, ho, hc⟩ := h
  unfold PortBlock.offer
  split
  · rename_i hl
    refine ⟨hi, ?_, hc⟩
    have := hl.2
    simp only [List.length_append, List.length_cons, List.length_nil, Config.noticePlaces] at this ⊢
    omega
  · refine ⟨hi, ho, ?_⟩
    intro k hk
    rw [Vector.mem_toList_iff] at hk
    rcases Vector.mem_or_eq_of_mem_set (hi := (classIndex n.cls).isLt) hk with hk | rfl
    · exact hc k (Vector.mem_toList_iff.mpr hk)
    · exact Nat.min_le_left _ _

theorem PortSound.offers {b : PortBlock} (h : PortSound b) (l : List Notice) : PortSound (l.foldl PortBlock.offer b) := by
  induction l generalizing b with
  | nil => exact h
  | cons n l ih => exact ih (h.offer n)

/-- A response finds the place that intake looked for (R3, R4). -/
theorem PortSound.respond {b : PortBlock} (h : PortSound b) (hp : b.outq.length < Config.outboundPlaces) (tag code : Byte) (r : Reply) :
    PortSound (b.respond tag code r) := by
  refine ⟨h.1, ?_, h.2.2⟩
  simp only [PortBlock.respond, List.length_append, List.length_cons, List.length_nil]
  exact hp

@[simp] theorem Ports.offerAll_get (ps : Ports) (l : List Notice) (q : Port) :
    (ps.offerAll l).get q = l.foldl PortBlock.offer (ps.get q) := by cases q <;> rfl

/-! ## What a row does to the ports -/

/-- From s a row of port `own`, or of none, has changed that port's block alone, kept it within its places, and then offered notices to every
port (R4, R179). -/
def PortsStep (own : Option Port) (s t : State) : Prop :=
  ∃ (l : List Notice) (ps : Ports), t.ports = ps.offerAll l
    ∧ ∀ q, (own ≠ some q → ps.get q = s.port q) ∧ (PortSound (s.port q) → PortSound (ps.get q))

theorem PortsStep.refl (own : Option Port) (s : State) : PortsStep own s s := ⟨[], s.ports, rfl, fun _ => ⟨fun _ => rfl, id⟩⟩

/-- An action that leaves the ports offers its notices at its end. -/
theorem PortsStep.finish {own : Option Port} {s x : State} (h : x.ports = s.ports) : PortsStep own s x.finish :=
  ⟨x.settle.raised, s.ports, by rw [← h, ← State.ports_of_room x.settle_room]; rfl, fun _ => ⟨fun _ => rfl, id⟩⟩

/-- A row that replaces its port's block, and then offers notices. -/
theorem PortsStep.put {s t : State} {p : Port} {b : PortBlock} {l : List Notice} (ht : t.ports = (s.ports.put p b).offerAll l)
    (hb : PortSound (s.port p) → PortSound b) : PortsStep (some p) s t := by
  refine ⟨l, _, ht, fun q => ?_⟩
  by_cases e : q = p
  · subst e
    exact ⟨fun h => absurd rfl h, fun h => by rw [Ports.get_put]; exact hb h⟩
  · rw [Ports.get_put_ne _ _ e]
    exact ⟨fun _ => rfl, id⟩

/-- An owner's action on a command of port p touches that port's counts and mask alone, and zeroes the counts if it changes them
(R180, R181). -/
theorem State.act_ports (s : State) (p : Port) (cmd : Cmd) : ∃ (m : BitVec 9) (cs : Vector Nat 9),
    (s.act p cmd).1.ports = s.ports.put p { s.port p with mask := m, counts := cs }
      ∧ (cs = (s.port p).counts ∨ cs = Vector.replicate 9 0) := by
  have same : ∀ t : State, t.room = s.room → ∃ (m : BitVec 9) (cs : Vector Nat 9),
      t.ports = s.ports.put p { s.port p with mask := m, counts := cs }
        ∧ (cs = (s.port p).counts ∨ cs = Vector.replicate 9 0) := fun t ht =>
    ⟨(s.port p).mask, (s.port p).counts, (State.ports_of_room ht).trans (s.ports.put_get p).symm, .inl rfl⟩
  have same' : ∀ u t : State, u.ports = s.ports → t.room = u.room → ∃ (m : BitVec 9) (cs : Vector Nat 9),
      t.ports = s.ports.put p { s.port p with mask := m, counts := cs }
        ∧ (cs = (s.port p).counts ∨ cs = Vector.replicate 9 0) := fun u t hu ht =>
    ⟨(s.port p).mask, (s.port p).counts, ((State.ports_of_room ht).trans hu).trans (s.ports.put_get p).symm, .inl rfl⟩
  cases cmd
  case readCounts => exact ⟨_, _, rfl, .inr rfl⟩
  case setNoticeMask m => exact ⟨m, _, rfl, .inl rfl⟩
  case setClock m w k =>
    exact same' (s.setClock { isSet := true, minute := m, weekday := w, week := k, run := s.clock.run + 1 }) _ rfl
      (State.evaluate_room _)
  case writeAuthority a x =>
    exact same' (s.setAuthority (s.authority.put a (keptClasses a x))) _ rfl (State.queueRecord_room _ _)
  case storeScene k => exact same' (s.setScenes (s.scenes.set k s.sceneNow)) _ rfl (State.queueRecord_room _ _)
  case setIrRoom x => exact same' (s.setConsole { s.console with room := x }) _ rfl (State.queueRecord_room _ _)
  case replaceLamp m i =>
    cases m
    · exact same _ (State.replaceNew_room s i)
    · exact same _ (State.replaceOld_room s)
  all_goals exact same _ (by simp [State.act, done, answer])

theorem State.intakeFrame_ports (s : State) (p : Port) (c : Code) (pl : List Byte) : ∃ (m : BitVec 9) (cs : Vector Nat 9),
    (s.intakeFrame p c pl).1.ports = s.ports.put p { s.port p with mask := m, counts := cs }
      ∧ (cs = (s.port p).counts ∨ cs = Vector.replicate 9 0) := by
  have same : ∃ (m : BitVec 9) (cs : Vector Nat 9), s.ports = s.ports.put p { s.port p with mask := m, counts := cs }
        ∧ (cs = (s.port p).counts ∨ cs = Vector.replicate 9 0) :=
    ⟨(s.port p).mask, (s.port p).counts, (s.ports.put_get p).symm, .inl rfl⟩
  unfold State.intakeFrame
  split
  · exact same
  · split
    · exact same
    · split
      · exact same
      · rename_i cmd b _
        unfold State.accept
        dsimp only
        split
        · rw [State.ports_of_room (State.floorIntake_room _ _ _)]; exact same
        · split
          · exact same
          · exact s.act_ports p cmd

/-- The end of a command's action: the response at its port, then the notices at every port (R4). -/
theorem State.answerPort_ports (s : State) (p : Port) (tag code : Byte) (r : Reply) :
    (s.answerPort p tag code r).ports = (s.ports.put p ((s.port p).respond tag code r)).offerAll s.settle.raised := by
  have h : s.settle.ports = s.ports := State.ports_of_room s.settle_room
  simp only [State.answerPort, State.flush, State.respond, State.setPort, State.port, State.setPorts, State.setRaised, h]

/-- An entry taken from port p and answered there, the action between touching at most the counts and the mask of that port. -/
theorem PortsStep.answer {s x : State} {p : Port} {m : BitVec 9} {cs : Vector Nat 9} (tag code : Byte) (r : Reply)
    (hx : x.ports = (s.popInbox p).ports.put p { (s.popInbox p).port p with mask := m, counts := cs })
    (hc : cs = ((s.popInbox p).port p).counts ∨ cs = Vector.replicate 9 0) (hp : (s.port p).hasPlace = true) :
    PortsStep (some p) s (x.answerPort p tag code r) := by
  have hb : x.port p = { s.port p with inbox := (s.port p).inbox.tail, mask := m, counts := cs } := by
    unfold State.port
    rw [hx, Ports.get_put, State.popInbox_port]
    rfl
  refine PortsStep.put (b := (x.port p).respond tag code r) (l := x.settle.raised) ?_ ?_
  · rw [State.answerPort_ports, hx, Ports.put_put]
    simp [State.popInbox, State.setPort, State.setPorts]
  · rintro ⟨hi, ho, hk⟩
    rw [hb]
    refine PortSound.respond (b := { s.port p with inbox := (s.port p).inbox.tail, mask := m, counts := cs }) ⟨?_, ho, ?_⟩ (by simpa [PortBlock.hasPlace] using hp) _ _ _
    · exact (List.length_tail ▸ Nat.sub_le _ _ : (s.port p).inbox.tail.length ≤ (s.port p).inbox.length).trans hi
    · rcases hc with rfl | rfl
      · simpa using hk
      · exact replicate_zero_le

theorem takeCommand_portsStep (c : Code) (p : Port) (s : State) : PortsStep (some p) s (takeCommand c p s) := by
  unfold takeCommand
  split
  · rename_i f _
    split
    · rename_i hp
      obtain ⟨m, cs, hx, hc⟩ := (s.popInbox p).intakeFrame_ports p c f.payload
      exact PortsStep.answer _ _ _ hx hc hp.2
    · exact .refl _ _
  all_goals exact .refl _ _

theorem takeBadFrame_portsStep (p : Port) (s : State) : PortsStep (some p) s (takeBadFrame p s) := by
  unfold takeBadFrame
  split
  · split
    · exact PortsStep.answer _ _ _ (Ports.put_get _ p).symm (.inl rfl) ‹_›
    · exact .refl _ _
  all_goals exact .refl _ _

theorem takeUnknown_portsStep (p : Port) (s : State) : PortsStep (some p) s (takeUnknown p s) := by
  unfold takeUnknown
  split
  · split
    · rename_i hp
      exact PortsStep.answer _ _ _ (Ports.put_get _ p).symm (.inl rfl) hp.2
    · exact .refl _ _
  all_goals exact .refl _ _

end Sys2Proof.Machine
end

