-- ==== Sys2Proof/Proofs/RowKeeps.lean ====
section
/-! SUPPORT. Every row in one case split: the state it answers, and what that keeps. -/

namespace Sys2Proof.Machine

/-- The parts with owners after row c (R8, R48, R59, R130, R138, R141, R182, R185). -/
def OwnersKept (c : Instr) (s t : State) : Prop :=
  t.pending = s.pending ∧ (writesMemory c = false → t.memory = s.memory) ∧ (movesClock c = false → t.clock = s.clock)
    ∧ (movesUptime c = false → t.uptime = s.uptime) ∧ (movesLines c = false → t.lines = s.lines)
    ∧ (writesAuthority c = false → t.authority = s.authority) ∧ (writesScenes c = false → t.scenes = s.scenes)

theorem OwnersKept.of_owned {c : Instr} {s t : State} (h : t.owned = s.owned) : OwnersKept c s t := by
  simp only [State.owned, Prod.mk.injEq] at h
  obtain ⟨ha, hl, hs, hc, hu, hm, hp⟩ := h
  exact ⟨hp, fun _ => hm, fun _ => hc, fun _ => hu, fun _ => hl, fun _ => ha, fun _ => hs⟩

/-- The end of the action adds nothing. -/
theorem OwnersKept.then {c : Instr} {s t u : State} (h : OwnersKept c s t) (k : u.owned = t.owned) : OwnersKept c s u := by
  simp only [State.owned, Prod.mk.injEq] at k
  obtain ⟨ha, hl, hs, hc, hu, hm, hp⟩ := k
  obtain ⟨gp, gm, gc, gu, gl, ga, gs⟩ := h
  exact ⟨hp.trans gp, fun e => hm.trans (gm e), fun e => hc.trans (gc e), fun e => hu.trans (gu e), fun e => hl.trans (gl e),
    fun e => ha.trans (ga e), fun e => hs.trans (gs e)⟩

/-- What a row that is no reset keeps. -/
structure RowKeeps (c : Instr) (s t : State) : Prop where
  ports : PortsStep (portOf c) s t
  owners : OwnersKept c s t
  queue : s.store.Sound → t.store.Sound

theorem RowKeeps.refl (c : Instr) (s : State) : RowKeeps c s s := ⟨.refl _ _, .of_owned rfl, id⟩

theorem RowKeeps.ite {c : Instr} {s t u : State} {p : Prop} [Decidable p] (ht : RowKeeps c s t) (hu : RowKeeps c s u) :
    RowKeeps c s (if p then t else u) := by split <;> assumption

/-- A row that ends its action x, the ports left alone within it. -/
theorem RowKeeps.finish {c : Instr} {s x : State} (hp : x.ports = s.ports) (ho : OwnersKept c s x)
    (hq : s.store.Sound → x.store.Sound) : RowKeeps c s x.finish :=
  ⟨.finish hp, ho.then x.finish_owned, fun h => State.finish_sound (hq h)⟩

/-- A row whose action leaves the ports and all parts with owners. -/
theorem RowKeeps.finish' {c : Instr} {s x : State} (h : x.aside = s.aside) (hq : s.store.Sound → x.store.Sound) :
    RowKeeps c s x.finish :=
  .finish (congrArg Prod.fst h) (.of_owned (congrArg Prod.snd h)) hq

theorem RowKeeps.finish_room {c : Instr} {s x : State} (h : x.room = s.room) (hq : s.store.Sound → x.store.Sound) :
    RowKeeps c s x.finish := .finish' (State.aside_of_room h) hq

/-- A row that replaces its port's block alone. -/
theorem RowKeeps.setPort {c : Instr} {s : State} {p : Port} {b : PortBlock} (hc : portOf c = some p)
    (hb : PortSound (s.port p) → PortSound b) : RowKeeps c s (s.setPort p b) :=
  ⟨hc ▸ .put (l := []) rfl hb, .of_owned rfl, id⟩

theorem movesClock_rowOf (k : Code) (p : Port) : movesClock (rowOf k p) = (k == .setClock) := by cases k <;> rfl
theorem writesAuthority_rowOf (k : Code) (p : Port) : writesAuthority (rowOf k p) = (k == .writeAuthority) := by cases k <;> rfl
theorem writesScenes_rowOf (k : Code) (p : Port) : writesScenes (rowOf k p) = (k == .storeScene) := by cases k <;> rfl

theorem RowKeeps.command {k : Code} {p : Port} {c : Instr} {s : State} (hc : rowOf k p = c) : RowKeeps c s (takeCommand k p s) := by
  subst hc
  have h := takeCommand_kept k p s
  refine ⟨?_, ⟨h.pending, fun _ => h.memory, fun e => h.clock ?_, fun _ => h.uptime, fun _ => h.lines, fun e => h.authority ?_,
    fun e => h.scenes ?_⟩, fun hs => takeCommand_sound hs k p⟩
  · rw [(Laws.Ported.of_rowOf k p).1]; exact takeCommand_portsStep k p s
  · rwa [movesClock_rowOf] at e
  · rwa [writesAuthority_rowOf] at e
  · rwa [writesScenes_rowOf] at e

theorem takeBadFrame_keeps (p : Port) (s : State) : RowKeeps (.badFrameEntry p) s (takeBadFrame p s) := by
  refine ⟨takeBadFrame_portsStep p s, .of_owned ?_, ?_⟩ <;> unfold takeBadFrame
  · (repeat' split)
    · exact (State.answerPort_owned _ _ _ _ _).trans rfl
    all_goals rfl
  · intro h
    (repeat' split)
    · exact State.settle_sound (s := s.popInbox p) h
    all_goals exact h

theorem takeUnknown_keeps (p : Port) (s : State) : RowKeeps (.unknownCommand p) s (takeUnknown p s) := by
  refine ⟨takeUnknown_portsStep p s, .of_owned ?_, ?_⟩ <;> unfold takeUnknown
  · (repeat' split)
    · exact (State.answerPort_owned _ _ _ _ _).trans rfl
    all_goals rfl
  · intro h
    (repeat' split)
    · exact State.settle_sound (s := s.popInbox p) h
    all_goals exact h

theorem portReset_keeps (p : Port) (s : State) :
    RowKeeps (.portReset p) s ((s.setPort p (s.port p).broken).loseStanding (portRequester p)).finish := by
  let y := s.setPort p (s.port p).broken
  have hroom : (y.loseStanding (portRequester p)).settle.room = y.room := (State.settle_room _).trans (State.loseStanding_room _ _)
  refine ⟨PortsStep.put (b := (s.port p).broken) (l := (y.loseStanding (portRequester p)).settle.raised) ?_ ?_,
    .of_owned ((State.owned_of_room hroom).trans rfl), fun h => State.finish_sound (State.loseStanding_sound (s := y) h _)⟩
  · exact congrArg (fun ps : Ports => ps.offerAll (y.loseStanding (portRequester p)).settle.raised) (State.ports_of_room hroom)
  · exact fun _ => ⟨by simp [PortBlock.broken], by simp [PortBlock.broken], replicate_zero_le⟩

/-! ## The rows that are not of a port -/

theorem State.minuteTick_keeps (s : State) (run : Nat) : OwnersKept (.clockMinuteTick run) s s.minuteTick := by
  unfold State.minuteTick
  split
  · exact OwnersKept.then (t := s.setClock s.clock.tick) ⟨rfl, fun _ => rfl, nofun, fun _ => rfl, fun _ => rfl, fun _ => rfl, fun _ => rfl⟩
      (State.owned_of_room (State.evaluate_room _))
  · exact .of_owned rfl

theorem State.minuteTick_ports (s : State) : s.minuteTick.ports = s.ports := by
  unfold State.minuteTick
  split
  · exact (State.ports_of_room (State.evaluate_room (s.setClock s.clock.tick))).trans rfl
  · rfl

theorem State.completeWrite_ports (s : State) : s.completeWrite.ports = s.ports := by
  unfold State.completeWrite
  split
  · rfl
  · dsimp only
    rw [State.ports_of_room (State.kick_room _)]
    split <;> rfl

theorem State.completeWrite_keeps (s : State) (n : Nat) : OwnersKept (.storeWriteComplete n) s s.completeWrite := by
  unfold State.completeWrite
  split
  · exact .of_owned rfl
  · dsimp only
    rename_i i _
    refine OwnersKept.then (t := s.setMemory (s.memory.write i))
      ⟨rfl, nofun, fun _ => rfl, fun _ => rfl, fun _ => rfl, fun _ => rfl, fun _ => rfl⟩
      ((State.owned_of_room (State.kick_room _)).trans ?_)
    split <;> rfl

/-- A report of LAMP_SENSE or THERM_HOT moves the lines, and what follows leaves the room. -/
theorem RowKeeps.line {c : Instr} {s x : State} {l : Lines} (hc : movesLines c = true) (hx : x.room = (s.setLines l).room)
    (hq : s.store.Sound → x.store.Sound) : RowKeeps c s x.finish :=
  .finish ((State.ports_of_room hx).trans rfl) (OwnersKept.then (t := s.setLines l)
    ⟨rfl, fun _ => rfl, fun _ => rfl, fun _ => rfl, fun e => (Bool.eq_false_iff.mp e hc).elim, fun _ => rfl, fun _ => rfl⟩
    (State.owned_of_room hx)) hq

theorem State.tickUptime_keeps (s : State) : RowKeeps .uptimeTick s s.tickUptime.finish := by
  have h : s.tickUptime.room = (s.setUptime (satAdd Config.top32 s.uptime 1)).room := State.examineDeferral_room _
  exact .finish ((State.ports_of_room h).trans rfl) (OwnersKept.then (t := s.setUptime (satAdd Config.top32 s.uptime 1))
    ⟨rfl, fun _ => rfl, fun _ => rfl, nofun, fun _ => rfl, fun _ => rfl, fun _ => rfl⟩ (State.owned_of_room h))
    fun q => by simpa [State.tickUptime] using q

/-! ## The console keeps the queue within its places -/

theorem State.takeKey_sound {s : State} (h : s.store.Sound) (k : Key) : (s.takeKey k).store.Sound := by
  unfold State.takeKey
  split
  · exact h
  · apply State.settle_sound
    exact State.runLocal_sound (s := s.setRaised []) h _

theorem State.sample_sound {s : State} (h : s.store.Sound) (v : Byte) : (s.sample v).store.Sound := by
  simp only [State.sample]
  split
  · apply State.takeKey_sound; exact h
  · exact h

theorem State.takeElement_sound {s : State} (h : s.store.Sound) (e : IrElement) : (s.takeElement e).store.Sound := by
  simp only [State.takeElement, State.takeFrame]
  split
  · split
    · split
      · apply State.takeKey_sound; exact h
      · exact h
    · exact h
  · exact h

theorem State.takeElements_sound {s : State} (h : s.store.Sound) (l : List IrElement) : (s.takeElements l).store.Sound := by
  induction l generalizing s with
  | nil => exact h
  | cons e l ih => exact ih (State.takeElement_sound h e)

/-! ## The scaler's rows -/

theorem State.sigRises_room (s : State) (n : InputIdx) : (s.sigRises n).room = s.room := by
  simp only [State.sigRises]; (repeat' split) <;> simp
theorem State.sigFalls_room (s : State) (n : InputIdx) : (s.sigFalls n).room = s.room := by simp [State.sigFalls]
theorem State.blankAnswered_room (s : State) (k : BlankKind) (n : Nat) (b : BlankRecord) :
    (s.blankAnswered k n b).room = s.room := by unfold State.blankAnswered; split <;> simp
theorem State.blankLost_room (s : State) (n : Nat) : (s.blankLost n).room = s.room := by
  simp only [State.blankLost]; (repeat' split) <;> simp
theorem State.lockAnswered_room (s : State) (t : Timing) : (s.lockAnswered t).room = s.room := by
  unfold State.lockAnswered; (repeat' split) <;> simp
theorem State.windowEnds_room (s : State) (n : Nat) : (s.windowEnds n).room = s.room := by
  unfold State.windowEnds; (repeat' split) <;> simp
theorem State.limitEnds_room (s : State) (n : Nat) : (s.limitEnds n).room = s.room := by
  unfold State.limitEnds; (repeat' split) <;> simp
theorem State.tableAnswered_room (s : State) (n q : Nat) : (s.tableAnswered n q).room = s.room := by
  unfold State.tableAnswered; (repeat' split) <;> simp
theorem State.tableLate_room (s : State) (n : Nat) : (s.tableLate n).room = s.room := by
  unfold State.tableLate; (repeat' split) <;> simp
theorem State.timingChanges_room (s : State) : s.timingChanges.room = s.room := by
  unfold State.timingChanges; split <;> simp
theorem State.dropNotice_room (s : State) (a : Option LampAsker) : (s.dropNotice a).room = s.room := by
  unfold State.dropNotice; split <;> simp
theorem State.loseSupply_room (s : State) (b : Bool) : (s.loseSupply b).room = s.room := by
  unfold State.loseSupply; split <;> simp
theorem State.coolEnds_room (s : State) : s.coolEnds.room = s.room := by
  unfold State.coolEnds State.restInOff State.restInFault
  (repeat' split) <;> simp [State.dropNotice_room, State.loseSupply_room]

theorem State.sigRises_sound {s : State} (h : s.store.Sound) (n : InputIdx) : (s.sigRises n).store.Sound := by
  simp only [State.sigRises]
  split
  · rw [(EngineOnly.wantRelock _).store]
    split <;> (first | rw [(EngineOnly.forget _ _).store] | skip) <;> rw [State.watchBlank_store] <;> exact h
  · rw [State.watchBlank_store]; exact h

theorem State.blankAnswered_sound {s : State} (h : s.store.Sound) (k : BlankKind) (n : Nat) (b : BlankRecord) :
    (s.blankAnswered k n b).store.Sound := by
  unfold State.blankAnswered
  split
  · rw [(EngineOnly.endMuting _).store, (EngineOnly.compareBlank _).store]; exact h
  · exact h

theorem State.blankLost_sound {s : State} (h : s.store.Sound) (n : Nat) : (s.blankLost n).store.Sound := by
  simp only [State.blankLost]
  split
  · exact h
  · split
    · exact h
    · split
      · apply State.completeSwitch_sound; exact h
      · exact h

theorem State.lockAnswered_sound {s : State} (h : s.store.Sound) (t : Timing) : (s.lockAnswered t).store.Sound := by
  unfold State.lockAnswered
  split
  · split
    · rw [State.watchBlank_store, (EngineOnly.enterApplying _ _).store]; exact h
    · exact State.lockFails_sound h
  all_goals exact h

theorem State.windowEnds_sound {s : State} (h : s.store.Sound) (n : Nat) : (s.windowEnds n).store.Sound := by
  unfold State.windowEnds
  split
  · split
    · exact State.lockFails_sound h
    · exact h
  · exact h

theorem State.limitEnds_sound {s : State} (h : s.store.Sound) (n : Nat) : (s.limitEnds n).store.Sound := by
  unfold State.limitEnds
  split
  · split
    · exact State.completeSwitch_sound h _
    · exact h
  · exact h

theorem State.tableAnswered_sound {s : State} (h : s.store.Sound) (n q : Nat) : (s.tableAnswered n q).store.Sound := by
  unfold State.tableAnswered
  split
  · split
    · apply State.endApplying_sound
      unfold State.tableApplied
      dsimp only
      split <;> exact h
    · exact h
  · exact h

theorem State.tableLate_sound {s : State} (h : s.store.Sound) (n : Nat) : (s.tableLate n).store.Sound := by
  unfold State.tableLate
  split
  · split
    · exact h
    · split
      · apply State.completeSwitch_sound; exact h
      · exact h
  · exact h

theorem State.timingChanges_sound {s : State} (h : s.store.Sound) : s.timingChanges.store.Sound := by
  unfold State.timingChanges
  split
  · rw [(EngineOnly.wantRelock _).store, State.watchBlank_store, State.tellAspect_store]; exact h
  · exact h

theorem State.loseSupply_sound {s : State} (h : s.store.Sound) (b : Bool) : (s.loseSupply b).store.Sound := by
  unfold State.loseSupply
  split
  · exact State.powerDown_sound h
  · exact h

theorem State.restInOff_sound {s : State} (h : s.store.Sound) : s.restInOff.store.Sound := by
  unfold State.restInOff
  rw [State.dropNotice_store, State.examineThermal_store]
  apply State.loseSupply_sound; exact h

theorem State.restInFault_sound {s : State} (h : s.store.Sound) : s.restInFault.store.Sound := by
  unfold State.restInFault
  rw [State.dropNotice_store, State.examineThermal_store]
  apply State.checkpoint_sound
  apply State.addLampLock_sound
  apply State.loseSupply_sound; exact h

theorem State.coolEnds_sound {s : State} (h : s.store.Sound) : s.coolEnds.store.Sound := by
  unfold State.coolEnds
  split
  · exact h
  · split
    · exact State.restInFault_sound h
    · split
      · split
        · apply State.strike_sound; exact h
        · exact State.restInOff_sound h
      · exact State.restInOff_sound h

/-! ## All rows -/

/-- A row that is no reset answers a next state, and this is what it keeps. -/
theorem exec_keeps (c : Instr) (s : State) (hc : isReset c = false) : ∃ t, exec c s = .next t ∧ RowKeeps c s t := by
  cases c
  case powerOnReset | resetN | controllerResetBegin => cases hc
  case frameReceive p l => exact ⟨_, rfl, .setPort rfl fun h => h.takeBytes l⟩
  case frameGapTimeout p l | frameStopBitError p l => exact ⟨_, rfl, .setPort rfl fun h => (PortSound.takeBytes h l).abandon⟩
  case frameLenOver48 p l n => exact ⟨_, rfl, .setPort rfl fun h => PortSound.takeBytes h (l ++ [n])⟩
  case outboundFrameSent p =>
    refine ⟨_, rfl, .setPort rfl fun h => ⟨h.1, ?_, h.2.2⟩⟩
    rw [List.length_tail]
    exact (Nat.sub_le _ _).trans h.2.1
  case lineReturnsToMark p => exact ⟨_, rfl, .ite (.setPort rfl fun h => h) (.refl _ _)⟩
  case badFrameEntry p => exact ⟨_, rfl, takeBadFrame_keeps p s⟩
  case unknownCommand p => exact ⟨_, rfl, takeUnknown_keeps p s⟩
  case portReset p => exact ⟨_, rfl, portReset_keeps p s⟩
  case lampSenseRise =>
    exact ⟨_, rfl, .ite (.refl _ _) (.line rfl (State.senseRise_room _) fun h => by rw [State.senseRise_store]; exact h)⟩
  case dropOut =>
    exact ⟨_, rfl, .ite (.line rfl (State.senseFall_room _) fun h => State.senseFall_sound (s := s.setSense false) h) (.refl _ _)⟩
  case overheat =>
    exact ⟨_, rfl, .ite (.refl _ _) (.line rfl (State.heat_room _) fun h => State.heat_sound (s := s.setHot true) h)⟩
  case thermHotDeassert =>
    exact ⟨_, rfl, .ite (.line rfl (State.examineThermal_room _) fun h => by rw [State.examineThermal_store]; exact h) (.refl _ _)⟩
  case strikeWindowExpiry n => exact ⟨_, rfl, .ite (.finish_room s.strikeFails_room State.strikeFails_sound) (.refl _ _)⟩
  case retryPauseEnd n => exact ⟨_, rfl, .ite (.finish_room s.retryEnds_room State.retryEnds_sound) (.refl _ _)⟩
  case warmupEnd n => exact ⟨_, rfl, .ite (.finish_room s.warmupEnds_room State.warmupEnds_sound) (.refl _ _)⟩
  case cooldownEnd n => exact ⟨_, rfl, .ite (.finish_room s.coolEnds_room State.coolEnds_sound) (.refl _ _)⟩
  case litSecond => exact ⟨_, rfl, .finish_room s.litSecond_room State.litSecond_sound⟩
  case sigRise n => exact ⟨_, rfl, .ite (.refl _ _) (.finish_room (s.sigRises_room n) fun h => State.sigRises_sound h n)⟩
  case sigFall n =>
    refine ⟨_, rfl, .ite (.finish_room (s.sigFalls_room n) fun h => ?_) (.refl _ _)⟩
    unfold State.sigFalls
    rw [State.watchBlank_store, State.tellAspect_store]
    exact h
  case blanked m =>
    refine ⟨_, rfl, ?_⟩
    split
    · exact .finish_room (s.blankAnswered_room _ _ _) fun h => State.blankAnswered_sound h _ _ _
    · exact .refl _ _
  case unblanked m =>
    refine ⟨_, rfl, ?_⟩
    split
    · exact .finish_room (s.blankAnswered_room _ _ _) fun h => State.blankAnswered_sound h _ _ _
    · exact .refl _ _
  case locked m =>
    refine ⟨_, rfl, ?_⟩
    split
    · exact .ite (.finish_room (s.lockAnswered_room _) fun h => State.lockAnswered_sound h _) (.refl _ _)
    · exact .refl _ _
  case lockFailed m =>
    refine ⟨_, rfl, ?_⟩
    split
    · exact .ite (.finish_room s.lockFails_room State.lockFails_sound) (.refl _ _)
    · exact .refl _ _
  case applied m =>
    refine ⟨_, rfl, ?_⟩
    split
    · exact .finish_room (s.tableAnswered_room _ _) fun h => State.tableAnswered_sound h _ _
    · exact .refl _ _
  case timingChanged m =>
    refine ⟨_, rfl, ?_⟩
    split
    · exact .ite (.finish_room s.timingChanges_room State.timingChanges_sound) (.refl _ _)
    · exact .refl _ _
  case lockWindowExpiry n => exact ⟨_, rfl, .finish_room (s.windowEnds_room n) fun h => State.windowEnds_sound h n⟩
  case overallLockLimitExpiry n => exact ⟨_, rfl, .finish_room (s.limitEnds_room n) fun h => State.limitEnds_sound h n⟩
  case blankRequestTimeout n => exact ⟨_, rfl, .finish_room (s.blankLost_room n) fun h => State.blankLost_sound h n⟩
  case tableTimeout n => exact ⟨_, rfl, .finish_room (s.tableLate_room n) fun h => State.tableLate_sound h n⟩
  case clockMinuteTick n =>
    exact ⟨_, rfl, .ite (.finish s.minuteTick_ports (s.minuteTick_keeps n) State.minuteTick_sound) (.refl _ _)⟩
  case uptimeTick => exact ⟨_, rfl, s.tickUptime_keeps⟩
  case deferralExpiry => exact ⟨_, rfl, .finish_room s.expireDeferral_room State.expireDeferral_sound⟩
  case lockoutExpiry => exact ⟨_, rfl, .finish_room s.expireLockouts_room State.expireLockouts_sound⟩
  case storeWriteComplete n =>
    exact ⟨_, rfl, .ite (.finish s.completeWrite_ports (s.completeWrite_keeps n) State.completeWrite_sound) (.refl _ _)⟩
  case storeWriteTimeout n => exact ⟨_, rfl, .ite (.finish_room s.failWrite_room State.failWrite_sound) (.refl _ _)⟩
  case keypadSample v => exact ⟨_, rfl, .finish' (s.sample_aside v) fun h => State.sample_sound h v⟩
  case irFrame l | irFrameDiscard l =>
    exact ⟨_, rfl, .finish' (s.takeElements_aside l) fun h => State.takeElements_sound h l⟩
  case irIdleGap => exact ⟨_, rfl, .finish' (s.takeElement_aside _) fun h => State.takeElement_sound h _⟩
  all_goals exact ⟨_, rfl, RowKeeps.command rfl⟩

end Sys2Proof.Machine
end

