-- ==== Sys2Proof/Proofs/AllRows.lean ====
section
/-! SUPPORT. The resets' part of what every row keeps, and the frames and places of all rows. -/

namespace Sys2Proof.Machine

theorem State.startExpired_sound {s : State} (h : s.store.Sound) : s.startExpired.store.Sound := by
  unfold State.startExpired
  split
  · exact State.addLampLock_sound h _
  · exact h

theorem State.startNotices_store (s : State) : s.startNotices.store = s.store := by
  have h : ∀ (l : List LockKind) (t : State), (l.foldl (fun t k =>
      match s.lockouts.find? fun l => l.kind == k with
      | some l => t.notify (inForceNotice k l.origin)
      | none => t) t).store = t.store := by
    intro l
    induction l with
    | nil => intro t; rfl
    | cons k l ih =>
      intro t
      rw [List.foldl_cons, ih]
      split <;> rfl
  exact h allKinds s

theorem State.startCooling_sound {s : State} (h : s.store.Sound) : s.startCooling.store.Sound := by
  unfold State.startCooling
  dsimp only
  apply State.bookCooldown_sound
  rw [State.enterLamp_store]
  split <;> exact h

theorem State.startLamp_sound {s : State} (h : s.store.Sound) : s.startLamp.store.Sound := by
  have ht : (s.setLamp { s.lamp with level := if spent s.wear.band then .eco else .normal }).store.Sound := h
  unfold State.startLamp
  generalize s.setLamp { s.lamp with level := if spent s.wear.band then .eco else .normal } = t at ht ⊢
  dsimp only
  split
  · exact State.startCooling_sound ht
  · split <;> exact ht

theorem State.startHeat_sound {s : State} (h : s.store.Sound) : s.startHeat.store.Sound := by
  unfold State.startHeat
  split
  · exact State.heat_sound h
  · exact h

/-- A start leaves the write queue within its places, since it begins with an empty one (R183). -/
theorem State.begun_sound (s : State) (sig : Vector Bool 6) : (s.begun sig).store.Sound := by
  have hload : (s.load sig).store.Sound := ⟨Nat.zero_le _, List.nodup_nil, List.not_mem_nil, nofun⟩
  have hband : (s.load sig).kick.startTable.startBand.store.Sound := State.kick_sound hload
  have hnote := (State.startNotices_store (s.load sig).kick.startTable.startBand.startExpired) ▸ State.startExpired_sound hband
  exact State.evaluate_sound (State.startHeat_sound (State.startLamp_sound hnote))

/-- The room after a start: the ports with the start's notices, and the rest as loaded. -/
theorem State.start_ports (s : State) (sig : Vector Bool 6) :
    (s.start sig).ports = s.ports.offerAll (s.begun sig).settle.raised := by
  have h : (s.begun sig).settle.ports = s.ports :=
    (State.ports_of_room ((State.settle_room _).trans (s.begun_room sig))).trans rfl
  rw [← h]
  rfl

theorem State.start_owned (s : State) (sig : Vector Bool 6) : (s.start sig).owned = (s.load sig).owned :=
  (State.finish_owned _).trans (State.owned_of_room (s.begun_room sig))

theorem PortSound.cleared (x : LineRate) : PortSound (PortBlock.cleared x) :=
  ⟨Nat.zero_le _, Nat.zero_le _, replicate_zero_le⟩

/-- A start from cleared ports leaves the ports within their places. -/
theorem State.start_portsSound {s : State} (sig : Vector Bool 6) (h : PortsSound s) : PortsSound (s.start sig) := by
  obtain ⟨h1, h2, h3⟩ := h
  unfold PortsSound
  rw [s.start_ports sig]
  exact ⟨PortSound.offers h1 _, PortSound.offers h2 _, PortSound.offers h3 _⟩

/-- Each reset is a start, over cleared ports. -/
theorem exec_reset (c : Instr) (s : State) (hc : isReset c = true) : ∃ t, exec c s = .next t
    ∧ (t = s ∨ ∃ (u : State) (sig : Vector Bool 6), t = u.start sig ∧ PortsSound u ∧ u.pending = s.pending
        ∧ (isPowerOn c = false → u.memory = s.memory ∧ u.clock = s.clock ∧ u.lines = s.lines)) := by
  have controller : ∃ (u : State) (sig : Vector Bool 6), s.controllerReset = u.start sig ∧ PortsSound u ∧ u.pending = s.pending
      ∧ (u.memory = s.memory ∧ u.clock = s.clock ∧ u.lines = s.lines) :=
    ⟨_, _, rfl, ⟨.cleared _, .cleared _, .cleared _⟩, rfl, rfl, rfl, rfl⟩
  obtain ⟨u, sig, h, hp, hq, hr⟩ := controller
  cases c
  case powerOnReset x => exact ⟨_, rfl, .inr ⟨_, _, rfl, ⟨.cleared _, .cleared _, .cleared _⟩, rfl, nofun⟩⟩
  case resetN => exact ⟨_, rfl, .inr ⟨u, sig, h, hp, hq, fun _ => hr⟩⟩
  case controllerResetBegin =>
    refine ⟨_, rfl, ?_⟩
    split
    · exact .inr ⟨u, sig, h, hp, hq, fun _ => hr⟩
    · exact .inl rfl
  all_goals cases hc

/-- A reset rebuilds the uptime count, the authority table and the scenes, and a power-on the clock, the lines and the records too. -/
theorem isReset_rows {c : Instr} (hc : isReset c = true) : movesUptime c = true ∧ writesAuthority c = true ∧ writesScenes c = true
    ∧ (isPowerOn c = true → writesMemory c = true ∧ movesClock c = true ∧ movesLines c = true) := by
  cases c
  case powerOnReset x => exact ⟨rfl, rfl, rfl, fun _ => ⟨rfl, rfl, rfl⟩⟩
  case resetN | controllerResetBegin => exact ⟨rfl, rfl, rfl, nofun⟩
  all_goals cases hc

/-- Every row answers a next state and keeps the parts with owners. -/
theorem exec_owners (c : Instr) (s : State) : ∃ t, exec c s = .next t ∧ OwnersKept c s t := by
  cases hc : isReset c with
  | false => obtain ⟨t, ht, hk⟩ := exec_keeps c s hc; exact ⟨t, ht, hk.owners⟩
  | true =>
    obtain ⟨t, ht, he⟩ := exec_reset c s hc
    refine ⟨t, ht, ?_⟩
    rcases he with rfl | ⟨u, sig, rfl, -, hp, hr⟩
    · exact .of_owned rfl
    · have ho := u.start_owned sig
      simp only [State.owned, Prod.mk.injEq] at ho
      obtain ⟨-, hl, -, hk, -, hm, hq⟩ := ho
      have hq : (u.start sig).pending = u.pending := hq
      obtain ⟨hu, ha, hsc, hpow⟩ := isReset_rows hc
      have off : ∀ {b : Bool}, (isPowerOn c = true → b = true) → b = false → isPowerOn c = false := by
        intro b h e
        cases hx : isPowerOn c with
        | false => rfl
        | true => rw [h hx] at e; cases e
      refine ⟨hq.trans hp, fun e => hm.trans (hr (off (fun x => (hpow x).1) e)).1,
        fun e => hk.trans (hr (off (fun x => (hpow x).2.1) e)).2.1, fun e => ?_,
        fun e => hl.trans (hr (off (fun x => (hpow x).2.2) e)).2.2, fun e => ?_, fun e => ?_⟩
      · rw [hu] at e; cases e
      · rw [ha] at e; cases e
      · rw [hsc] at e; cases e

theorem portsSound_iff (s : State) : PortsSound s ↔ ∀ q, PortSound (s.port q) :=
  ⟨fun ⟨h1, h2, h3⟩ q => by cases q <;> assumption, fun h => ⟨h .service, h .campus, h .panel⟩⟩

/-- What a row does to the ports keeps them within their places. -/
theorem PortsStep.sound {own : Option Port} {s t : State} (h : PortsStep own s t) (hs : PortsSound s) : PortsSound t := by
  obtain ⟨l, ps, ht, hq⟩ := h
  rw [portsSound_iff] at hs ⊢
  intro q
  unfold State.port
  rw [ht, Ports.offerAll_get]
  exact PortSound.offers ((hq q).2 (hs q)) l

theorem exec_places (c : Instr) (s : State) :
    ∃ t, exec c s = .next t ∧ (PortsSound s → PortsSound t) ∧ (s.store.Sound → t.store.Sound) := by
  cases hc : isReset c with
  | false => obtain ⟨t, ht, hk⟩ := exec_keeps c s hc; exact ⟨t, ht, hk.ports.sound, hk.queue⟩
  | true =>
    obtain ⟨t, ht, he⟩ := exec_reset c s hc
    refine ⟨t, ht, ?_⟩
    rcases he with rfl | ⟨u, sig, rfl, hu, -, -⟩
    · exact ⟨id, id⟩
    · exact ⟨fun _ => State.start_portsSound sig hu, fun _ => State.finish_sound (u.begun_sound sig)⟩

/-- The offer of notices leaves the rest of a port block (R179). -/
theorem PortBlock.offers_keep (l : List Notice) (b : PortBlock) :
    (l.foldl PortBlock.offer b).rx = b.rx ∧ (l.foldl PortBlock.offer b).inbox = b.inbox ∧ (l.foldl PortBlock.offer b).mask = b.mask
      ∧ (l.foldl PortBlock.offer b).overrun = b.overrun ∧ (l.foldl PortBlock.offer b).rate = b.rate := by
  induction l generalizing b with
  | nil => exact ⟨rfl, rfl, rfl, rfl, rfl⟩
  | cons n l ih =>
    obtain ⟨hi, hx, hm, ho, hr⟩ := b.offer_keeps n
    obtain ⟨kx, ki, km, ko, kr⟩ := ih (b.offer n)
    exact ⟨kx.trans hx, ki.trans hi, km.trans hm, ko.trans ho, kr.trans hr⟩

end Sys2Proof.Machine

open Sys2Proof Sys2Proof.Machine

/-- Settles O4: the split over the rows, for the ports and for the write queue. -/
theorem placesKept : Obligations.PlacesKept := by
  unfold Obligations.PlacesKept
  intro s t h
  unfold step at h
  split at h
  · rename_i c rest hp
    obtain ⟨u, hu, hports, hqueue⟩ := exec_places c (s.setPending rest)
    rw [hu] at h
    injection h with h
    subst h
    exact ⟨hports, hqueue⟩
  · injection h with h
    subst h
    exact ⟨id, id⟩

/-- Settles O2: the split over the rows, with the resets apart. -/
theorem ownersAlone : Obligations.OwnersAlone := exec_owners

/-- Settles O3: every row changes its own port's block alone before its notices are offered to all. -/
theorem portsApart : Obligations.PortsApart := by
  unfold Obligations.PortsApart
  intro c s t h hc
  obtain ⟨u, hu, hk⟩ := exec_keeps c s hc
  rw [hu] at h
  injection h with h
  subst h
  obtain ⟨l, ps, ht, hq⟩ := hk.ports
  refine ⟨l, fun q hne => ?_⟩
  have he : u.port q = l.foldl PortBlock.offer (s.port q) := by
    unfold State.port
    rw [ht, Ports.offerAll_get, (hq q).1 hne]
    rfl
  obtain ⟨hx, hi, hm, ho, hr⟩ := PortBlock.offers_keep l (s.port q)
  rw [he]
  refine ⟨rfl, hx, hi, hm, ho, hr, PortBlock.offers_prefix l _, ?_⟩
  rintro rfl
  rfl
end

