-- ==== Sys2Proof/Proofs/LineFrames.lean ====
section
/-! SUPPORT. The receiver over a frame's bytes, and the rows of the serial lines (R1, R2, R4, R5, R11, R20). -/

namespace Sys2Proof.Machine

/-- A frame's bytes between SOF and CHECK (R20). -/
def Frame.body (f : Frame) : List Byte := f.tag :: f.code :: byte f.payload.length :: f.payload

theorem Frame.wire_eq (f : Frame) : f.wire = (0xC3 :: f.body) ++ [checkByte f.body] := rfl

theorem Frame.body_length (f : Frame) : f.body.length = f.payload.length + 3 := rfl

theorem sum8_append (l : List Byte) (x : Byte) : sum8 (l ++ [x]) = sum8 l + x := by simp [sum8]

/-- The check byte is the one that makes the sum zero (R1, R20). -/
theorem sum8_check_iff (l : List Byte) (x : Byte) : sum8 (l ++ [x]) = 0 ↔ x = checkByte l := by
  rw [sum8_append, checkByte]
  bv_omega

/-- A whole frame's bytes after SOF make the frame, or BAD_FRAME with its tag when the check byte is another (R1). -/
theorem entryOf_body (f : Frame) (check : Byte) :
    entryOf (f.body ++ [check]) = if check = checkByte f.body then .frame f else .bad f.tag := by
  unfold entryOf
  simp only [sum8_check_iff]
  split
  · simp [Frame.body]
  · rfl

theorem toNat_byte_of_le {n : Nat} (h : n ≤ 48) : (byte n).toNat = n := by
  rw [BitVec.toNat_ofNat]; omega

/-- A hunting receiver that is sent SOF and a beginning of the bytes between SOF and CHECK is collecting them (R1). -/
theorem PortBlock.takeBytes_prefix {b : PortBlock} (hb : b.rx = .hunting) {f : Frame} (hf : f.payload.length ≤ 48) {l : List Byte}
    (hl : l <+: f.body) : b.takeBytes (0xC3 :: l) = { b with rx := .collecting l } := by
  induction l using List.reverseRecOn with
  | nil => simp [PortBlock.takeBytes, PortBlock.takeByte, hb, Receiver.take]
  | append_singleton l x ih =>
    have hx := ih ((List.prefix_append l [x]).trans hl)
    have hlen : l.length + 1 ≤ f.payload.length + 3 := by
      have := hl.length_le
      rwa [List.length_append, f.body_length] at this
    have third : ∀ i, i < (l ++ [x]).length → (l ++ [x])[i]? = f.body[i]? := by
      intro i hi
      obtain ⟨t, ht⟩ := hl
      rw [← ht, List.getElem?_append_left hi]
    have hstep : (Receiver.collecting l).take x = (.collecting (l ++ [x]), none) := by
      unfold Receiver.take
      dsimp only
      rw [if_neg, if_neg]
      · rintro ⟨h4, h⟩
        have h2 : (l ++ [x])[2]? = some (byte f.payload.length) := (third 2 (by omega)).trans rfl
        have : byteAt (l ++ [x]) 2 = f.payload.length := by
          rw [byteAt, List.getD_eq_getElem?_getD, h2, Option.getD_some, toNat_byte_of_le hf]
        rw [this, List.length_append, List.length_singleton] at h
        omega
      · rintro ⟨h3, h⟩
        have h2 : (l ++ [x])[2]? = some (byte f.payload.length) := (third 2 (by omega)).trans rfl
        rw [List.length_append, List.length_singleton] at h3
        rw [List.getElem?_append_right (by omega), show 2 - l.length = 0 by omega] at h2
        obtain rfl : x = byte f.payload.length := by simpa using h2
        rw [toNat_byte_of_le hf, Config.maxLen] at h
        omega
    rw [← List.cons_append, PortBlock.takeBytes, List.foldl_append]
    change PortBlock.takeByte (b.takeBytes (0xC3 :: l)) x = _
    rw [hx]
    unfold PortBlock.takeByte
    rw [hstep]

/-- The last byte of a frame completes an entry (R1). -/
theorem PortBlock.takeBytes_whole {b : PortBlock} (hb : b.rx = .hunting) {f : Frame} (hf : f.payload.length ≤ 48) (check : Byte) :
    b.takeBytes ((0xC3 :: f.body) ++ [check]) =
      b.place (if check = checkByte f.body then .frame f else .bad f.tag) := by
  have h4 : 4 ≤ (f.body ++ [check]).length ∧ (f.body ++ [check]).length = byteAt (f.body ++ [check]) 2 + 4 := by
    have : byteAt (f.body ++ [check]) 2 = f.payload.length := toNat_byte_of_le hf
    rw [this, List.length_append, f.body_length, List.length_singleton]
    omega
  have hstep : (Receiver.collecting f.body).take check =
      (.hunting, some (if check = checkByte f.body then .frame f else .bad f.tag)) := by
    unfold Receiver.take
    dsimp only
    rw [if_neg, if_pos h4, entryOf_body]
    rintro ⟨h3, -⟩
    omega
  rw [PortBlock.takeBytes, List.foldl_append]
  change PortBlock.takeByte (b.takeBytes (0xC3 :: f.body)) check = _
  rw [PortBlock.takeBytes_prefix hb hf List.prefix_rfl]
  unfold PortBlock.takeByte
  rw [hstep]
  cases b
  subst hb
  rfl

/-- An entry completed with two held is dropped with OVERRUN, and enters the input buffer otherwise (R2). -/
theorem PortBlock.place_eq (b : PortBlock) (e : InEntry) :
    b.place e = if 2 ≤ b.inbox.length then { b with overrun := true } else { b with inbox := b.inbox ++ [e] } := by
  unfold PortBlock.place Config.inboxPlaces
  by_cases h : 2 ≤ b.inbox.length
  · rw [if_neg (by omega), if_pos h]
  · rw [if_pos (by omega), if_neg h]

/-- A frame cut short leaves BAD_FRAME with its tag, or nothing when its tag had not come (R1). -/
theorem PortBlock.cut {b : PortBlock} (hb : b.rx = .hunting) {f : Frame} (hf : f.payload.length ≤ 48) {n : Nat}
    (hn : n < f.wire.length) :
    (b.takeBytes (f.wire.take n)).abandon = if 2 ≤ n then b.place (.bad f.tag) else b := by
  rw [Frame.wire_eq, List.length_append, List.length_singleton] at hn
  rw [Frame.wire_eq, List.take_append_of_le_length (by omega)]
  match n with
  | 0 => simp [PortBlock.takeBytes, PortBlock.abandon, hb]
  | k + 1 =>
    rw [List.take_succ_cons, PortBlock.takeBytes_prefix hb hf (List.take_prefix k f.body)]
    match k with
    | 0 =>
      cases b
      subst hb
      rfl
    | j + 1 =>
      rw [if_pos (by omega)]
      cases b
      subst hb
      rfl

/-- Port p's block alone matters to what is quiet. -/
theorem Quiet.setPort {s : State} (h : Quiet s) (p : Port) (b : PortBlock) : Quiet (s.setPort p b) := h

theorem State.setPort_self (s : State) (p : Port) : s.setPort p (s.port p) = s := by
  rw [State.setPort, State.port, Ports.put_get]; rfl

/-- An entry taken and answered with nothing done between changes its port alone (R3, R4, R18). -/
theorem State.popInbox_answer {s : State} (h : Quiet s) (p : Port) (tag code : Byte) (r : Reply) :
    (s.popInbox p).answerPort p tag code r = s.setPort p ((s.port p).answered tag code r) := by
  rw [answerPort_quiet (show Quiet (s.popInbox p) from Quiet.setPort h p _), State.popInbox_port]
  unfold State.popInbox
  rw [State.setPort_setPort]
  rfl

theorem codeOf_none {b : Byte} (h : ∀ c : Code, b ≠ codeByte c) : codeOf b = none := by
  rw [codeOf, List.find?_eq_none]
  intro c _ e
  exact h c (eq_of_beq e).symm

end Sys2Proof.Machine

open Sys2Proof Sys2Proof.Machine

/-- Settles O12: the receiver collects the bytes up to CHECK, which completes the entry. -/
theorem frameReceived : Obligations.FrameReceived := by
  unfold Obligations.FrameReceived
  intro s p f check hrx hf
  have hlast : f.wire.getLastD 0 = checkByte f.body := by rw [Frame.wire_eq, List.getLastD_concat]
  have hinit : f.wire.dropLast = 0xC3 :: f.body := by rw [Frame.wire_eq, List.dropLast_concat]
  have h := (PortBlock.takeBytes_whole hrx hf check).trans (PortBlock.place_eq _ _)
  rw [hlast, hinit]
  exact congrArg (fun b => Host.Outcome.next (s.setPort p b)) h

/-- Settles O13: what a cut or refused frame leaves, and the rows of one port that take nothing to an owner. -/
theorem lineRows : Obligations.LineRows := by
  unfold Obligations.LineRows
  intro s p f n tag code len hf
  refine ⟨fun hrx => ⟨?_, ?_, ?_⟩, rfl, ?_, ?_⟩
  · intro h2 hn
    have h := PortBlock.cut hrx hf hn
    rw [if_pos h2, PortBlock.place_eq] at h
    exact ⟨congrArg (fun b => Host.Outcome.next (s.setPort p b)) h, congrArg (fun b => Host.Outcome.next (s.setPort p b)) h⟩
  · intro h1
    have h := PortBlock.cut hrx hf (n := n) (by rw [Frame.wire_eq, List.length_append]; simp; omega)
    rw [if_neg (by omega)] at h
    have hs : s.receiveBroken p (f.wire.take n) = s := by
      rw [State.receiveBroken, h, State.setPort_self]
    exact ⟨congrArg Host.Outcome.next hs, congrArg Host.Outcome.next hs⟩
  · intro hlen
    have hpre : (s.port p).takeBytes (0xC3 :: [f.tag, code]) = { s.port p with rx := .collecting [f.tag, code] } :=
      PortBlock.takeBytes_prefix hrx (f := { f with code := code }) hf ⟨_ :: f.payload, rfl⟩
    have h : (s.port p).takeBytes ([0xC3, f.tag, code] ++ [len]) = (s.port p).place (.bad f.tag) := by
      rw [PortBlock.takeBytes, List.foldl_append]
      change PortBlock.takeByte ((s.port p).takeBytes [0xC3, f.tag, code]) len = _
      rw [hpre]
      unfold PortBlock.takeByte Receiver.take
      have : Config.maxLen < len.toNat := hlen
      simp only [List.cons_append, List.nil_append, List.length_cons, List.length_nil, this, and_self, if_true,
        Nat.zero_add, Nat.reduceAdd]
      generalize hb : s.port p = b at *
      cases b
      subst hrx
      rfl
    rw [PortBlock.place_eq] at h
    exact congrArg (fun b => Host.Outcome.next (s.setPort p b)) h
  · intro h
    exact congrArg Host.Outcome.next (if_pos h)
  · intro hq hlen
    have hp : (s.port p).hasPlace = true := decide_eq_true hlen
    refine ⟨fun h => ?_, fun h hc => ?_⟩
    · have : takeBadFrame p s = (s.popInbox p).answerPort p tag 0 (refusal .badFrame) := by
        unfold takeBadFrame
        rw [h]
        exact if_pos hp
      exact congrArg Host.Outcome.next (this.trans (State.popInbox_answer hq p _ _ _))
    · have : takeUnknown p s = (s.popInbox p).answerPort p f.tag f.code (refusal .unknownCommand) := by
        unfold takeUnknown
        rw [h]
        exact if_pos ⟨by rw [codeOf_none hc]; rfl, hp⟩
      exact congrArg Host.Outcome.next (this.trans (State.popInbox_answer hq p _ _ _))
end

