-- ==== Sys2Proof/Proofs/IntakeReads.lean ====
section
/-! SUPPORT. Intake's refusals, the floor's decision in the words of the statements, and the read commands (R10 to R16, R22, R28 to R31). -/

namespace Sys2Proof.Machine

/-! ## The floor's decision (R28 to R30) -/

theorem State.decide_of_opens {s : State} {r : Requester} (h : FloorOpens s r) :
    s.decide r = if s.floor.holder = some r then .own else .pass := by
  unfold State.decide
  rcases h with h | ⟨hm, hh⟩
  · simp [h]
  · cases hf : s.floor.holder with
    | none => simp [hm]
    | some x =>
      by_cases e : x = r
      · simp [e]
      · have hx : ¬ (s.floor.hold = true ∧ stronger x r = true) := fun ⟨h1, h2⟩ => by
          have := hh x (by rw [hf]; rfl) h1
          simp only [stronger, decide_eq_true_eq] at this h2
          omega
        simp [e, hx, hm]

theorem State.compete_of_waits {s : State} {r : Requester} (h : ∀ e ∈ s.floor.elect, stronger r e.1 = true) :
    s.compete r = .wait := by
  unfold State.compete
  cases he : s.floor.elect with
  | none => rfl
  | some e => exact if_pos (h e (by rw [he]; rfl))

theorem State.compete_of_busy {s : State} {r : Requester} (h : (s.floor.elect.any fun e => !stronger r e.1) = true) :
    s.compete r = .busy := by
  unfold State.compete
  cases he : s.floor.elect with
  | none => rw [he] at h; cases h
  | some e => rw [he] at h; exact if_neg (by simpa using h)

/-- With a unit in flight that another holds, and no HOLD that refuses it, a command competes. -/
theorem State.decide_of_marker {s : State} {r : Requester} (hh : ¬ FloorHeld s r) (hr : s.floor.holder ≠ some r)
    (hm : s.floor.marker = true) : s.decide r = s.compete r := by
  unfold State.decide
  cases hf : s.floor.holder with
  | none => simp [hm]
  | some x =>
    have hx : x ≠ r := fun e => hr (by rw [hf, e])
    have hn : ¬ (s.floor.hold = true ∧ stronger x r = true) := fun ⟨h1, h2⟩ => hh ⟨h1, by rw [hf]; exact h2⟩
    simp [hx, hn, hm]

theorem State.decide_of_waits {s : State} {r : Requester} (h : FloorWaits s r) : s.decide r = .wait := by
  obtain ⟨hh, hr, hm, he⟩ := h
  rw [State.decide_of_marker hh hr hm, State.compete_of_waits he]

theorem State.decide_of_busy {s : State} {r : Requester} (h : FloorBusy s r) : s.decide r = .busy := by
  obtain ⟨hh, hr, hm, he⟩ := h
  rw [State.decide_of_marker hh hr hm, State.compete_of_busy he]

theorem State.decide_of_held {s : State} {r : Requester} (h : FloorHeld s r) : s.decide r = .held := by
  obtain ⟨h1, h2⟩ := h
  unfold State.decide
  cases hf : s.floor.holder with
  | none => rw [hf] at h2; cases h2
  | some x =>
    have hx : stronger x r = true := by rw [hf] at h2; exact h2
    have hne : x ≠ r := by rintro rfl; simp [stronger] at hx
    simp [hne, h1, hx]

/-- A floor command that step 9 lets proceed or wait is refused at steps 10 and 11 with nothing changed (R31). -/
theorem State.floorIntake_late {s : State} {r : Requester} {c : Cmd} {v : Verdict} (h : FloorOpens s r ∨ FloorWaits s r)
    (hv : s.lateRefusal r c = some v) : s.floorIntake r c = (s, refusal v) := by
  have hd : s.decide r = .own ∨ s.decide r = .pass ∨ s.decide r = .wait := by
    rcases h with h | h
    · rw [State.decide_of_opens h]
      split
      · exact .inl rfl
      · exact .inr (.inl rfl)
    · exact .inr (.inr (State.decide_of_waits h))
  unfold State.floorIntake
  rcases hd with hd | hd | hd <;> rw [hd, hv]

/-! ## The checks do not read the ports -/

theorem State.popInbox_mayUse (s : State) (p : Port) (r : Requester) (c : Code) : (s.popInbox p).mayUse r c = s.mayUse r c := by
  cases r <;> rfl

theorem State.popInbox_ownerRefusal (s : State) (p : Port) (c : Cmd) : (s.popInbox p).ownerRefusal c = s.ownerRefusal c := by
  cases c <;> rfl

theorem State.popInbox_lateRefusal (s : State) (p : Port) (r : Requester) (c : Cmd) :
    (s.popInbox p).lateRefusal r c = s.lateRefusal r c := by cases c <;> rfl

theorem State.popInbox_isFloor (s : State) (p : Port) (c : Cmd) : (s.popInbox p).isFloor c = s.isFloor c := by cases c <;> rfl

/-- Steps 4 to 8 in the words of the statements, for the state with the entry taken (R12 to R15). -/
theorem State.popInbox_checkFrame (s : State) (p : Port) (r : Requester) (c : Code) (pl : List Byte) :
    (s.popInbox p).checkFrame r c pl =
      if !(s.mayUse r c && s.conditionsHold r c pl) then .error .noAuthority
      else if s.lockedOut5 r c || s.lockedOut6 r c then .error .lockedOut
      else
        match parseCmd c pl with
        | none => .error .badValue
        | some x =>
          match s.ownerRefusal x.1 with
          | some v => .error v
          | none => .ok x := by
  unfold State.checkFrame
  rw [State.popInbox_mayUse]
  simp only [State.popInbox_ownerRefusal]
  rfl

/-- Intake of a waiting frame. -/
theorem takeCommand_of_head {s : State} {p : Port} {c : Code} {tag : Byte} {pl : List Byte}
    (h : (s.port p).inbox.head? = some (.frame { tag := tag, code := codeByte c, payload := pl }))
    (hl : (s.port p).outq.length < 8) :
    takeCommand c p s =
      ((s.popInbox p).intakeFrame p c pl).1.answerPort p tag (codeByte c) ((s.popInbox p).intakeFrame p c pl).2 := by
  unfold takeCommand
  rw [h]
  exact if_pos ⟨rfl, decide_eq_true hl⟩

/-- A frame that intake refuses with nothing changed is answered, and that is all (R10). -/
theorem exec_refused {s : State} {p : Port} {c : Code} {tag : Byte} {pl : List Byte} {v : Verdict} (hq : Quiet s)
    (h : (s.port p).inbox.head? = some (.frame { tag := tag, code := codeByte c, payload := pl }))
    (hl : (s.port p).outq.length < 8) (hv : (s.popInbox p).intakeFrame p c pl = (s.popInbox p, refusal v)) :
    exec (rowOf c p) s = .next (s.answered p tag c { verdict := v }) := by
  rw [exec_rowOf, takeCommand_of_head h hl, hv]
  exact congrArg Host.Outcome.next (State.popInbox_answer hq p _ _ _)

/-! ## Accepted commands -/

/-- A command that passes every step to its owner is acted on by it (R10). -/
theorem takeCommand_acts {s : State} {p : Port} {c : Code} {tag : Byte} {pl : List Byte} {cmd : Cmd} {clamped : Bool}
    (h : Passes s p c tag pl) (hp : parseCmd c pl = some (cmd, clamped)) (ho : s.ownerRefusal cmd = none)
    (hf : s.isFloor cmd = false) (hl : s.lateRefusal (portRequester p) cmd = none) :
    takeCommand c p s =
      ((s.popInbox p).act p cmd).1.answerPort p tag (codeByte c) (((s.popInbox p).act p cmd).2.withClamp clamped) := by
  rw [takeCommand_accept h hp ho]
  unfold State.accept
  rw [State.popInbox_isFloor, hf, State.popInbox_lateRefusal, hl]
  rfl

/-- A response with no clamped value keeps its reply. -/
@[simp] theorem Reply.withClamp_false (r : Reply) : r.withClamp false = r := by
  cases r; simp [Reply.withClamp]

/-- Steps 10 and 11 refuse; they answer no acceptance (R16, R17). -/
theorem State.lateRefusal_accepted {s : State} {r : Requester} {c : Cmd} {v : Verdict} (h : s.lateRefusal r c = some v) :
    v.accepted = false := by
  have late : v = .storeFault ∨ v = .storeBusy ∨ v = .setFull := by
    unfold State.lateRefusal at h
    split at h
    · rename_i x hx
      injection h with h
      subst h
      unfold State.storeRefuses at hx
      split at hx
      · cases hx
      · split at hx <;> simp_all
      · split at hx
        · simp_all
        · split at hx <;> simp_all
    · split at h <;> simp_all
  rcases late with rfl | rfl | rfl <;> rfl

/-- CLAMPED goes with acceptances alone (R14). -/
theorem Reply.withClamp_refusal {v : Verdict} (h : v.accepted = false) (b : Bool) : (refusal v).withClamp b = refusal v := by
  simp [Reply.withClamp, refusal, h]

/-- A read of data that do not depend on the ports is answered with them, and that is all (R22). -/
theorem exec_read {s : State} {p : Port} {c : Code} {tag : Byte} {pl : List Byte} {cmd : Cmd} {data : List Byte} (hq : Quiet s)
    (h : Passes s p c tag pl) (hp : parseCmd c pl = some (plain cmd)) (ho : s.ownerRefusal cmd = none) (hf : s.isFloor cmd = false)
    (hl : s.lateRefusal (portRequester p) cmd = none) (ha : (s.popInbox p).act p cmd = answer (s.popInbox p) data) :
    exec (rowOf c p) s = .next (s.answered p tag c { verdict := .done, data := data }) := by
  rw [exec_rowOf, takeCommand_acts h hp ho hf hl, ha, Reply.withClamp_false]
  exact congrArg Host.Outcome.next (State.popInbox_answer hq p _ _ _)

@[simp] theorem bytes16_length (n : Nat) : (bytes16 n).length = 2 := rfl
@[simp] theorem bytes32_length (n : Nat) : (bytes32 n).length = 4 := rfl
@[simp] theorem timingBytes_length (t : Option Timing) : (timingBytes t).length = 6 := by cases t <;> rfl

theorem State.wearData_length (s : State) : s.wearData.length = 35 := by
  simp only [State.wearData]
  cases s.wear.record.identity <;> simp

theorem State.lockoutData_length (s : State) : s.lockoutData.length = 1 + 5 * s.lockouts.length := by
  rw [State.lockoutData, List.length_cons, List.length_flatMap]
  have : ∀ l : List Lockout, (l.map fun x : Lockout => ([byte (lockKindCode x.kind), byte (originCode x.origin),
      byte (reasonCode x.reason)] ++ bytes16 (s.minutesLeft x)).length).sum = 5 * l.length := by
    intro l
    induction l with
    | nil => rfl
    | cons x l ih => rw [List.map_cons, List.sum_cons, ih, List.length_cons]; simp; omega
  rw [this]
  omega

theorem inputOf_inputCode (n : InputIdx) : inputOf (byteAt [byte (inputCode n)] 0) = some n := by revert n; decide
theorem indexOf_profile (q : ProfileIdx) : indexOf 4 (byteAt [byte q.val] 0) = some q := by revert q; decide
theorem indexOf_scene (k : SceneIdx) : indexOf 8 (byteAt [byte k.val] 0) = some k := by revert k; decide
theorem indexOf_entry (e : EntryIdx) : indexOf 24 (byteAt [byte e.val] 0) = some e := by revert e; decide

/-- READ_COUNTS: the counts as they stood, in a response placed over zeroed counts (R18, R181). -/
theorem exec_readCounts {s : State} {p : Port} {tag : Byte} (hq : Quiet s) (h : Passes s p .readCounts tag []) :
    exec (.readCounts p) s = .next (s.setPort p
      { s.port p with
        inbox := (s.port p).inbox.tail, counts := Vector.replicate 9 0, overrun := false,
        outq := (s.port p).outq ++
          [{ tag := tag, code := 0x80,
             payload := (if (s.port p).overrun then 4 else 0) :: 0x09 :: (s.port p).counts.toList.map byte }] }) := by
  rw [show exec (.readCounts p) s = .next (takeCommand .readCounts p s) from rfl, takeCommand_acts h rfl rfl rfl rfl,
    Reply.withClamp_false]
  have hz : Quiet ((s.popInbox p).zeroCounts p) := hq
  change Host.Outcome.next (((s.popInbox p).zeroCounts p).answerPort p tag _ { verdict := .done, data := ((s.popInbox p).port p).countData }) = _
  rw [answerPort_quiet hz]
  unfold State.zeroCounts
  rw [State.setPort_port, State.popInbox_port]
  unfold State.popInbox
  rw [State.setPort_setPort, State.setPort_setPort]
  have hm : (PortBlock.modifiers { s.port p with inbox := (s.port p).inbox.tail, counts := Vector.replicate 9 0 } false)
      = if (s.port p).overrun then 4 else 0 := by
    cases ho : (s.port p).overrun <;> simp [PortBlock.modifiers, ho, flagByte]
  simp only [PortBlock.respond, PortBlock.responseFrame, hm, PortBlock.countData]
  rfl

end Sys2Proof.Machine

open Sys2Proof Sys2Proof.Machine

/-- Settles O15: intake's steps in order, each refusal leaving the state with the entry taken. -/
theorem refusalChangesNothing : Obligations.RefusalChangesNothing := by
  unfold Obligations.RefusalChangesNothing
  intro s p c tag pl hq hl hh
  dsimp only
  refine ⟨fun hlen => exec_refused hq hh hl (if_pos hlen), fun hlen => ⟨fun hw => ?_, fun hw => ?_⟩⟩
  · refine exec_refused hq hh hl ?_
    unfold State.intakeFrame
    rw [if_neg (by simpa using hlen)]
    exact if_pos (Option.isSome_iff_ne_none.mpr hw)
  · have unrefused : (s.popInbox p).intakeFrame p c pl =
        match (s.popInbox p).checkFrame (portRequester p) c pl with
        | .error v => (s.popInbox p, refusal v)
        | .ok (cmd, clamped) => (((s.popInbox p).accept p cmd).1, ((s.popInbox p).accept p cmd).2.withClamp clamped) := by
      have hw' : (s.popInbox p).resetWait = none := hw
      exact (if_neg (by simpa using hlen)).trans (if_neg (by simp [hw']))
    rw [State.popInbox_checkFrame] at unrefused
    have to_exec : ∀ {v : Verdict}, (s.popInbox p).intakeFrame p c pl = (s.popInbox p, refusal v) →
        exec (rowOf c p) s = .next (s.answered p tag c { verdict := v }) := exec_refused hq hh hl
    refine ⟨fun h => to_exec ?_, fun h1 h2 => ⟨fun h => to_exec ?_, fun h3 h4 => ⟨fun h => to_exec ?_, fun cmd b h5 => ⟨fun v h => to_exec ?_, fun h6 h7 v h => to_exec ?_⟩⟩⟩⟩
    · rw [unrefused, if_pos]
      rcases h with h | h <;> simp [h]
    · rw [unrefused, if_neg (by simp [h1, h2]), if_pos]
      rcases h with h | h <;> simp [h]
    · rw [unrefused, if_neg (by simp [h1, h2]), if_neg (by simp [h3, h4]), h]
    · rw [unrefused, if_neg (by simp [h1, h2]), if_neg (by simp [h3, h4]), h5]
      simp only [h]
    · rw [unrefused, if_neg (by simp [h1, h2]), if_neg (by simp [h3, h4]), h5]
      have hacc : (s.popInbox p).accept p cmd = (s.popInbox p, refusal v) := by
        have hlate := (s.popInbox_lateRefusal p (portRequester p) cmd).trans h
        unfold State.accept
        rw [State.popInbox_isFloor]
        cases hfl : s.isFloor cmd with
        | true =>
          exact State.floorIntake_late (s := s.popInbox p)
            (h7.resolve_left (by simp [hfl])) hlate
        | false => rw [if_neg (by simp), hlate]
      simp only [h6, hacc, Reply.withClamp_refusal (State.lateRefusal_accepted h)]

/-- Settles O16: each read is its data over the state with the entry taken, which the data do not see. -/
theorem readsAnswer : Obligations.ReadsAnswer := by
  unfold Obligations.ReadsAnswer
  intro s p tag n q k e hq
  refine ⟨fun h => ⟨?_, rfl⟩, fun h => ⟨?_, ?_⟩, fun h => ⟨?_, s.wearData_length⟩, fun h => ⟨?_, rfl⟩, fun h => ⟨?_, rfl⟩,
    fun h => ⟨?_, rfl⟩, fun h => ⟨?_, s.lockoutData_length⟩, fun h => ⟨?_, rfl⟩, exec_readCounts hq⟩
  · exact exec_read (c := .readStatus) hq h rfl rfl rfl rfl rfl
  · exact exec_read (c := .readSource) hq h (by simp only [parseCmd, inputOf_inputCode]; rfl) rfl rfl rfl rfl
  · simp [State.sourceData]
  · exact exec_read (c := .readWear) hq h rfl rfl rfl rfl rfl
  · exact exec_read (c := .readProfile) hq h (by simp only [parseCmd, indexOf_profile]; rfl) rfl rfl rfl rfl
  · exact exec_read (c := .readScene) hq h (by simp only [parseCmd, indexOf_scene]; rfl) rfl rfl rfl rfl
  · exact exec_read (c := .readEntry) hq h (by simp only [parseCmd, indexOf_entry]; rfl) rfl rfl rfl rfl
  · exact exec_read (c := .readLockouts) hq h rfl rfl rfl rfl rfl
  · exact exec_read (c := .readAuthority) hq h rfl rfl rfl rfl rfl
end

