-- ==== Sys2Proof/Proofs/ActionEnd.lean ====
section
/-! SUPPORT. The end of an action, once for every way an action ends: what it leaves, and the notices told. -/

namespace Sys2Proof.Machine

/-- The engine has nothing to do at the end of the action: UNMUTING is not over and no power-up is owed (R99, R135). -/
def State.Settled (s : State) : Prop := ¬ UnmutingOver s ∧ s.engine.powerUpOwed = false

theorem Quiet.settled {s : State} (h : Quiet s) : s.Settled := ⟨h.2.2, h.2.1⟩

/-- What the engine does at the end reads the engine and the sources alone. -/
theorem State.Settled.congr {s t : State} (h : s.Settled) (he : t.engine = s.engine) (hs : t.sources = s.sources) : t.Settled := by
  unfold State.Settled UnmutingOver State.composition State.routedSource State.source at h ⊢
  rw [he, hs]
  exact h

/-- An action's end: the engine settles, and the notices are told as `tell` has it (R4, R179). -/
def State.closed (x : State) (tell : List Notice → Ports) : State := { x.settle with ports := tell x.settle.raised, raised := [] }

/-- The end of a row that is not a port's command. -/
theorem State.finish_closed {s x : State} (h : x.ports = s.ports) : x.finish = x.closed s.ports.offerAll := by
  have hp : x.settle.ports = s.ports := (State.ports_of_room x.settle_room).trans h
  unfold State.finish State.closed State.flush
  rw [hp]
  rfl

/-- The end of a port's command, its response placed first (R4, R18). -/
theorem State.answer_closed {s x : State} {p : Port} (tag : Byte) (c : Code) (r : Reply) (h : x.ports = (s.popInbox p).ports) :
    x.answerPort p tag (codeByte c) r = x.closed (s.told p tag c r) := by
  have hp : x.settle.ports = (s.popInbox p).ports := (State.ports_of_room x.settle_room).trans h
  have hb : x.settle.port p = { s.port p with inbox := (s.port p).inbox.tail } := by
    unfold State.port
    rw [hp]
    exact State.popInbox_port s p
  unfold State.answerPort State.closed State.flush State.respond State.told State.answered
  rw [hb]
  unfold State.setPort
  rw [hp]
  simp only [State.setPorts_ports, State.popInbox, State.setPort, Ports.put_put]
  rfl

theorem State.closed_of_settled {x : State} (h : x.Settled) (tell : List Notice → Ports) :
    x.closed tell = { x with ports := tell x.raised, raised := [] } := by
  unfold State.closed
  rw [State.settle_of h.1 h.2]

theorem State.told_nil (s : State) (p : Port) (tag : Byte) (c : Code) (r : Reply) :
    s.told p tag c r [] = (s.answered p tag c r).ports := rfl

/-- A row whose action leaves engine, sources and ports. -/
theorem State.finish_settled {s x : State} (h : s.Settled) (he : x.engine = s.engine) (hs : x.sources = s.sources)
    (hp : x.ports = s.ports) : x.finish = { x with ports := s.ports.offerAll x.raised, raised := [] } := by
  rw [State.finish_closed hp, State.closed_of_settled (h.congr he hs)]

/-- A command whose action leaves engine, sources and ports. -/
theorem State.answer_settled {s x : State} {p : Port} (tag : Byte) (c : Code) (r : Reply) (h : s.Settled) (he : x.engine = s.engine)
    (hs : x.sources = s.sources) (hp : x.ports = (s.popInbox p).ports) :
    x.answerPort p tag (codeByte c) r = { x with ports := s.told p tag c r x.raised, raised := [] } := by
  rw [State.answer_closed tag c r hp, State.closed_of_settled (h.congr he hs)]

/-! ## What the store's operations leave of the rest -/

theorem State.kick_engine (s : State) : s.kick.engine = s.engine := by rw [State.kick_rest]
theorem State.kick_sources (s : State) : s.kick.sources = s.sources := by rw [State.kick_rest]
theorem State.kick_raised (s : State) : s.kick.raised = s.raised := by rw [State.kick_rest]
theorem State.kick_lockouts (s : State) : s.kick.lockouts = s.lockouts := by rw [State.kick_rest]
theorem State.kick_ports (s : State) : s.kick.ports = s.ports := State.ports_of_room s.kick_room

/-- No write begins while one is in flight or the fault stands (R185, R186). -/
theorem State.kick_busy {s : State} (h : s.store.inFlight.isSome ∨ s.store.fault = true) : s.kick = s := if_pos h

/-- A checkpoint with a write in flight, or under the fault, waits in the slot (R77). -/
theorem State.checkpoint_busy {s : State} (h : s.store.inFlight.isSome ∨ s.store.fault = true) :
    s.checkpoint = { s with wear := { s.wear with sinceCheckpoint := 0 }, store := { s.store with slot := some s.wear.record } } :=
  State.kick_busy (s := (s.setWear { s.wear with sinceCheckpoint := 0 }).setStore { s.store with slot := some s.wear.record }) h

/-- A checkpoint with no write in flight and the fault clear begins its write at once (R77, R185). -/
theorem State.checkpoint_idle {s : State} (hi : s.store.inFlight = none) (hf : s.store.fault = false) :
    s.checkpoint = { s with
      wear := { s.wear with sinceCheckpoint := 0, replacement := s.wear.replacement.begun },
      resetWait := s.resetWait.map SlotWait.begun,
      store := { s.store with slot := none, inFlight := some (.wear s.wear.record), writes := s.store.writes + 1 } } := by
  unfold State.checkpoint State.kick
  rw [if_neg (by simp [State.setStore, hi, hf])]
  rfl

theorem SlotWait.begun_eq (w : SlotWait) : w.begun = if w = .toBegin then .toEnd else w := by cases w <;> rfl
theorem SlotWait.faulted_eq (w : SlotWait) : w.faulted = if w = .toBegin then .settled else w := by cases w <;> rfl
theorem SlotWait.ended_eq (w : SlotWait) : w.ended = if w = .toEnd then .settled else w := by cases w <;> rfl

/-! ## What a written record holds (R182, R185) -/

theorem Memory.write_holds (m : Memory) (i : Image) : (m.write i).holds i.record = i := by
  cases i <;> simp [Memory.write, Memory.holds, Image.record]

theorem Memory.write_bad (m : Memory) (i : Image) : (m.write i).bad = m.bad.filter (· != i.record) := by cases i <;> rfl

theorem Vector.set_other {α : Type} {n : Nat} (v : Vector α n) {i j : Fin n} (x : α) (h : j ≠ i) : (v.set i x)[j] = v[j] := by
  have : i.val ≠ j.val := fun e => h (Fin.ext e.symm)
  simp [Fin.getElem_fin, this]

theorem Memory.write_holds_ne (m : Memory) (i : Image) {r : RecordId} (h : r ≠ i.record) : (m.write i).holds r = m.holds r := by
  cases i <;> cases r <;>
    first
    | rfl
    | exact absurd rfl h
    | (simp only [Memory.write, Memory.holds]
       rw [Vector.set_other _ _ (fun e => h (congrArg _ e))])

end Sys2Proof.Machine

open Sys2Proof Sys2Proof.Machine

/-- Settles O47: the checkpoint waits behind a write in flight, or begins at once. -/
theorem resetAsked : Obligations.ResetAsked := by
  unfold Obligations.ResetAsked
  intro s p tag hq h
  have hr : s.raised = [] := hq.1
  have hx : exec (.controllerReset p) s =
      .next ((s.popInbox p).askReset.answerPort p tag (codeByte .controllerReset) { verdict := .done }) := by
    rw [show exec (.controllerReset p) s = .next (takeCommand .controllerReset p s) from rfl, takeCommand_acts h rfl rfl rfl rfl,
      Reply.withClamp_false]
    rfl
  have close : ∀ x : State, (s.popInbox p).askReset = x → x.engine = s.engine → x.sources = s.sources →
      x.ports = (s.popInbox p).ports → x.raised = [] →
      exec (.controllerReset p) s =
        .next { x with ports := (s.answered p tag .controllerReset { verdict := .done }).ports, raised := [] } := by
    intro x hx' he hs hp hn
    rw [hx, hx', State.answer_settled tag _ _ hq.settled he hs hp, hn, State.told_nil]
  refine ⟨fun hf => ?_, fun hf => ⟨fun hi => ?_, fun hi => ?_⟩⟩
  · rw [close ((s.popInbox p).setResetWait (some .settled)) (if_pos hf) rfl rfl rfl hr]
    exact congrArg Host.Outcome.next (by rw [← hr]; rfl)
  · have ha : (s.popInbox p).askReset = ((s.popInbox p).setResetWait (some .toBegin)).checkpoint := if_neg (by simp [State.popInbox, State.setPort, hf])
    rw [State.checkpoint_busy (s := (s.popInbox p).setResetWait (some .toBegin)) (.inl (Option.isSome_iff_ne_none.mpr hi))] at ha
    rw [close _ ha rfl rfl rfl hr]
    exact congrArg Host.Outcome.next (by rw [← hr]; rfl)
  · have ha : (s.popInbox p).askReset = ((s.popInbox p).setResetWait (some .toBegin)).checkpoint := if_neg (by simp [State.popInbox, State.setPort, hf])
    rw [State.checkpoint_idle (s := (s.popInbox p).setResetWait (some .toBegin)) hi hf] at ha
    rw [close _ ha rfl rfl rfl hr]
    rw [SlotWait.begun_eq]
    exact congrArg Host.Outcome.next (by rw [← hr]; rfl)

/-- Settles O46: the next write begins as R185 orders it, and a later time limit sets the fault anew. -/
theorem storeFaultCleared : Obligations.StoreFaultCleared := by
  unfold Obligations.StoreFaultCleared
  refine ⟨rfl, fun s p tag hq => ⟨fun h => ?_, fun hi => ?_⟩⟩
  · have hr : s.raised = [] := hq.1
    have hw : s.resetWait = none := h.2.2.1
    have hx : exec (.clearStoreFault p) s =
        .next ((s.popInbox p).clearFault.answerPort p tag (codeByte .clearStoreFault) { verdict := .done }) := by
      rw [show exec (.clearStoreFault p) s = .next (takeCommand .clearStoreFault p s) from rfl, takeCommand_acts h rfl rfl rfl rfl,
        Reply.withClamp_false]
      rfl
    refine ⟨fun hf => ?_, fun hf hi => ?_⟩
    · have hc : (s.popInbox p).clearFault = s.popInbox p := if_neg (by simp [State.popInbox, State.setPort, hf])
      rw [hx, hc]
      exact congrArg Host.Outcome.next (State.popInbox_answer hq p _ _ _)
    · have hc : (s.popInbox p).clearFault =
          (((s.popInbox p).setStore { s.store with fault := false }).notify faultCleared).kick := if_pos hf
      rw [State.kick_resumed (s := ((s.popInbox p).setStore { s.store with fault := false }).notify faultCleared) rfl hi] at hc
      rw [hx, hc, State.answer_settled tag _ _ hq.settled]
      · refine congrArg Host.Outcome.next ?_
        simp only [State.notify, State.setRaised, State.setStore, State.popInbox, State.setPort, State.setPorts, hr, hw,
          List.nil_append, Option.map_none]
        rfl
      all_goals rfl
  · obtain ⟨i, hi⟩ := Option.ne_none_iff_exists'.mp hi
    refine ⟨s.failWrite.finish, congrArg Host.Outcome.next (if_pos rfl), ?_⟩
    have hs : ∀ x : State, x.engine = s.engine → x.sources = s.sources → x.ports = s.ports → x.finish.store = x.store :=
      fun x he hs hp => by rw [State.finish_settled hq.settled he hs hp]
    have hf : s.failWrite.store = { s.store.giveBack i with fault := true } := by
      unfold State.failWrite
      rw [hi]
      dsimp only
      split <;> rfl
    rw [hs _ ?_ ?_ (State.ports_of_room s.failWrite_room), hf]
    · cases i <;> exact ⟨rfl, rfl⟩
    all_goals
      unfold State.failWrite
      rw [hi]
      dsimp only
      split <;> rfl
end

