-- ==== Sys2Proof/Proofs/StoreWrites.lean ====
section
/-! SUPPORT. The end of a store write (R19, R80, R185, R186). -/

namespace Sys2Proof.Machine

/-- What the end of a write of image i does to something that waits for a wear slot write (R19, R80). -/
def SlotWait.past (i : Image) (w : SlotWait) : SlotWait := if i.record = .wear ∧ w = .toEnd then .settled else w

/-- The waits after the end of the write of image i. -/
theorem State.written_waits (s : State) (i : Image) : (if i.record = .wear then s.wearWriteEnded else s) =
    { s with wear := { s.wear with replacement := s.wear.replacement.past i }, resetWait := s.resetWait.map (SlotWait.past i) } := by
  by_cases h : i.record = .wear
  · have : SlotWait.past i = SlotWait.ended := by
      funext w
      rw [SlotWait.ended_eq, SlotWait.past]
      simp [h]
    rw [if_pos h, this]
    rfl
  · have : SlotWait.past i = id := by
      funext w
      rw [SlotWait.past]
      simp [h]
    rw [if_neg h, this, Option.map_id]
    rfl

/-- The write in flight completes, up to the next write's beginning (R185). -/
def State.landed (s : State) (i : Image) : State :=
  { s with
    memory := s.memory.write i, raised := s.raised ++ [writeResult i.record true], store := { s.store with inFlight := none },
    wear := { s.wear with replacement := s.wear.replacement.past i }, resetWait := s.resetWait.map (SlotWait.past i) }

theorem State.completeWrite_eq {s : State} {i : Image} (h : s.store.inFlight = some i) : s.completeWrite = (s.landed i).kick := by
  unfold State.completeWrite
  rw [h]
  dsimp only
  rw [State.written_waits]
  rfl

theorem State.failWrite_eq {s : State} {i : Image} (h : s.store.inFlight = some i) : s.failWrite =
    { s with
      raised := s.raised ++ [writeResult i.record false], store := { s.store.giveBack i with fault := true },
      wear := { s.wear with replacement := s.wear.replacement.past i },
      resetWait := s.resetWait.map fun w => if w.past i = .toBegin then .settled else w.past i } := by
  unfold State.failWrite
  rw [h]
  dsimp only
  rw [State.written_waits]
  have : (s.resetWait.map (SlotWait.past i)).map SlotWait.faulted
      = s.resetWait.map fun w => if w.past i = .toBegin then .settled else w.past i := by
    rw [Option.map_map]
    congr 1
    funext w
    exact SlotWait.faulted_eq _
  rw [← this]
  rfl

theorem Store.giveBack_eq (q : Store) (i : Image) : { q.giveBack i with fault := true } =
    { q with
      fault := true, inFlight := none, slot := (match i with | .wear r => some (q.slot.getD r) | _ => q.slot),
      retry := (match i with | .wear _ => q.retry | _ => some i.record) } := by cases i <;> rfl

/-- The images and marks after a completed write: its own record's, and no other's (R185). -/
theorem Memory.write_marks (m : Memory) (i : Image) : (m.write i).holds i.record = i ∧ i.record ∉ (m.write i).bad
    ∧ ∀ r, r ≠ i.record → (m.write i).holds r = m.holds r ∧ (r ∈ (m.write i).bad ↔ r ∈ m.bad) := by
  refine ⟨m.write_holds i, ?_, fun r hr => ⟨m.write_holds_ne i hr, ?_⟩⟩
  · rw [Memory.write_bad]; simp
  · rw [Memory.write_bad]; simp [hr]

end Sys2Proof.Machine

open Sys2Proof Sys2Proof.Machine

/-- Settles O57: the end of a write settles what waited for it, and with the fault clear the next write begins. -/
theorem storeWritesEnd : Obligations.StoreWritesEnd := by
  unfold Obligations.StoreWritesEnd
  intro s n hq
  have hr : s.raised = [] := hq.1
  refine ⟨fun h => ?_, fun i hi hn => ⟨?_, ?_⟩⟩
  · have hsame : ∀ f : State → State, (s.store.inFlight = none → f s = s) →
        Host.Outcome.next (φ := Fault) (ρ := Refusal) (if s.store.writes = n then (f s).finish else s) = .next s := by
      intro f hf
      split
      · rename_i e
        rw [hf (h.resolve_right (not_not_intro e)), State.finish_of_quiet hq]
      · rfl
    exact ⟨hsame State.completeWrite fun e => by unfold State.completeWrite; rw [e],
      hsame State.failWrite fun e => by unfold State.failWrite; rw [e]⟩
  · have hx : exec (.storeWriteComplete n) s = .next s.completeWrite.finish := congrArg Host.Outcome.next (if_pos hn)
    rw [hx, State.completeWrite_eq hi, State.finish_settled hq.settled]
    · refine ⟨_, rfl, ?_⟩
      have hm : (s.landed i).kick.memory = s.memory.write i := by rw [State.kick_rest]; rfl
      rw [and_iff_left]
      · cases hf : s.store.fault with
        | true =>
          rw [State.kick_busy (s := s.landed i) (.inr hf)]
          simp only [State.landed, hr, List.nil_append, if_true]
          rfl
        | false =>
          rw [State.kick_resumed (s := s.landed i) hf rfl]
          simp only [State.landed, hr, List.nil_append, Option.map_map, Bool.false_eq_true, if_false]
          rfl
      · dsimp only
        rw [hm]
        exact s.memory.write_marks i
    · rw [State.kick_engine]; rfl
    · rw [State.kick_sources]; rfl
    · rw [State.kick_ports]; rfl
  · have hx : exec (.storeWriteTimeout n) s = .next s.failWrite.finish := congrArg Host.Outcome.next (if_pos hn)
    rw [hx, State.failWrite_eq hi, State.finish_settled hq.settled]
    · rw [Store.giveBack_eq]
      simp only [hr, List.nil_append]
      rfl
    all_goals rfl
end

