-- ==== Sys2Proof/Proofs/StoreSaved.lean ====
section
/-! SUPPORT. What the store's operations leave in the words of the statements (`OnlySaved`, `Saving`, `Rebanded`): one queued record, a
second one behind it, a checkpoint, and the change of the wear state (R71 to R74, R166, R168, R184, R185). -/

namespace Sys2Proof.Machine

/-! ## One operation of the store -/

theorem OnlySaved.refl (s : State) : OnlySaved s s := ⟨rfl, .inl rfl, .inl rfl, .inl rfl⟩

/-- Ports and raised notices may be replaced on both sides. -/
theorem OnlySaved.close {u t : State} (h : OnlySaved u t) (ps : Ports) (l : List Notice) :
    OnlySaved { u with ports := ps, raised := l } { t with ports := ps, raised := l } := by
  obtain ⟨he, hw, hr, ho⟩ := h
  refine ⟨?_, hw, hr, ho⟩
  rw [he]

/-- The beginning of a write is all that `OnlySaved` allows (R185). -/
theorem State.kick_onlySaved (s : State) : OnlySaved s s.kick := by
  refine ⟨s.kick_rest, ?_⟩
  have wait : ∀ w : SlotWait, w.begun = w ∨ w = .toBegin ∧ w.begun = .toEnd := by intro w; cases w <;> simp [SlotWait.begun]
  unfold State.kick
  split
  · exact ⟨.inl rfl, .inl rfl, .inl rfl⟩
  · split
    · refine ⟨wait _, ?_, .inl rfl⟩
      change s.resetWait.map SlotWait.begun = _ ∨ _ ∧ s.resetWait.map SlotWait.begun = _
      cases s.resetWait with
      | none => exact .inl rfl
      | some w => exact (wait w).imp (congrArg some) fun h => ⟨congrArg some h.1, congrArg some h.2⟩
    · exact ⟨.inl rfl, .inl rfl, .inl rfl⟩
    · unfold State.beginQueued
      split
      · refine ⟨.inl rfl, .inl rfl, .inr ?_⟩
        simp only [State.setSaveOwed, State.setStore, enqueue, Bool.false_eq_true, if_false]
        split
        · assumption
        · simp
      · exact ⟨.inl rfl, .inl rfl, .inl rfl⟩
    · exact ⟨.inl rfl, .inl rfl, .inl rfl⟩
    · exact ⟨.inl rfl, .inl rfl, .inl rfl⟩

/-- s with record r put at the tail of the write queue (R184). -/
def State.appended (s : State) (r : RecordId) : State :=
  s.setStore { s.store with queue := s.store.queue ++ [r], repair := s.store.repair.filter (· != r) }

theorem State.appended_inFlight (s : State) (r : RecordId) : (s.appended r).store.inFlight = s.store.inFlight := rfl

/-- A record already queued, one put at the tail, and one that finds the queue full (R168, R184). -/
theorem State.queueRecord_eq (s : State) (r : RecordId) : s.queueRecord r =
    if r ∈ s.store.queue then s
    else if s.store.queue.length < Config.queuePlaces then (s.appended r).kick
    else if r = .lockout then s.setSaveOwed true
    else s := rfl

/-- `OnlySaved` looks at the store of its second state alone. -/
theorem OnlySaved.of_store {s t : State} {q : Store} (h : OnlySaved (s.setStore q) t) : OnlySaved s t := by
  obtain ⟨he, hw, hr, ho⟩ := h
  exact ⟨he, hw, hr, ho⟩

/-- Queueing a record is all that `OnlySaved` allows (R168, R184). -/
theorem State.queueRecord_onlySaved (s : State) (r : RecordId) : OnlySaved s (s.queueRecord r) := by
  unfold State.queueRecord
  split
  · exact .refl s
  · split
    · exact (State.kick_onlySaved _).of_store
    · rename_i hl
      split
      · refine ⟨rfl, .inl rfl, .inl rfl, .inr ?_⟩
        change if true = true then Config.queuePlaces ≤ s.store.queue.length else RecordId.lockout ∈ s.store.queue
        rw [if_pos rfl]
        exact Nat.le_of_not_lt hl
      · exact .refl s

/-- A checkpoint is all that `OnlySaved` allows, but for the minutes since it (R76, R77). -/
theorem State.checkpoint_onlySaved (s : State) : OnlySaved (s.setWear { s.wear with sinceCheckpoint := 0 }) s.checkpoint :=
  (State.kick_onlySaved _).of_store

/-- A write is in flight, or the fault keeps the next one from beginning. -/
def Store.Busy (q : Store) : Prop := q.inFlight.isSome ∨ q.fault = true

/-- What waits makes the store busy. -/
theorem State.kick_makes_busy {s : State} (h : s.store.slot ≠ none ∨ s.store.retry ≠ none ∨ s.store.queue ≠ []) :
    s.kick.store.Busy := by
  unfold State.kick
  split
  · rename_i hb
    exact hb
  · split
    · exact .inl rfl
    · exact .inl rfl
    · unfold State.beginQueued
      split <;> exact .inl rfl
    · exact .inl rfl
    · simp_all

theorem State.checkpoint_busy_after (s : State) : s.checkpoint.store.Busy := State.kick_makes_busy (.inl (by simp [State.setStore]))

/-- The waits for a wear slot write stand as they were. -/
def SameWaits (u t : State) : Prop :=
  t.wear.replacement = u.wear.replacement ∧ t.resetWait = u.resetWait ∧ t.saveOwed = u.saveOwed

/-- A record asked for leaves the store busy, or is in the queue already, or is dropped or owed with the queue full. -/
theorem State.queueRecord_busy_or (s : State) (r : RecordId) :
    (s.queueRecord r).store.Busy ∨ s.queueRecord r = s ∨ s.queueRecord r = s.setSaveOwed true := by
  unfold State.queueRecord
  split
  · exact .inr (.inl rfl)
  · split
    · exact .inl (State.kick_makes_busy (.inr (.inr (by simp [State.setStore]))))
    · split
      · exact .inr (.inr rfl)
      · exact .inr (.inl rfl)

theorem State.queueRecord_busy_or_same (s : State) {r : RecordId} (hr : r ≠ .lockout) :
    (s.queueRecord r).store.Busy ∨ SameWaits s (s.queueRecord r) := by
  unfold State.queueRecord
  split
  · exact .inr ⟨rfl, rfl, rfl⟩
  · split
    · exact .inl (State.kick_makes_busy (.inr (.inr (by simp [State.setStore]))))
    · exact .inr ⟨rfl, rfl, rfl⟩

/-- Behind another operation of the store, the LOCKOUT record is queued or owed with no more of a wait changed (R168, R184). -/
theorem OnlySaved.saveLockouts {u t : State} (h : OnlySaved u t) (hb : t.store.Busy ∨ SameWaits u t) :
    OnlySaved u t.saveLockouts := by
  obtain ⟨he, hw, hr, ho⟩ := h
  have rest : ∀ x : State, OnlySaved t x →
      x = { u with store := x.store, saveOwed := x.saveOwed, resetWait := x.resetWait,
                   wear := { u.wear with replacement := x.wear.replacement } } := by
    intro x hx
    rw [hx.1, he]
  rcases hb with hb | ⟨h1, h2, h3⟩
  · refine ⟨rest _ (t.queueRecord_onlySaved _), ?_⟩
    unfold State.saveLockouts
    rw [State.queueRecord_eq]
    split
    · exact ⟨hw, hr, ho⟩
    · rename_i hm
      split
      · rename_i hl
        rw [State.kick_busy (s := t.appended .lockout) hb]
        refine ⟨hw, hr, ho.imp id fun ho => ?_⟩
        change if t.saveOwed = true then _ ≤ (t.store.queue ++ [RecordId.lockout]).length
          else RecordId.lockout ∈ t.store.queue ++ [RecordId.lockout]
        split
        · rw [if_pos ‹_›] at ho
          rw [List.length_append]
          omega
        · simp
      · rename_i hl
        rw [if_pos rfl]
        refine ⟨hw, hr, .inr ?_⟩
        change if true = true then Config.queuePlaces ≤ t.store.queue.length else RecordId.lockout ∈ t.store.queue
        rw [if_pos rfl]
        exact Nat.le_of_not_lt hl
  · obtain ⟨ke, kw, kr, ko⟩ := t.queueRecord_onlySaved .lockout
    rw [h1] at kw
    rw [h2] at kr
    rw [h3] at ko
    exact ⟨rest _ (t.queueRecord_onlySaved _), kw, kr, ko⟩

/-- The lockout table's save is under way, or owed with the queue full (R168). -/
theorem State.saveLockouts_saving (s : State) : LockoutsSaving s.saveLockouts := by
  unfold State.saveLockouts State.queueRecord
  split
  · exact .inl (.inl ‹_›)
  · split
    · exact .inl (State.kick_saving (by simp [State.setStore]))
    · rw [if_pos rfl]
      exact .inr rfl

theorem State.queueRecord_imageOf (s : State) (q r : RecordId) : (s.queueRecord q).imageOf r = s.imageOf r := by
  rw [State.queueRecord_rest]; cases r <;> rfl

/-- A record being saved is still being saved once another has been queued. -/
theorem State.queueRecord_saving_other {s : State} {r : RecordId} (h : Saving s r) (q : RecordId) : Saving (s.queueRecord q) r := by
  unfold Saving
  rw [State.queueRecord_imageOf]
  rcases h with h | h
  · unfold State.queueRecord
    split
    · exact .inl h
    · split
      · have hk := State.kick_saving (s := s.appended q) (r := r) (List.mem_append_left _ h)
        unfold Saving at hk
        rw [State.kick_imageOf] at hk
        cases r <;> exact hk
      · split <;> exact .inl h
  · right
    unfold State.queueRecord
    split
    · exact h
    · split
      · have hk := State.kick_busy (s := s.appended q) (.inl (by rw [State.appended_inFlight, h]; rfl))
        exact (congrArg (fun x : State => x.store.inFlight) hk).trans h
      · split <;> exact h

theorem State.saveLockouts_saving_other {s : State} {r : RecordId} (h : Saving s r) : Saving s.saveLockouts r :=
  State.queueRecord_saving_other h _

/-- A store that takes a change of r does not refuse it at step 10 (R16). -/
theorem State.storeRefuses_place {s : State} {r : RecordId} (h : StoreTakes s r) : s.storeRefuses (.place r) = none := by
  obtain ⟨hf, hr⟩ := h
  unfold State.storeRefuses
  dsimp only
  rw [if_neg (by simp [hf]), if_neg]
  rintro ⟨h1, h2⟩
  have := hr.resolve_left h1
  omega

/-! ## The wear state (R71 to R74) -/

theorem State.warnEffect_eq (s : State) (old new : WearBand) : s.warnEffect old new =
    { s with
      wear := { s.wear with warnReported := s.wear.warnReported || Decidable.decide (old = .good ∧ new ≠ .good) },
      raised := s.raised ++ if old = .good ∧ new ≠ .good ∧ s.wear.warnReported = false then [warnReachedNotice new] else [] } := by
  unfold State.warnEffect
  cases hw : s.wear.warnReported with
  | true =>
    rw [if_neg (by simp), if_neg (by simp), List.append_nil, Bool.true_or, ← hw]
  | false =>
    by_cases h : old = .good ∧ new ≠ .good
    · rw [if_pos (by simp [h]), if_pos (by simp [h]), decide_eq_true h, Bool.false_or]
      rfl
    · rw [if_neg (by tauto), if_neg (by tauto), decide_eq_false h, List.append_nil, Bool.false_or, ← hw]

theorem spent_eq_worn (b : WearBand) : spent b = worn b := by cases b <;> rfl

theorem State.ecoEffect_eq (s : State) (old new : WearBand) (f : Bool)
    (hf : f = (worn new && !worn old && Decidable.decide (s.lamp.state = .lit ∧ s.lamp.level = .normal))) : s.ecoEffect old new =
    { s with
      lamp := { s.lamp with level := if f then .eco else s.lamp.level },
      raised := s.raised ++ if f then [levelForcedNotice] else [] } := by
  subst hf
  unfold State.ecoEffect
  rw [spent_eq_worn, spent_eq_worn]
  by_cases h : worn new = true ∧ worn old = false ∧ s.lamp.state = .lit ∧ s.lamp.level = .normal
  · obtain ⟨h1, h2, h3, h4⟩ := h
    rw [if_pos (by simp [h1, h2, h3, h4])]
    simp only [h1, h2, h3, h4, Bool.not_false, Bool.and_self, and_self, decide_true, if_true]
    rfl
  · have h1 : ¬ (worn new = true ∧ (!worn old) = true ∧ s.lamp.state = .lit ∧ s.lamp.level = .normal) := by simpa using h
    have h2 : (worn new && !worn old && Decidable.decide (s.lamp.state = .lit ∧ s.lamp.level = .normal)) = false := by
      rw [Bool.eq_false_iff]
      simpa [and_assoc] using h
    rw [if_neg h1, h2]
    simp

/-- The lockout set and its notice once the lamp is locked EXPIRED (R166). -/
theorem State.addExpired_eq (s : State) : s.addLampLock .expired =
    (if s.lampRecord.map Lockout.reason ≠ some (some .expired) then
      ({ s with
        lockouts := (match s.lampRecord with
          | none => insertLockout { kind := .lampLock, origin := .lamp, reason := some .expired, setAt := s.uptime, expiry := none }
              s.lockouts
          | some _ => s.lockouts.map fun l => if l.origin = .lamp then { l with reason := some .expired } else l),
        raised := s.raised ++ if s.lampRecord = none ∧ s.inForce .lampLock = false then [inForceNotice .lampLock .lamp] else [] } :
        State).saveLockouts
    else s) := by
  unfold State.addLampLock
  cases hl : s.lampRecord with
  | none =>
    rw [if_pos (by simp)]
    dsimp only
    unfold State.addLockout
    dsimp only
    cases hk : s.inForce .lampLock with
    | true => rw [if_pos rfl, if_neg (by simp), List.append_nil]; rfl
    | false => rw [if_neg (by simp), if_pos (by simp)]; rfl
  | some l =>
    by_cases h : l.reason = some .expired
    · rw [if_neg (by simp [h])]
      dsimp only
      rw [if_neg (by simp [h])]
    · rw [if_pos (by simpa using h)]
      dsimp only
      rw [if_pos ⟨rfl, h⟩, if_neg (by simp), List.append_nil]
      rfl

/-- v once its wear state is its record's, the notices raised; the lockout table still to save (R71 to R74). -/
def State.rebandedRaised (v : State) : State := { v.rebanded with raised := v.raised ++ v.bandNotices }

/-- The notices of a changed wear state up to LEVEL_FORCED (R71 to R73). -/
def State.bandFirst (v : State) : List Notice :=
  [wearStateNotice (bandOfRatio v.ratio)]
    ++ (if v.wear.band = .good ∧ bandOfRatio v.ratio ≠ .good ∧ v.wear.warnReported = false then
          [warnReachedNotice (bandOfRatio v.ratio)] else [])
    ++ (if v.ecoForced then [levelForcedNotice] else [])

/-- v once its wear state has changed, up to the effect of EXPIRED (R71 to R73). -/
def State.bandMoved (v : State) : State :=
  { v with
    wear := { v.wear with
      band := bandOfRatio v.ratio,
      warnReported := v.wear.warnReported || Decidable.decide (v.wear.band = .good ∧ bandOfRatio v.ratio ≠ .good) },
    lamp := { v.lamp with level := if v.ecoForced then .eco else v.lamp.level },
    raised := v.raised ++ v.bandFirst }

theorem State.bandMoved_eq (v : State) :
    (((v.setWear { v.wear with band := bandOfRatio v.ratio }).notify (wearStateNotice (bandOfRatio v.ratio))).warnEffect v.wear.band
      (bandOfRatio v.ratio)).ecoEffect v.wear.band (bandOfRatio v.ratio) = v.bandMoved := by
  rw [State.warnEffect_eq, State.ecoEffect_eq (f := v.ecoForced)]
  · unfold State.bandMoved State.bandFirst
    simp only [← List.append_assoc]
    rfl
  · rfl

theorem State.bandNotices_of_ne {v : State} (hb : bandOfRatio v.ratio ≠ v.wear.band) : v.bandNotices =
    v.bandFirst ++ (if v.newlyExpired = true ∧ v.lampRecord = none ∧ v.inForce .lampLock = false then
      [inForceNotice .lampLock .lamp] else []) := by
  have : (v.wear.band = .good ∧ bandOfRatio v.ratio ≠ .good ∧ v.wear.warnReported = false)
      ↔ (v.wear.band = .good ∧ v.wear.warnReported = false) :=
    ⟨fun h => ⟨h.1, h.2.2⟩, fun h => ⟨h.1, fun e => hb (by rw [e, h.1]), h.2⟩⟩
  unfold State.bandNotices State.bandFirst
  dsimp only
  rw [if_neg hb]
  simp only [this]
  rfl

/-- Without the effect of EXPIRED the change of the wear state is over. -/
theorem State.bandMoved_done {v : State} (hb : bandOfRatio v.ratio ≠ v.wear.band) (hn : v.newlyExpired = false) :
    v.bandMoved = v.rebandedRaised := by
  unfold State.rebandedRaised State.rebanded State.bandMoved
  rw [State.bandNotices_of_ne hb]
  simp [hn]

/-- The test of the thresholds in the words of the statements. -/
theorem State.testThresholds_eq (v : State) : v.testThresholds =
    if v.newlyExpired then v.rebandedRaised.saveLockouts else v.rebandedRaised := by
  unfold State.testThresholds
  dsimp only
  by_cases hb : bandOfRatio v.ratio = v.wear.band
  · have hn : v.newlyExpired = false := decide_eq_false fun ⟨h1, h2, _⟩ => h2 (hb ▸ h1)
    have he : v.ecoForced = false := by simp [State.ecoForced, hb]
    rw [if_pos hb, hn]
    unfold State.rebandedRaised State.rebanded State.bandNotices
    simp [hb, hn, he]
  · rw [if_neg hb, State.bandMoved_eq]
    unfold State.expireEffect
    by_cases hx : bandOfRatio v.ratio = .expired
    · have hne : v.wear.band ≠ .expired := fun e => hb (by rw [hx, e])
      have hr : v.bandMoved.lampRecord = v.lampRecord := rfl
      rw [if_pos hx, State.addExpired_eq, hr]
      by_cases hl : v.lampRecord.map Lockout.reason ≠ some (some .expired)
      · have hn : v.newlyExpired = true := decide_eq_true ⟨hx, hne, hl⟩
        rw [if_pos hl, if_pos hn]
        unfold State.rebandedRaised State.rebanded
        rw [State.bandNotices_of_ne hb]
        simp only [hn, true_and, if_true, ← List.append_assoc]
        rfl
      · have hn : v.newlyExpired = false := decide_eq_false fun h => hl h.2.2
        rw [if_neg hl, hn, if_neg (by simp), State.bandMoved_done hb hn]
    · have hn : v.newlyExpired = false := decide_eq_false fun h => hx h.1
      rw [if_neg hx, hn, if_neg (by simp), State.bandMoved_done hb hn]

/-- The wear state's change reads nothing that a store operation moves. -/
theorem OnlySaved.rebandedRaised {u v : State} (h : OnlySaved u v) :
    v.newlyExpired = u.newlyExpired ∧ OnlySaved u.rebandedRaised v.rebandedRaised ∧
      (SameWaits u v → SameWaits u.rebandedRaised v.rebandedRaised) := by
  obtain ⟨he, hw, hr, ho⟩ := h
  refine ⟨by rw [he]; rfl, ⟨?_, hw, hr, ho⟩, id⟩
  rw [he]
  rfl

/-- Behind an operation of the store, the test of the thresholds gives what `Rebanded` says, up to the ports (R71 to R74, R168). -/
theorem OnlySaved.testThresholds {u v : State} (h : OnlySaved u v) (hb : v.store.Busy ∨ SameWaits u v) :
    OnlySaved u.rebandedRaised v.testThresholds ∧ (u.newlyExpired = true → LockoutsSaving v.testThresholds) := by
  obtain ⟨hn, hs, hw⟩ := h.rebandedRaised
  rw [State.testThresholds_eq, hn]
  cases u.newlyExpired with
  | true =>
    rw [if_pos rfl]
    exact ⟨hs.saveLockouts (hb.imp id hw), fun _ => State.saveLockouts_saving _⟩
  | false => exact ⟨hs, nofun⟩

theorem State.rebandedRaised_saving {v : State} {r : RecordId} (h : Saving v r) (hr : r ≠ .lockout) :
    Saving v.rebandedRaised r := by
  have : v.rebandedRaised.imageOf r = v.imageOf r := by cases r <;> first | rfl | exact absurd rfl hr
  unfold Saving
  rw [this]
  exact h

theorem State.testThresholds_saving {v : State} {r : RecordId} (h : Saving v r) (hr : r ≠ .lockout) :
    Saving v.testThresholds r := by
  rw [State.testThresholds_eq]
  have := State.rebandedRaised_saving h hr
  split
  · exact State.saveLockouts_saving_other this
  · exact this

/-! ## Payload words (R20) -/

theorem toNat_byte (n : Nat) : (byte n).toNat = n % 256 := BitVec.toNat_ofNat n 8

theorem wordAt_bytes16 {n : Nat} (h : n < 65536) (l : List Byte) : wordAt (bytes16 n ++ l) 0 = n := by
  simp only [wordAt, byteAt, bytes16, List.cons_append, List.nil_append, List.getD_cons_zero, List.getD_cons_succ, toNat_byte]
  omega

theorem wordAt_cons_bytes16 {n : Nat} (h : n < 65536) (x : Byte) : wordAt (x :: bytes16 n) 1 = n := by
  simp only [wordAt, byteAt, bytes16, List.getD_cons_zero, List.getD_cons_succ, toNat_byte]
  omega

end Sys2Proof.Machine
end

