-- ==== Sys2Proof/Proofs/SetAndSettings.lean ====
section
/-! SUPPORT. SET_LOCKOUT of a kind in force, and the settings of PLAN and SERVICE (R9, R70, R152, R163, R175). -/

namespace Sys2Proof.Machine

/-! ## SET_LOCKOUT (R163) -/

/-- The expiry SET_LOCKOUT keeps of the one sent (R163). -/
def keptExpiry (n : Nat) : Option Nat := if n = 0 then none else some (min 1440 n)

theorem parse_setLockout {k : LockKind} (hk : lockKindCode k ≤ 2) {n : Nat} (hn : n < 65536) :
    parseCmd .setLockout (byte (lockKindCode k) :: bytes16 n) = some (.setLockout k (keptExpiry n), Decidable.decide (1440 < n)) := by
  have hkind : manualKindOf (byteAt (byte (lockKindCode k) :: bytes16 n) 0) = some k := by
    cases k <;> first | rfl | (exfalso; revert hk; decide)
  simp only [parseCmd, hkind, Option.map_some, wordAt_cons_bytes16 hn, keptExpiry]
  by_cases h : n = 0
  · simp [h]
  · simp [h]

/-- The test for the requester's own record, in the words of the statements (R163). -/
theorem ownRecord_eq (r : Requester) (k : LockKind) :
    ownRecord r k = fun l : Lockout => Decidable.decide (l.kind = k ∧ l.origin = .manual r) := by
  funext l
  rw [Bool.eq_iff_iff]
  simp [ownRecord]

/-- The lockout set is full for a requester with no record of the kind when five manual records stand (R16). -/
theorem State.setIsFull_setLockout (s : State) (r : Requester) (k : LockKind) (e : Option Nat) :
    s.setIsFull r (.setLockout k e) =
      (!(s.lockouts.any fun l => Decidable.decide (l.kind = k ∧ l.origin = .manual r))
        && Decidable.decide (5 ≤ (s.lockouts.filter Lockout.byHand).length)) := by
  rw [← ownRecord_eq]
  rfl

/-- For a kind that is not saved the set alone can refuse (R16). -/
theorem State.lateRefusal_setLockout {s : State} {r : Requester} {k : LockKind} {e : Option Nat} (hk : k ≠ .serviceLock) :
    s.lateRefusal r (.setLockout k e) = if s.setIsFull r (.setLockout k e) then some .setFull else none := by
  have hneed : s.storeNeed r (.setLockout k e) = .nothing := if_neg hk
  unfold State.lateRefusal
  rw [hneed]
  rfl

/-- A record added to a kind in force brings no notice and no effect (R160). -/
theorem State.placeLockout_inForce {s : State} {l : Lockout} (h : s.inForce l.kind = true) :
    s.placeLockout l = s.setLockouts (insertLockout l s.lockouts) := by
  unfold State.placeLockout State.addLockout
  simp only [h, if_true]

/-! ## The settings -/

theorem roomOf_any : roomOf (byteAt [0xFF#8] 0) = some none := rfl

theorem roomOf_code {x : Byte} (h : x.toNat ≤ 15) : roomOf (byteAt [x] 0) = some (some x.toNat) := if_pos h

theorem parse_writeAuthority (a : AuthorityRow) (cs : ClassSet) :
    parseCmd .writeAuthority [match a with | .service => 0 | .campus => 1 | .panel => 3 | .console => 4, byte cs.toNat]
      = some (plain (.writeAuthority a cs)) := by
  have hc : sevenOf (byte cs.toNat).toNat = some cs := by
    have h : (byte cs.toNat).toNat = cs.toNat := by rw [toNat_byte]; omega
    unfold sevenOf
    rw [h, if_pos cs.isLt, BitVec.ofNat_toNat, BitVec.setWidth_eq]
  have hb : ∀ x : Byte, byteAt [x, byte cs.toNat] 1 = (byte cs.toNat).toNat := fun _ => rfl
  simp only [parseCmd, hb, hc]
  cases a <;> rfl

theorem keptClasses_eq (a : AuthorityRow) (cs : ClassSet) :
    keptClasses a cs = if a = .service then cs ||| 0b1000001#7 else cs := by cases a <;> rfl

/-- A row's set in the authority table, in the words of the statements (R9). -/
theorem AuthTable.put_eq (t : AuthTable) (a : AuthorityRow) (cs : ClassSet) : t.put a cs = match a with
    | .service => { t with service := cs }
    | .campus => { t with campus := cs }
    | .panel => { t with panel := cs }
    | .console => { t with console := cs } := by cases a <;> rfl

/-- A setting is taken by its owner, u being the state with the new working value, and record `rec` is queued (R184). -/
theorem exec_saved {s u : State} {p : Port} {c : Code} {tag : Byte} {pl : List Byte} {cmd : Cmd} {b d : Bool} {rec : RecordId}
    (hq : Quiet s) (h : Passes s p c tag pl) (hp : parseCmd c pl = some (cmd, b)) (ho : s.ownerRefusal cmd = none)
    (hf : s.isFloor cmd = false) (hl : s.lateRefusal (portRequester p) cmd = none)
    (ha : (s.popInbox p).act p cmd = ((u.setPorts (s.popInbox p).ports).queueRecord rec, { verdict := .done, clamped := d }))
    (he : u.engine = s.engine) (hs : u.sources = s.sources) (hr : u.raised = []) (ht : StoreTakes u rec) :
    ∃ t, exec (rowOf c p) s = .next t
      ∧ OnlySaved { u with ports := (s.answered p tag c { verdict := .done, clamped := d || b }).ports } t ∧ Saving t rec := by
  let v := u.setPorts (s.popInbox p).ports
  have hsaved : OnlySaved v (v.queueRecord rec) := v.queueRecord_onlySaved rec
  have hraised : (v.queueRecord rec).raised = [] := by rw [hsaved.1]; exact hr
  rw [exec_rowOf, takeCommand_acts h hp ho hf hl, ha, State.answer_settled tag c _ hq.settled]
  · refine ⟨_, rfl, ?_, ?_⟩
    · rw [hraised, State.told_nil]
      have := hsaved.close (s.answered p tag c { verdict := .done, clamped := d || b }).ports []
      rw [← hr] at this
      simp only [Reply.withClamp, Verdict.accepted, Bool.and_true]
      rw [← hr]
      exact this
    · have : Saving (v.queueRecord rec) rec := State.queueRecord_saving (s := v) ht
      unfold Saving at this ⊢
      cases rec <;> exact this
  · change (v.queueRecord rec).engine = _
    rw [hsaved.1]; exact he
  · change (v.queueRecord rec).sources = _
    rw [hsaved.1]; exact hs
  · change (v.queueRecord rec).ports = _
    rw [hsaved.1]; rfl

end Sys2Proof.Machine

open Sys2Proof Sys2Proof.Machine

/-- Settles O41: the own record renewed, another added without effect, or SET_FULL; a SERVICE_LOCK is saved. -/
theorem lockoutSet : Obligations.LockoutSet := by
  unfold Obligations.LockoutSet
  intro s p tag k n hq hk hn h hforce
  have hr : s.raised = [] := hq.1
  have hparse := parse_setLockout hk hn
  have hrenew : ∀ l : Lockout, renew (portRequester p) k (keptExpiry n) s.uptime l =
      if Decidable.decide (l.kind = k ∧ l.origin = .manual (portRequester p)) then
        { l with expiry := keptExpiry n, setAt := s.uptime } else l := by
    intro l
    unfold renew
    rw [ownRecord_eq]
  have hown : s.lockouts.any (ownRecord (portRequester p) k) =
      s.lockouts.any fun l => Decidable.decide (l.kind = k ∧ l.origin = .manual (portRequester p)) := by rw [ownRecord_eq]
  dsimp only
  refine ⟨fun hs => ⟨fun ho => ?_, fun ho hlen => ?_, fun ho hlen => ?_⟩, fun hs ho ht => ?_⟩
  · have hlate : s.lateRefusal (portRequester p) (.setLockout k (keptExpiry n)) = none := by
      rw [State.lateRefusal_setLockout hs, State.setIsFull_setLockout, ho]
      rfl
    have hact : (s.popInbox p).act p (.setLockout k (keptExpiry n)) =
        ((s.popInbox p).setLockouts (s.lockouts.map (renew (portRequester p) k (keptExpiry n) s.uptime)), { verdict := .done }) := by
      change done ((s.popInbox p).setByHand (portRequester p) k (keptExpiry n)) = _
      unfold State.setByHand State.saveIfService
      rw [if_neg hs]
      exact congrArg done (if_pos (hown.trans ho))
    rw [show exec (.setLockout p) s = .next (takeCommand .setLockout p s) from rfl, takeCommand_acts h hparse rfl rfl hlate, hact,
      State.answer_settled tag _ _ hq.settled]
    · refine congrArg Host.Outcome.next ?_
      rw [show ((s.popInbox p).setLockouts _).raised = [] from hr, State.told_nil, funext hrenew]
      simp only [Reply.withClamp, Verdict.accepted, Bool.and_true, Bool.false_or, keptExpiry]
      rw [← hr]
      rfl
    all_goals rfl
  · have hlate : s.lateRefusal (portRequester p) (.setLockout k (keptExpiry n)) = none := by
      rw [State.lateRefusal_setLockout hs, State.setIsFull_setLockout, ho, decide_eq_false (Nat.not_le.mpr hlen)]
      rfl
    have hact : (s.popInbox p).act p (.setLockout k (keptExpiry n)) =
        ((s.popInbox p).setLockouts (insertLockout { kind := k, origin := .manual (portRequester p), reason := none, setAt := s.uptime, expiry := keptExpiry n } s.lockouts), { verdict := .done }) := by
      change done ((s.popInbox p).setByHand (portRequester p) k (keptExpiry n)) = _
      unfold State.setByHand State.saveIfService
      rw [if_neg hs]
      refine congrArg done ((if_neg ?_).trans (State.placeLockout_inForce (s := s.popInbox p) hforce))
      rw [Bool.not_eq_true]
      exact hown.trans ho
    rw [show exec (.setLockout p) s = .next (takeCommand .setLockout p s) from rfl, takeCommand_acts h hparse rfl rfl hlate, hact,
      State.answer_settled tag _ _ hq.settled]
    · refine congrArg Host.Outcome.next ?_
      rw [show ((s.popInbox p).setLockouts _).raised = [] from hr, State.told_nil]
      simp only [Reply.withClamp, Verdict.accepted, Bool.and_true, Bool.false_or, keptExpiry]
      rw [← hr]
      rfl
    all_goals rfl
  · have hlate : s.lateRefusal (portRequester p) (.setLockout k (keptExpiry n)) = some .setFull := by
      rw [State.lateRefusal_setLockout hs, State.setIsFull_setLockout, ho, decide_eq_true hlen]
      rfl
    have hacc : (s.popInbox p).accept p (.setLockout k (keptExpiry n)) = (s.popInbox p, refusal .setFull) := by
      unfold State.accept
      rw [State.popInbox_isFloor, State.popInbox_lateRefusal, hlate]
      rfl
    rw [show exec (.setLockout p) s = .next (takeCommand .setLockout p s) from rfl, takeCommand_accept h hparse rfl, hacc,
      Reply.withClamp_refusal rfl]
    exact congrArg Host.Outcome.next (State.popInbox_answer hq p _ _ _)
  · subst hs
    have hlate : s.lateRefusal (portRequester p) (.setLockout .serviceLock (keptExpiry n)) = none := by
      unfold State.lateRefusal
      rw [show s.storeNeed (portRequester p) (.setLockout .serviceLock (keptExpiry n)) = .place .lockout from rfl,
        State.storeRefuses_place ht, State.setIsFull_setLockout, ho]
      rfl
    have hx := exec_saved (c := .setLockout) (rec := .lockout) (d := false)
      (u := s.setLockouts (s.lockouts.map (renew (portRequester p) .serviceLock (keptExpiry n) s.uptime)))
      hq h hparse rfl rfl hlate
      (by
        change done ((s.popInbox p).setByHand (portRequester p) .serviceLock (keptExpiry n)) = _
        unfold State.setByHand State.saveIfService
        rw [if_pos rfl]
        exact congrArg (fun x : State => done x.saveLockouts) (if_pos (hown.trans ho)))
      rfl rfl hr ht
    rw [funext hrenew] at hx
    exact hx

/-- Settles O44: each setting is taken at once and its record queued; a rated life may move the wear state behind that. -/
theorem settingsWritten : Obligations.SettingsWritten := by
  unfold Obligations.SettingsWritten
  intro s p tag x n a cs hq
  have hr : s.raised = [] := hq.1
  have late : ∀ {cmd : Cmd} {rec : RecordId}, StoreTakes s rec → s.storeNeed (portRequester p) cmd = .place rec →
      s.setIsFull (portRequester p) cmd = false → s.lateRefusal (portRequester p) cmd = none := by
    intro cmd rec ht hneed hfull
    unfold State.lateRefusal
    rw [hneed, State.storeRefuses_place ht, hfull]
    rfl
  refine ⟨fun ht => ⟨fun h => ?_, fun h hx => ?_, fun hn h => ?_⟩, fun ht h => ?_⟩
  · exact exec_saved (c := .setGrace) (rec := .config) (d := false)
      (u := s.setSchedule { s.schedule with grace := min 30 x.toNat }) hq h rfl rfl rfl (late ht rfl rfl) rfl rfl rfl hr ht
  · by_cases e : x = 0xFF
    · subst e
      exact exec_saved (c := .setIrRoom) (rec := .config) (d := false) (u := s.setConsole { s.console with room := none })
        hq h rfl rfl rfl (late ht rfl rfl) rfl rfl rfl hr ht
    · have hparse : parseCmd .setIrRoom [x] = some (plain (.setIrRoom (some x.toNat))) := by
        simp only [parseCmd, roomOf_code (hx.resolve_right e), Option.map_some]
      have := exec_saved (c := .setIrRoom) (rec := .config) (d := false) (u := s.setConsole { s.console with room := some x.toNat })
        hq h hparse rfl rfl (late ht rfl rfl) rfl rfl rfl hr ht
      rw [if_neg e]
      exact this
  · have hparse : parseCmd .setRatedLife (bytes16 n) =
        some (.setRatedLife (clampRatedLife n), Decidable.decide (clampRatedLife n ≠ n)) := by
      have := wordAt_bytes16 hn []
      rw [List.append_nil] at this
      simp only [parseCmd, this]
    let u : State := s.setWear { s.wear with ratedLife := clampRatedLife n }
    let v : State := u.setPorts (s.popInbox p).ports
    have hsave := v.queueRecord_onlySaved .config
    have hbusy := v.queueRecord_busy_or_same (r := .config) (by simp)
    obtain ⟨hre, hlock⟩ := hsave.testThresholds hbusy
    have hsav : Saving (v.queueRecord .config).testThresholds .config :=
      State.testThresholds_saving (State.queueRecord_saving (s := v) ht) (by simp)
    have hraised : (v.queueRecord .config).testThresholds.raised = u.bandNotices := by
      rw [hre.1]
      change s.raised ++ _ = _
      rw [hr]
      rfl
    rw [show exec (.setRatedLife p) s = .next (takeCommand .setRatedLife p s) from rfl,
      takeCommand_acts h hparse rfl rfl (late ht rfl rfl)]
    change ∃ t, Host.Outcome.next ((v.queueRecord .config).testThresholds.answerPort p tag (codeByte .setRatedLife)
      (Reply.withClamp { verdict := .done } (Decidable.decide (clampRatedLife n ≠ n)))) = .next t ∧ _
    rw [State.answer_settled tag _ _ hq.settled]
    · refine ⟨_, rfl, ⟨?_, fun hnew => hlock hnew⟩, hsav⟩
      simp only [Reply.withClamp, Verdict.accepted, Bool.and_true, Bool.false_or]
      rw [hraised]
      let told := s.told p tag .setRatedLife { verdict := .done, clamped := Decidable.decide (clampRatedLife n ≠ n) } u.bandNotices
      have e : { v.rebandedRaised with ports := told, raised := [] } = State.rebanded { u with ports := told } := by
        rw [← hr]; rfl
      have hc := hre.close told []
      rw [e] at hc
      exact hc
    · rw [hre.1]; rfl
    · rw [hre.1]; rfl
    · rw [hre.1]; rfl
  · have hx := exec_saved (c := .writeAuthority) (rec := .authority) (d := keptClasses a cs != cs)
      (u := s.setAuthority (s.authority.put a (keptClasses a cs))) hq h (parse_writeAuthority a cs) rfl rfl (late ht rfl rfl) rfl rfl rfl
      hr ht
    rw [Bool.or_false] at hx
    have hne : (keptClasses a cs != cs) = Decidable.decide (keptClasses a cs ≠ cs) := by
      rw [Bool.eq_iff_iff]; simp
    rw [hne, AuthTable.put_eq, keptClasses_eq] at hx
    exact hx
end

