-- ==== Sys2Proof/Proofs/GraceDeferral.lean ====
section
/-! SUPPORT. A state that is another with notices still to tell; the lamp-off in those words; the commands of SCHEDULE; and the grace
deferral (R52, R55, R141, R151, R154). -/

namespace Sys2Proof.Machine

/-! ## A state with notices to tell -/

/-- v is u with the notices `pre` raised so far in the action, and u has none. -/
def State.Telling (v u : State) (pre : List Notice) : Prop := u.raised = [] ∧ ∃ ps, v = { u with ports := ps, raised := pre }

theorem State.Telling.settled {v u : State} {pre : List Notice} (h : v.Telling u pre) (hs : u.Settled) : v.Settled := by
  obtain ⟨_, ps, rfl⟩ := h
  exact hs.congr rfl rfl

/-- Told, such a state is u with other ports. -/
theorem State.Telling.closed {v u : State} {pre : List Notice} (h : v.Telling u pre) (hs : u.Settled) (tell : List Notice → Ports) :
    v.closed tell = { u with ports := tell pre } := by
  rw [State.closed_of_settled (h.settled hs)]
  obtain ⟨hr, ps, rfl⟩ := h
  rw [← hr]

theorem Quiet.telling {s : State} (h : Quiet s) : s.Telling s [] := ⟨h.1, s.ports, by rw [← h.1]⟩

theorem State.Telling.notify {v u : State} {pre : List Notice} (h : v.Telling u pre) (n : Notice) : (v.notify n).Telling u (pre ++ [n]) := by
  obtain ⟨hr, ps, rfl⟩ := h
  exact ⟨hr, ps, rfl⟩

/-- Whatever reads neither ports nor raised notices is the same in both. -/
theorem State.Telling.read {v u : State} {pre : List Notice} (h : v.Telling u pre) {α : Type} (f : State → α)
    (hf : ∀ ps l, f { u with ports := ps, raised := l } = f u) : f v = f u := by
  obtain ⟨_, ps, rfl⟩ := h
  exact hf ps pre

/-- A change that touches neither is made in both. -/
theorem State.Telling.map {v u : State} {pre : List Notice} (h : v.Telling u pre) (f : State → State)
    (hf : ∀ ps l, f { u with ports := ps, raised := l } = { f u with ports := ps, raised := l }) (hr : (f u).raised = u.raised) :
    (f v).Telling (f u) pre := by
  obtain ⟨hn, ps, rfl⟩ := h
  exact ⟨hr.trans hn, ps, hf ps pre⟩

/-- The end of a row that leaves such a state. -/
theorem State.Telling.finish {s v u : State} {pre : List Notice} (h : v.Telling u pre) (hs : u.Settled) (hp : v.ports = s.ports) :
    v.finish = { u with ports := s.ports.offerAll pre } := by
  rw [State.finish_closed hp, h.closed hs]

/-! ## The checkpoint -/

/-- After a checkpoint the wear slot holds the record, or the memory device is writing it (R77). -/
theorem State.checkpoint_imaged (s : State) : Imaged s.checkpoint s.wear.record := by
  by_cases h : s.store.inFlight.isSome ∨ s.store.fault = true
  · rw [State.checkpoint_busy h]
    exact .inl rfl
  · obtain ⟨hi, hf⟩ := not_or.mp h
    rw [State.checkpoint_idle (by simpa using hi) (by simpa using hf)]
    exact .inr rfl

/-! ## LAMP_OFF (R52, R55) -/

/-- The notice of a lamp state, in the words of the statements (R41). -/
theorem lampStateNotice_eq (l : LampState) (n : Nat) : lampStateNotice l n = lampNotice (lampCode l) n := rfl

/-- u cooled for 90 s by a lamp-off, its checkpoint still to follow (R52, R68). -/
def State.cooledOff (u : State) : State :=
  { u with lamp := u.lamp.cooled 90 false, wear := { u.wear with running := false, record := { u.wear.record with litMarker := false } } }

theorem State.enterCooldown_eq (v : State) : v.enterCooldown Config.coolSeconds false =
    ({ v.cooledOff with raised := v.raised ++ [lampNotice 5 v.lamp.attempts] } : State).checkpoint := rfl

theorem State.lampOff_darkens {u v : State} {pre : List Notice} (hv : v.Telling u pre) (hs : u.Settled) (tell : List Notice → Ports) :
    Darkens u (v.lampOff.1.closed tell) (fun _ l => tell (pre ++ l)) := by
  have hl : v.lamp = u.lamp := hv.read State.lamp fun _ _ => rfl
  have rest : ∀ {x : State} {w : State}, x.Telling w pre → w.Settled → v.lampOff.1 = x →
      v.lampOff.1.closed tell = { w with ports := tell (pre ++ []) } := by
    intro x w hx hw e
    rw [e, hx.closed hw, List.append_nil]
  refine ⟨fun h => ?_, fun h => ?_, fun h => ?_, fun h => ?_⟩
  · refine rest hv hs ?_
    unfold State.lampOff
    rw [hl]
    rcases h with h | h <;> rw [h]
  · refine rest (x := v.setLamp { u.lamp with heldOff := true }) (w := u.setLamp { u.lamp with heldOff := true })
      (hv.map (·.setLamp { u.lamp with heldOff := true }) (fun _ _ => rfl) rfl) (hs.congr rfl rfl) ?_
    unfold State.lampOff
    rw [hl, h]
  · refine rest (x := v.setLamp { u.lamp with pendingOn := none }) (w := u.setLamp { u.lamp with pendingOn := none })
      (hv.map (·.setLamp { u.lamp with pendingOn := none }) (fun _ _ => rfl) rfl) (hs.congr rfl rfl) ?_
    unfold State.lampOff
    rw [hl, h]
  · have hoff : v.lampOff.1 = v.enterCooldown Config.coolSeconds false := by
      unfold State.lampOff
      rw [hl]
      rcases h with h | h | h <;> rw [h]
    obtain ⟨hr, ps, rfl⟩ := hv
    rw [hoff, State.enterCooldown_eq]
    let c : State := { u.cooledOff with ports := ps, raised := pre ++ [lampNotice 5 u.lamp.attempts] }
    have hsaved : OnlySaved (c.setWear { c.wear with sinceCheckpoint := 0 }) c.checkpoint := c.checkpoint_onlySaved
    have hset : c.checkpoint.Settled := hs.congr (by rw [hsaved.1]; rfl) (by rw [hsaved.1]; rfl)
    have hraised : c.checkpoint.raised = pre ++ [lampNotice 5 u.lamp.attempts] := by rw [hsaved.1]; rfl
    change OnlySaved _ (c.checkpoint.closed tell) ∧ Imaged (c.checkpoint.closed tell) _
    rw [State.closed_of_settled hset, hraised]
    refine ⟨?_, c.checkpoint_imaged⟩
    have hc := hsaved.close (tell (pre ++ [lampNotice 5 u.lamp.attempts])) []
    rw [← hr] at hc ⊢
    exact hc

/-! ## SCHEDULE's commands (R6, R19, R151) -/

/-- SCHEDULE may always ask for the lamp: LAMP_OFF is refused under SERVICE_LOCK alone (R6, R13, R55). -/
theorem State.innerRefusal_schedule_lampOff (s : State) :
    s.innerRefusal .schedule .lampOff = if s.inForce .serviceLock then some .lockedOut else none := by
  have hmay : s.mayUse .schedule .lampOff = true := by
    change scheduleClasses.getLsbD (classBit (codeClass .lampOff)) = true
    decide
  have h6 : s.lockedOut6 .schedule .lampOff = false := by simp [State.lockedOut6, atLectern]
  have h5 : s.lockedOut5 .schedule .lampOff = s.inForce .serviceLock := by
    unfold State.lockedOut5
    cases s.inForce .serviceLock <;> rfl
  unfold State.innerRefusal
  simp only [cmdCode, hmay, h5, h6]
  cases s.inForce .serviceLock <;> rfl

/-- The LAMP_OFF that a grace deferral issues: refused, or acted on by the lamp (R19, R154, log 20). -/
theorem State.scheduleLampOff (s : State) : (s.innerLampOff .schedule).1 =
    if s.resetWait ≠ none ∨ s.inForce .serviceLock = true then s else s.lampOff.1 := by
  unfold State.innerLampOff State.innerIntake
  rw [State.innerRefusal_schedule_lampOff]
  by_cases hw : s.resetWait = none
  · cases hf : s.inForce .serviceLock
    · simp only [hw]
      rfl
    · simp [hw]
  · rw [if_pos (Option.isSome_iff_ne_none.mpr hw), if_pos (.inl hw)]

/-- A deferral that fires: it ends with result 0, and the LAMP_OFF follows (R154). -/
theorem State.fireDeferral_eq {s : State} (h : s.schedule.deferral ≠ none) : s.fireDeferral =
    (((s.setDeferral none).notify (deferralEndNotice 0)).innerLampOff .schedule).1 := by
  obtain ⟨d, hd⟩ := Option.ne_none_iff_exists'.mp h
  unfold State.fireDeferral State.endDeferral
  rw [hd]

/-- The state in which a firing deferral issues its LAMP_OFF. -/
theorem State.Telling.deferralGone {u v : State} {pre : List Notice} (hv : v.Telling u pre) :
    ((v.setDeferral none).notify (deferralEndNotice 0)).Telling (u.setDeferral none) (pre ++ [deferralEndNotice 0]) :=
  (hv.map (·.setDeferral none) (fun _ _ => rfl) rfl).notify _

/-- A deferral that fires, the LAMP_OFF refused. -/
theorem State.fireDeferral_refused {u v : State} {pre : List Notice} (hv : v.Telling u pre) (hd : u.schedule.deferral ≠ none)
    (hw : u.resetWait ≠ none ∨ u.inForce .serviceLock = true) :
    v.fireDeferral.Telling (u.setDeferral none) (pre ++ [deferralEndNotice 0]) := by
  have hd' : v.schedule.deferral ≠ none := by rwa [hv.read State.schedule fun _ _ => rfl]
  have ht := hv.deferralGone
  have hc : ((v.setDeferral none).notify (deferralEndNotice 0)).resetWait ≠ none ∨
      ((v.setDeferral none).notify (deferralEndNotice 0)).inForce .serviceLock = true := by
    rw [ht.read State.resetWait fun _ _ => rfl, ht.read (·.inForce .serviceLock) fun _ _ => rfl]
    exact hw
  rw [State.fireDeferral_eq hd', State.scheduleLampOff, if_pos hc]
  exact ht

/-- A deferral that fires, the LAMP_OFF acted on. -/
theorem State.fireDeferral_darkens {u v : State} {pre : List Notice} (hv : v.Telling u pre) (hs : u.Settled)
    (hd : u.schedule.deferral ≠ none) (hw : u.resetWait = none) (hf : u.inForce .serviceLock = false) (tell : List Notice → Ports) :
    Darkens (u.setDeferral none) (v.fireDeferral.closed tell) (fun _ l => tell ((pre ++ [deferralEndNotice 0]) ++ l)) := by
  have hd' : v.schedule.deferral ≠ none := by rwa [hv.read State.schedule fun _ _ => rfl]
  have ht := hv.deferralGone
  have hc : ¬ (((v.setDeferral none).notify (deferralEndNotice 0)).resetWait ≠ none ∨
      ((v.setDeferral none).notify (deferralEndNotice 0)).inForce .serviceLock = true) := by
    rw [ht.read State.resetWait fun _ _ => rfl, ht.read (·.inForce .serviceLock) fun _ _ => rfl]
    exact not_or.mpr ⟨not_not.mpr hw, fun h => Bool.noConfusion (hf.symm.trans h)⟩
  rw [State.fireDeferral_eq hd', State.scheduleLampOff, if_neg hc]
  exact State.lampOff_darkens ht (hs.congr rfl rfl) tell

/-- When a deferral is due, in the words of the statements (R154). -/
theorem Deferral.expired_eq (d : Deferral) (uptime grace : Nat) :
    d.expired uptime grace = Decidable.decide (d.quietFrom + 1 + grace ≤ uptime ∨ d.start + 1 + 45 ≤ uptime) := (Bool.decide_or _ _).symm

theorem State.examineDeferral_none {s : State} (h : s.schedule.deferral = none) : s.examineDeferral = s := by
  unfold State.examineDeferral
  rw [h]

theorem State.examineDeferral_some {s : State} {d : Deferral} (h : s.schedule.deferral = some d) :
    s.examineDeferral = s.setDeferral (some { d with due := d.expired s.uptime s.schedule.grace }) := by
  unfold State.examineDeferral
  rw [h]

/-- A due deferral whose counts stand at a limit fires (R154). -/
theorem State.expireDeferral_due {s : State} {d : Deferral} (hd : s.schedule.deferral = some d) (hdue : d.due = true)
    (hx : d.quietFrom + 1 + s.schedule.grace ≤ s.uptime ∨ d.start + 1 + 45 ≤ s.uptime) : s.expireDeferral = s.fireDeferral := by
  have he : d.expired s.uptime s.schedule.grace = true := (Deferral.expired_eq d _ _).trans (decide_eq_true hx)
  unfold State.expireDeferral
  rw [hd]
  exact if_pos ⟨hdue, he⟩

end Sys2Proof.Machine

open Sys2Proof Sys2Proof.Machine

/-- Settles O40: the tick marks the deferral due, and a due one fires by SCHEDULE's LAMP_OFF. -/
theorem uptimeAndDeferral : Obligations.UptimeAndDeferral := by
  unfold Obligations.UptimeAndDeferral
  intro s hq
  have hset := hq.settled
  have hr : s.raised = [] := hq.1
  have tick : exec .uptimeTick s = .next s.tickUptime.finish := rfl
  have expiry : exec .deferralExpiry s = .next s.expireDeferral.finish := rfl
  refine ⟨fun hd => ?_, fun d hd => ?_, fun d hd hdue => ?_, fun d hd hdue hx => ⟨fun hw => ?_, fun hw hf => ?_⟩⟩
  · have ht : s.tickUptime = s.setUptime (min 4294967295 (s.uptime + 1)) := State.examineDeferral_none hd
    have h := hq.telling.map (·.setUptime (min 4294967295 (s.uptime + 1))) (fun _ _ => rfl) rfl
    rw [tick, ht, h.finish (hset.congr rfl rfl) rfl]
    rfl
  · let due : Bool := d.expired (min 4294967295 (s.uptime + 1)) s.schedule.grace
    let f (x : State) : State := (x.setUptime (min 4294967295 (s.uptime + 1))).setDeferral (some { d with due := due })
    have ht : s.tickUptime = f s := State.examineDeferral_some hd
    rw [tick, ht, (hq.telling.map f (fun _ _ => rfl) rfl).finish (hset.congr rfl rfl) rfl, ← Deferral.expired_eq]
    rfl
  · have ht : s.expireDeferral = s := by
      unfold State.expireDeferral
      rw [hd]
      exact if_neg (by simp [hdue])
    rw [expiry, ht, State.finish_of_quiet hq]
  · have ht := State.fireDeferral_refused hq.telling (by simp [hd]) hw
    rw [expiry, State.expireDeferral_due hd hdue hx, ht.finish (hset.congr rfl rfl) (State.ports_of_room s.fireDeferral_room)]
    rfl
  · have hd' : s.schedule.deferral ≠ none := by simp [hd]
    refine ⟨s.fireDeferral.finish, by rw [expiry, State.expireDeferral_due hd hdue hx], ?_⟩
    rw [State.finish_closed (State.ports_of_room s.fireDeferral_room)]
    exact State.fireDeferral_darkens hq.telling hset hd' hw hf s.ports.offerAll
end

