-- ==== Sys2Proof/Proofs/ScheduleEntryEnds.lean ====
section
/-! SUPPORT. The end of a schedule entry with none to follow, and the clock's two rows (R138 to R140, R146, R147, R153). -/

namespace Sys2Proof.Machine

/-! ## Records removed -/

/-- Kinds that lose their last record, told one by one. -/
theorem State.notifyAll (ks : List LockKind) (s : State) :
    ks.foldl (fun t k => t.notify (outOfForceNotice k)) s = s.setRaised (s.raised ++ ks.map outOfForceNotice) := by
  induction ks generalizing s with
  | nil => rw [List.map_nil, List.append_nil]; rfl
  | cons k ks ih =>
    rw [List.foldl_cons, ih, List.map_cons]
    simp only [State.notify, State.setRaised, List.append_assoc]
    rfl

/-- A removal in the words of the statements (R160). -/
theorem State.removeLockouts_eq (s : State) (gone : Lockout → Bool) : s.removeLockouts gone =
    (s.setLockouts (s.lockouts.filter fun l => !gone l)).setRaised
      (s.raised ++ lostNotices s.lockouts (s.lockouts.filter fun l => !gone l)) :=
  State.notifyAll _ _

theorem State.Telling.remove {v u : State} {pre : List Notice} (h : v.Telling u pre) (gone : Lockout → Bool) :
    (v.removeLockouts gone).Telling (u.setLockouts (u.lockouts.filter fun l => !gone l))
      (pre ++ lostNotices u.lockouts (u.lockouts.filter fun l => !gone l)) := by
  rw [State.removeLockouts_eq]
  obtain ⟨hr, ps, rfl⟩ := h
  exact ⟨hr, ps, rfl⟩

/-- Nothing is lost where nothing is removed. -/
theorem lostNotices_self (l : List Lockout) : lostNotices l l = [] := by
  unfold lostNotices
  rw [List.filter_eq_nil_iff.mpr fun k _ => by simp]
  rfl

/-! ## The end of an entry (R146, R147, R153) -/

/-- What the schedule leaves of the lockouts when entry x ends with none to follow (R147). -/
def State.leftBy (u : State) (x : Effective) : List Lockout :=
  if x.kind = .session then u.lockouts else u.lockouts.filter fun l => !l.ofSchedule

/-- The entry is forgotten and its record removed, in whatever state tells it. -/
theorem State.Telling.entryGone {v u : State} {pre : List Notice} (h : v.Telling u pre) (x : Effective) :
    (if removesRecord (some x.kind) none then v.removeLockouts Lockout.ofSchedule else v).Telling (u.setLockouts (u.leftBy x))
      (pre ++ lostNotices u.lockouts (u.leftBy x)) := by
  unfold State.leftBy
  by_cases hk : x.kind = .session
  · rw [hk, if_neg (by decide), if_pos rfl, lostNotices_self, List.append_nil]
    exact h
  · have hrem : removesRecord (some x.kind) none = true := by cases hx : x.kind <;> first | rfl | exact absurd hx hk
    rw [if_pos hrem, if_neg hk]
    exact h.remove _

/-- u once its remembered entry x is over, none following. -/
def State.entryOver (u : State) (x : Effective) : State :=
  { u with lockouts := u.leftBy x, schedule := { u.schedule with remembered := none } }

/-- The notices of that. -/
def State.overNotices (u : State) (x : Effective) : List Notice :=
  { cls := .schedule, kind := 1, subject := 0xFF, result := 0, extra := 0xFF } :: lostNotices u.lockouts (u.leftBy x)

/-- The evaluation that finds no entry after x, up to the grace deferral. -/
theorem State.evaluate_over {v u : State} (hv : v.Telling u []) {x : Effective} (hx : u.schedule.remembered = some x)
    (he : u.effective = none) : ∃ y : State, y.Telling (u.entryOver x) (u.overNotices x) ∧
      v.evaluate = if teaching (some x.kind) then y.startDeferral x.index else y := by
  let w : State := (v.setSchedule { v.schedule with remembered := none }).notify (entryNotice none)
  have hw : w.Telling (u.setSchedule { u.schedule with remembered := none }) [entryNotice none] := by
    obtain ⟨hr, ps, rfl⟩ := hv
    exact ⟨hr, ps, rfl⟩
  refine ⟨_, hw.entryGone x, ?_⟩
  have hx' : v.schedule.remembered = some x := by rw [hv.read State.schedule fun _ _ => rfl, hx]
  have he' : v.effective = none := by rw [hv.read State.effective fun _ _ => rfl, he]
  unfold State.evaluate State.leaveEntry
  rw [hx', he']
  rfl

/-- The entry's end, as told (R147, R153). -/
theorem State.evaluate_ends {v u : State} (hv : v.Telling u []) (hs : u.Settled) {x : Effective}
    (hx : u.schedule.remembered = some x) (he : u.effective = none) (tell : List Notice → Ports) :
    EntryEnds u (v.evaluate.closed tell) tell x := by
  obtain ⟨y, hy, heq⟩ := State.evaluate_over hv hx he
  have hset : (u.entryOver x).Settled := hs.congr rfl rfl
  let d : Deferral := { entryLeft := x.index, start := u.uptime, quietFrom := u.uptime, due := false }
  have hstart : ((y.setDeferral (some { entryLeft := x.index, start := y.uptime, quietFrom := y.uptime, due := false })).notify
      (deferralStartNotice x.index y.schedule.grace)).Telling ((u.entryOver x).setDeferral (some d))
      (u.overNotices x ++ [deferralStartNotice x.index u.schedule.grace]) := by
    rw [hy.read State.uptime fun _ _ => rfl, hy.read State.schedule fun _ _ => rfl]
    exact (hy.map (·.setDeferral (some d)) (fun _ _ => rfl) rfl).notify _
  have hgrace : y.schedule.grace = u.schedule.grace := by rw [hy.read State.schedule fun _ _ => rfl]; rfl
  have starts : x.kind ≠ .closed → v.evaluate = y.startDeferral x.index := by
    intro hk
    rw [heq, if_pos]
    cases hx : x.kind <;> first | rfl | exact absurd hx hk
  have fires : u.schedule.grace = 0 → y.startDeferral x.index =
      ((y.setDeferral (some { entryLeft := x.index, start := y.uptime, quietFrom := y.uptime, due := false })).notify
        (deferralStartNotice x.index y.schedule.grace)).fireDeferral := fun hg => if_pos (hgrace.trans hg)
  refine ⟨fun hk => ?_, fun hk hg => ?_, fun hk hg => ⟨fun hw => ?_, fun hw hf => ?_⟩⟩
  · have : v.evaluate = y := by rw [heq, hk]; rfl
    rw [this, hy.closed hset]
    change _ = { u.entryOver x with ports := tell (u.overNotices x ++ []) }
    rw [List.append_nil]
  · rw [starts hk]
    unfold State.startDeferral
    rw [if_neg (by rwa [hgrace]), hstart.closed (hset.congr rfl rfl)]
    rfl
  · rw [starts hk, fires hg, (State.fireDeferral_refused hstart (by simp [State.setDeferral, State.setSchedule]) hw).closed (hset.congr rfl rfl)]
    rw [List.append_assoc]
    rfl
  · rw [starts hk, fires hg]
    have := State.fireDeferral_darkens hstart (hset.congr rfl rfl) (by simp [State.setDeferral, State.setSchedule]) hw hf tell
    simp only [List.append_assoc] at this
    exact this

/-- The effective entry is the remembered one: nothing happens (R146). -/
theorem State.evaluate_same {s : State} (h : s.effective = s.schedule.remembered) : s.evaluate = s := if_pos h

/-! ## The clock (R139, R140) -/

theorem parse_setClock {m w k : Nat} (hm : m ≤ 1439) (hw : w ≤ 6) (hk : k ≤ 60) :
    parseCmd .setClock (bytes16 m ++ [byte w, byte k]) = some (plain (.setClock m w k)) := by
  have h0 : wordAt (bytes16 m ++ [byte w, byte k]) 0 = m := wordAt_bytes16 (by omega) _
  have h2 : byteAt (bytes16 m ++ [byte w, byte k]) 2 = w := by
    change (byte w).toNat = w
    rw [toNat_byte]; omega
  have h3 : byteAt (bytes16 m ++ [byte w, byte k]) 3 = k := by
    change (byte k).toNat = k
    rw [toNat_byte]; omega
  simp only [parseCmd, h0, h2, h3, hm, hw, hk]
  rfl

/-- s with its clock set by hand. -/
def State.clockSent (s : State) (m w k : Nat) : State :=
  s.setClock { isSet := true, minute := m, weekday := w, week := k, run := s.clock.run + 1 }

/-- SET_CLOCK, taken by its owner. -/
theorem exec_setClock {s : State} {p : Port} {tag : Byte} {m w k : Nat} (hm : m ≤ 1439) (hw : w ≤ 6) (hk : k ≤ 60)
    (h : Passes s p .setClock tag (bytes16 m ++ [byte w, byte k])) :
    exec (.setClock p) s = .next (((s.popInbox p).clockSent m w k).evaluate.closed (s.told p tag .setClock { verdict := .done })) := by
  rw [show exec (.setClock p) s = .next (takeCommand .setClock p s) from rfl,
    takeCommand_acts h (parse_setClock hm hw hk) rfl rfl rfl, Reply.withClamp_false]
  have hp : ((s.popInbox p).clockSent m w k).evaluate.ports = ((s.popInbox p).clockSent m w k).ports :=
    State.ports_of_room (State.evaluate_room _)
  exact congrArg Host.Outcome.next (State.answer_closed tag .setClock _ hp)

theorem Quiet.popped {s : State} (h : Quiet s) (p : Port) (m w k : Nat) :
    ((s.popInbox p).clockSent m w k).Telling (s.clockSent m w k) [] := ⟨h.1, (s.popInbox p).ports, by rw [← h.1]; rfl⟩

/-- The clock's minute in the words of the statements (R139). -/
theorem Clock.tick_eq {c : Clock} (hm : c.minute ≤ 1439) (hw : c.weekday ≤ 6) (hs : c.isSet = true) :
    let wrap : Bool := c.minute = 1439
    c.tick =
    { isSet := true, minute := if wrap then 0 else c.minute + 1,
      weekday := if wrap then (c.weekday + 1) % 7 else c.weekday,
      week := if wrap ∧ c.weekday = 6 ∧ 1 ≤ c.week ∧ c.week ≤ 59 then c.week + 1 else c.week, run := c.run + 1 } := by
  obtain ⟨set, minute, weekday, week, run⟩ := c
  simp only at hm hw hs ⊢
  subst hs
  unfold Clock.tick nextWeekday nextWeek
  by_cases h : minute = 1439
  · subst h
    by_cases h6 : weekday = 6
    · simp [h6]
    · have h7 : (weekday + 1) % 7 = weekday + 1 := Nat.mod_eq_of_lt (by omega)
      simp [h6, h7]
  · rw [if_pos (by simp only; omega)]
    simp [h]

end Sys2Proof.Machine

open Sys2Proof Sys2Proof.Machine

/-- Settles O38: the clock set or advanced, and the evaluation that ends an entry. -/
theorem minuteTicks : Obligations.MinuteTicks := by
  unfold Obligations.MinuteTicks
  intro s p tag m w k run hq
  have hset := hq.settled
  have ticks : ∀ {r : Nat}, s.clock.run = r → exec (.clockMinuteTick r) s = .next s.minuteTick.finish :=
    fun h => congrArg Host.Outcome.next (if_pos h)
  have advance : s.clock.isSet = true → s.minuteTick = (s.setClock s.clock.tick).evaluate := fun h => if_pos h
  have tickTelling : (s.setClock s.clock.tick).Telling (s.setClock s.clock.tick) [] :=
    hq.telling.map (·.setClock s.clock.tick) (fun _ _ => rfl) rfl
  refine ⟨fun hm hw hk h => ⟨fun he => ?_, fun x hx he => ?_⟩, fun hr => congrArg Host.Outcome.next (if_neg hr),
    fun hr hm hw => ⟨fun hc => ?_, fun hc he => ?_, fun x hx hc he => ?_⟩⟩
  · have hsame : ((s.popInbox p).clockSent m w k).evaluate = (s.popInbox p).clockSent m w k := State.evaluate_same he
    rw [exec_setClock hm hw hk h, hsame, (hq.popped p m w k).closed (hset.congr rfl rfl)]
    rfl
  · rw [exec_setClock hm hw hk h]
    exact ⟨_, rfl, State.evaluate_ends (hq.popped p m w k) (hset.congr rfl rfl) hx he _⟩
  · have : s.minuteTick = s := if_neg (by simp [hc])
    rw [ticks hr, this, State.finish_of_quiet hq]
  · rw [← Clock.tick_eq hm hw hc] at he ⊢
    have hsame : (s.setClock s.clock.tick).evaluate = s.setClock s.clock.tick := State.evaluate_same he
    rw [ticks hr, advance hc, hsame, tickTelling.finish (hset.congr rfl rfl) rfl]
    rfl
  · rw [← Clock.tick_eq hm hw hc] at he ⊢
    rw [ticks hr, advance hc]
    refine ⟨_, rfl, ?_⟩
    have hp : (s.setClock s.clock.tick).evaluate.ports = (s.setClock s.clock.tick).ports := State.ports_of_room (State.evaluate_room _)
    rw [State.finish_closed (s := s) hp]
    exact State.evaluate_ends tickTelling (hset.congr rfl rfl) hx he _
end

