-- ==== Sys2Proof/Proofs/EngineStarts.lean ====
section
/-! SUPPORT. The blank control, the hand-off of tables and the start of a switch, once for every row and command that reaches them
(R92, R94 to R96, R107, R115, R118). -/

namespace Sys2Proof.Machine

/-! ## The blank control (R92) -/

/-- The blank control in the words of the statements. -/
theorem State.watchBlank_eq (s : State) : s.watchBlank = s.watched := by
  unfold State.watchBlank
  by_cases h : s.composition = s.engine.compHeld
  · rw [if_pos h]
    unfold State.watched
    simp [h]
  · rw [if_neg h]
    have hc : (s.setEngine { s.engine with compHeld := s.composition }).composition = s.composition := rfl
    unfold State.compareBlank State.watched
    rw [hc]
    by_cases hp : s.engine.powered = true
    · by_cases hb : s.engine.blankReq = none
      · cases hcomp : s.composition
        · by_cases hu : s.engine.blank = .unblanked
          · simp [hp, hb, hu, State.setEngine]
          · rw [hcomp] at h
            simp [hp, hb, hu, h, State.setEngine, State.sendBlank, State.bumpLink]
        · by_cases hu : s.engine.blank = .blanked
          · simp [hp, hb, hu, State.setEngine]
          · rw [hcomp] at h
            simp [hp, hb, hu, h, State.setEngine, State.sendBlank, State.bumpLink]
      · simp [hb, Option.isSome_iff_ne_none, State.setEngine]
    · simp [hp, State.setEngine]

/-- With the composition as the blank control last saw it, it does nothing (R92). -/
theorem State.watched_same {s : State} (h : s.engine.compHeld = s.composition) : s.watched = s := by
  rw [← State.watchBlank_eq]
  exact if_pos h.symm

/-- What the blank control leaves of the engine. -/
theorem State.watched_engine (s : State) : s.watched.engine =
    { s.engine with compHeld := s.composition, blankReq := s.watched.engine.blankReq, linkNext := s.watched.engine.linkNext } := rfl

theorem State.watched_composition (s : State) : s.watched.composition = s.composition := rfl

/-! ## Tables (R107, R115, R118) -/

/-- From s to t only the geometry unit and the link's next number have changed. -/
def LinkOnly (s t : State) : Prop := t = { s with geo := t.geo, engine := { s.engine with linkNext := t.engine.linkNext } }

theorem LinkOnly.of_eq {s t : State} {g : Geometry} {n : Nat} (h : t = { s with geo := g, engine := { s.engine with linkNext := n } }) :
    LinkOnly s t := by subst h; rfl

theorem LinkOnly.sources {s t : State} (h : LinkOnly s t) : t.sources = s.sources := by rw [show t = _ from h]
theorem LinkOnly.engine {s t : State} (h : LinkOnly s t) : t.engine = { s.engine with linkNext := t.engine.linkNext } :=
  congrArg State.engine h

theorem State.tabled_link (s : State) (b : BandTable) : LinkOnly s (s.tabled b) := by
  unfold State.tabled
  split
  · exact .of_eq (g := { s.geo with last := b }) (n := s.engine.linkNext) rfl
  · split <;> rfl

/-- A recompute that is not forced, in the words of the statements (R118). -/
theorem State.recompute_eq (s : State) : s.recompute false = s.retabled := by
  unfold State.recompute State.hand State.retabled State.tabled State.computed
  have hn : (s.setGeo { s.geo with last := bandTable (s.effectivePair s.profiles.active) s.routedAspect }).geo.newest = s.geo.newest := rfl
  rw [hn]
  by_cases hp : s.engine.powered = true
  · by_cases hs : s.geo.newest = some (bandTable (s.effectivePair s.profiles.active) s.routedAspect)
    · simp [hp, hs, State.setGeo]
    · by_cases ht : s.geo.inTransfer = none
      · simp [hp, hs, ht, State.setGeo, State.sendTable, State.bumpLink, State.setEngine]
      · simp [hp, hs, ht, State.setGeo]
  · simp [hp, State.setGeo]

theorem State.retabled_link (s : State) : LinkOnly s s.retabled := s.tabled_link _

theorem State.tellAspect_link (s : State) (old : AspectClass) : LinkOnly s (s.tellAspect old) := by
  unfold State.tellAspect
  split
  · rfl
  · rw [State.recompute_eq]
    exact s.retabled_link

/-- The same table is handed whatever is still to be told. -/
theorem State.tabled_told (u : State) (b : BandTable) (ps : Ports) (l : List Notice) :
    ({ u with ports := ps, raised := l } : State).tabled b = { u.tabled b with ports := ps, raised := l } := by
  have hc : ({ u with ports := ps, raised := l } : State).geo = u.geo := rfl
  unfold State.tabled
  dsimp only
  split
  · rfl
  · split <;> rfl

/-! ## Routing (R95, R96) -/

theorem State.clearTiming_source (s : State) (n m : InputIdx) :
    (s.clearTiming n).source m = if m = n then { s.source n with timing := none } else s.source m := by
  unfold State.clearTiming State.setSource State.source State.setSources
  by_cases h : m = n
  · subst h
    simp
  · rw [if_neg h]
    exact Vector.set_other _ _ h

/-- The sources once the switch has left the routed input for its target, both without a timing (R85, R95). -/
def State.rerouted (s : State) (n : InputIdx) : State :=
  ((if s.engine.routed = n then s else s.clearTiming s.engine.routed).setEngine
    { s.engine with selected := n, routed := n }).clearTiming n

theorem State.rerouted_eq (s : State) (n : InputIdx) : s.rerouted n =
    { s with sources := (s.rerouted n).sources, engine := { s.engine with selected := n, routed := n } } := by
  unfold State.rerouted
  split <;> rfl

theorem State.rerouted_source (s : State) (n m : InputIdx) :
    (s.rerouted n).source m = if m = n ∨ m = s.engine.routed then { s.source m with timing := none } else s.source m := by
  unfold State.rerouted
  rw [State.clearTiming_source]
  have hset : ∀ (x : State) (e : Engine) (k : InputIdx), (x.setEngine e).source k = x.source k := fun _ _ _ => rfl
  simp only [hset]
  by_cases hr : s.engine.routed = n
  · rw [if_pos hr]
    by_cases hm : m = n
    · simp [hm]
    · simp [hm, hr]
  · rw [if_neg hr, State.clearTiming_source, State.clearTiming_source]
    by_cases hm : m = n
    · subst hm
      simp [Ne.symm hr]
    · simp only [hm, if_false, false_or]
      by_cases h : m = s.engine.routed
      · rw [if_pos h, if_pos h, h]
      · rw [if_neg h, if_neg h]

/-- A lock attempt as the entry to LOCKING begins it: quick exactly when a timing is remembered (R96). -/
def Switch.locking (w : Switch) (remembered : Option Timing) (n : Nat) : Switch :=
  { w with lockMode := some (if remembered = none then .full else .quick), window := some (if remembered = none then 3000 else 400),
           limit := some n }

theorem State.enterLocking_sources (s : State) (w : Switch) : (s.enterLocking w).sources = s.sources := rfl

theorem State.enterLocking_engine (s : State) (w : Switch) : (s.enterLocking w).engine =
    { s.engine with
      state := .locking, inFlight := some (w.locking (s.source w.target).remembered s.engine.linkNext),
      lockReq := some { num := s.engine.linkNext, mode := if (s.source w.target).remembered = none then .full else .quick,
                        timing := (s.source w.target).remembered },
      linkNext := nextLink s.engine.linkNext } := by
  unfold State.enterLocking State.attempt Switch.locking
  cases h : (s.source w.target).remembered with
  | none => rfl
  | some t =>
    have ht : ((s.setEngine { s.engine with state := .locking }).source w.target).remembered = some t := h
    simp only [Option.isSome_some, if_true, ht]
    rfl

/-- The engine and the sources after ROUTING, with the composition held (R95, R96): it stays, the target having no timing. -/
theorem State.route_routed {s : State} {w : Switch} (hh : s.engine.compHeld = true) :
    ∃ k, (s.route w).engine =
        { s.engine with
          selected := w.target, routed := w.target, state := .locking,
          inFlight := some (w.locking (s.source w.target).remembered k),
          lockReq := some { num := k, mode := if (s.source w.target).remembered = none then .full else .quick,
                            timing := (s.source w.target).remembered },
          linkNext := nextLink k }
      ∧ ∀ m : InputIdx, (s.route w).source m =
          if m = w.target ∨ m = s.engine.routed then { s.source m with timing := none } else s.source m := by
  let y := s.rerouted w.target
  let z := y.tellAspect s.routedAspect
  have hz : LinkOnly y z := y.tellAspect_link _
  have hroute : s.route w = z.watchBlank.enterLocking w := by
    unfold State.route
    dsimp only
    by_cases hr : s.engine.routed = w.target
    · have hy : y = (s.setEngine { s.engine with selected := w.target, routed := w.target }).clearTiming w.target := by
        change s.rerouted w.target = _
        unfold State.rerouted
        rw [if_pos hr]
      rw [if_pos hr, ← hy]
    · have hy : y = ((s.clearTiming s.engine.routed).setEngine
          { (s.clearTiming s.engine.routed).engine with selected := w.target, routed := w.target }).clearTiming w.target := by
        change s.rerouted w.target = _
        unfold State.rerouted
        rw [if_neg hr]
        rfl
      rw [if_neg hr, ← hy]
  have hye : y.engine = { s.engine with selected := w.target, routed := w.target } := by rw [show y = _ from s.rerouted_eq w.target]
  have hze : z.engine = { y.engine with linkNext := z.engine.linkNext } := hz.engine
  have hzs : z.sources = y.sources := hz.sources
  have hrs : z.routedSource = { s.source w.target with timing := none } := by
    have : z.routedSource = (s.rerouted w.target).source w.target := by
      unfold State.routedSource State.source
      rw [hzs, hze, hye]
    rw [this, State.rerouted_source, if_pos (.inl rfl)]
  have hcomp : z.composition = true := by
    unfold State.composition
    rw [hrs]
    simp
  have hwatch : z.watchBlank = z := if_pos (by rw [hcomp, hze, hye]; exact hh.symm)
  have hrem : (z.source w.target).remembered = (s.source w.target).remembered := by
    have : z.source w.target = (s.rerouted w.target).source w.target := by unfold State.source; rw [hzs]
    rw [this, State.rerouted_source, if_pos (.inl rfl)]
  refine ⟨z.engine.linkNext, ?_, fun m => ?_⟩
  · rw [hroute, hwatch, State.enterLocking_engine, hrem, hze, hye]
  · have : (s.route w).source m = (s.rerouted w.target).source m := by
      rw [hroute, hwatch]
      unfold State.source
      rw [State.enterLocking_sources, hzs]
    rw [this, State.rerouted_source]

/-! ## The start of a switch (R94) -/

/-- The switch that R94 starts. -/
def Switch.fresh (kind : SwitchKind) (n : InputIdx) (r : Option Requester) : Switch :=
  { kind := kind, target := n, requester := r, lockMode := none, window := none, limit := none }

/-- s in MUTING with this switch, the request to blank still to come (R92, R94). -/
def State.inMuting (s : State) (w : Switch) : State :=
  { s with engine := { s.engine with inFlight := some w, owedRelock := false, state := .muting, switchCond := true, compHeld := true } }

theorem State.inMuting_composition (s : State) (w : Switch) : (s.inMuting w).composition = true := by
  simp [State.composition, State.inMuting]

/-- With a blank request outstanding the switch waits for its answer. -/
theorem State.startSwitch_waits {s : State} {kind : SwitchKind} (n : InputIdx) (r : Option Requester) (hk : kind ≠ .apply)
    (hb : s.engine.blankReq ≠ none) : s.startSwitch kind n r = s.inMuting (.fresh kind n r) := by
  have hsome : (s.inMuting (.fresh kind n r)).engine.blankReq.isSome = true := Option.isSome_iff_ne_none.mpr hb
  have hcmp : (s.inMuting (.fresh kind n r)).compareBlank = s.inMuting (.fresh kind n r) := if_pos (.inr hsome)
  have hend : (s.inMuting (.fresh kind n r)).endMuting = s.inMuting (.fresh kind n r) :=
    if_neg fun h => by rw [Option.isNone_iff_eq_none] at h; exact hb h.2.2
  unfold State.startSwitch
  rw [if_neg hk]
  exact (congrArg State.endMuting hcmp).trans hend

/-- With the picture not blanked BLANK goes out. -/
theorem State.startSwitch_blanks {s : State} {kind : SwitchKind} (n : InputIdx) (r : Option Requester) (hk : kind ≠ .apply)
    (hp : s.engine.powered = true) (hb : s.engine.blankReq = none) (hr : s.engine.blank ≠ .blanked) :
    s.startSwitch kind n r = (s.inMuting (.fresh kind n r)).sendBlank .blank := by
  have hc := s.inMuting_composition (.fresh kind n r)
  have h0 : ¬ ((!(s.inMuting (.fresh kind n r)).engine.powered) = true ∨ (s.inMuting (.fresh kind n r)).engine.blankReq.isSome = true) := by
    simp [State.inMuting, hp, hb]
  have hcmp : (s.inMuting (.fresh kind n r)).compareBlank = (s.inMuting (.fresh kind n r)).sendBlank .blank :=
    (if_neg h0).trans (if_pos ⟨hc, hr⟩)
  have hend : ((s.inMuting (.fresh kind n r)).sendBlank .blank).endMuting = (s.inMuting (.fresh kind n r)).sendBlank .blank :=
    if_neg fun h => hr h.2.1
  unfold State.startSwitch
  rw [if_neg hk]
  exact (congrArg State.endMuting hcmp).trans hend

/-- With the picture blanked ROUTING follows at once. -/
theorem State.startSwitch_routes {s : State} {kind : SwitchKind} (n : InputIdx) (r : Option Requester) (hk : kind ≠ .apply)
    (hb : s.engine.blankReq = none) (hr : s.engine.blank = .blanked) :
    s.startSwitch kind n r = (s.inMuting (.fresh kind n r)).route (.fresh kind n r) := by
  have hc := s.inMuting_composition (.fresh kind n r)
  have hcmp : (s.inMuting (.fresh kind n r)).compareBlank = s.inMuting (.fresh kind n r) := by
    unfold State.compareBlank
    rw [hc]
    have hr' : (s.inMuting (.fresh kind n r)).engine.blank = .blanked := hr
    simp [hr']
  have hend : (s.inMuting (.fresh kind n r)).endMuting = (s.inMuting (.fresh kind n r)).route (.fresh kind n r) :=
    if_pos ⟨rfl, hr, by simp [State.inMuting, hb]⟩
  unfold State.startSwitch
  rw [if_neg hk]
  exact (congrArg State.endMuting hcmp).trans hend

/-- Without scaler power nothing is sent, and the switch stays in MUTING. -/
theorem State.startSwitch_unpowered {s : State} {kind : SwitchKind} (n : InputIdx) (r : Option Requester) (hk : kind ≠ .apply)
    (hp : s.engine.powered = false) (hr : s.engine.blank ≠ .blanked) : s.startSwitch kind n r = s.inMuting (.fresh kind n r) := by
  have hcmp : (s.inMuting (.fresh kind n r)).compareBlank = s.inMuting (.fresh kind n r) := if_pos (.inl (by simp [State.inMuting, hp]))
  have hend : (s.inMuting (.fresh kind n r)).endMuting = s.inMuting (.fresh kind n r) := if_neg fun h => hr h.2.1
  unfold State.startSwitch
  rw [if_neg hk]
  exact (congrArg State.endMuting hcmp).trans hend

/-- A switch other than an APPLY has begun: in MUTING, or routed and in LOCKING. -/
structure Begun (s t : State) (w : Switch) : Prop where
  only : EngineOnly s t
  stage : (t.engine.state = .muting ∧ t.engine.routed = s.engine.routed) ∨ (t.engine.state = .locking ∧ t.engine.routed = w.target)
  carries : t.engine.inFlight.map (fun y => (y.kind, y.target, y.requester)) = some (w.kind, w.target, w.requester)
  pending : t.engine.pendingTarget = s.engine.pendingTarget
  mute : t.engine.userMute = s.engine.userMute
  power : t.engine.powered = s.engine.powered
  owed : t.engine.owedRelock = false
  powerUp : t.engine.powerUpOwed = s.engine.powerUpOwed
  cond : t.engine.switchCond = true

theorem State.startSwitch_begun (s : State) {kind : SwitchKind} (n : InputIdx) (r : Option Requester) (hk : kind ≠ .apply) :
    Begun s (s.startSwitch kind n r) (.fresh kind n r) := by
  have honly : EngineOnly s (s.startSwitch kind n r) := .startSwitch s kind n r
  by_cases hb : s.engine.blankReq = none
  · by_cases hr : s.engine.blank = .blanked
    · rw [State.startSwitch_routes n r hk hb hr] at honly ⊢
      obtain ⟨k, he, _⟩ := State.route_routed (s := s.inMuting (.fresh kind n r)) (w := .fresh kind n r) rfl
      exact ⟨honly, .inr ⟨by rw [he], by rw [he]⟩, by rw [he]; rfl, by rw [he]; rfl, by rw [he]; rfl, by rw [he]; rfl, by rw [he]; rfl,
        by rw [he]; rfl, by rw [he]; rfl⟩
    · cases hp : s.engine.powered
      · rw [State.startSwitch_unpowered n r hk hp hr] at honly ⊢
        exact ⟨honly, .inl ⟨rfl, rfl⟩, rfl, rfl, rfl, rfl, rfl, rfl, rfl⟩
      · rw [State.startSwitch_blanks n r hk hp hb hr] at honly ⊢
        exact ⟨honly, .inl ⟨rfl, rfl⟩, rfl, rfl, rfl, rfl, rfl, rfl, rfl⟩
  · rw [State.startSwitch_waits n r hk hb] at honly ⊢
    exact ⟨honly, .inl ⟨rfl, rfl⟩, rfl, rfl, rfl, rfl, rfl, rfl, rfl⟩

/-- A begun switch leaves nothing for the end of the action. -/
theorem Begun.settled {s t : State} {w : Switch} (h : Begun s t w) (ho : s.engine.powerUpOwed = false) : t.Settled := by
  refine ⟨fun hu => ?_, h.powerUp.trans ho⟩
  rcases h.stage with ⟨hs, _⟩ | ⟨hs, _⟩ <;> exact absurd (hu.1.symm.trans hs) (by decide)

end Sys2Proof.Machine
end

