-- ==== Sys2Proof/Proofs/SwitchEnds.lean ====
section
/-! SUPPORT. What the end of a switch leaves where no elect is tried: the engine IDLE, an owed relock's switch, or the pending target's
(R27, R33, R94, R99, R100, R136). -/

namespace Sys2Proof.Machine

theorem not_unmuting_of_idle : EngineState.unmuting ≠ .idle := by decide

/-! ## A switch that is over -/

/-- The recall that the input carried ends (R136). -/
theorem State.endRecall_eq (s : State) (n : InputIdx) :
    s.endRecall n = { s with recallNow := s.recallNow.filter fun c => !Decidable.decide (c.input = n) } := by
  unfold State.endRecall
  cases h : s.recallNow with
  | none =>
    change s = { s with recallNow := none }
    rw [← h]
  | some c =>
    by_cases hn : c.input = n
    · have hf : (some c).filter (fun c => !Decidable.decide (c.input = n)) = none := by simp [Option.filter, hn]
      rw [hf]
      exact if_pos hn
    · have hf : (some c).filter (fun c => !Decidable.decide (c.input = n)) = some c := by simp [Option.filter, hn]
      rw [hf]
      refine (if_neg hn).trans ?_
      rw [← h]

/-- u with its switch w over, the engine not yet told what follows (R99, R136). -/
def State.over (u : State) (w : Switch) : State :=
  { u with recallNow := u.recallNow.filter fun c => !Decidable.decide (c.input = w.target),
           engine := { u.engine with inFlight := none, lockReq := none } }

theorem switchEnd_eq (w : Switch) (r : SwitchResult) : switchEnd w.target r.code w.requester = w.ended r.code := rfl

/-- The completion of the switch in flight, up to what follows it (R99). -/
theorem State.completeSwitch_next {u v : State} {pre : List Notice} (hv : v.Telling u pre) {w : Switch}
    (hw : u.engine.inFlight = some w) (r : SwitchResult) :
    ∃ y : State, y.Telling (u.over w) (pre ++ [w.ended r.code]) ∧ v.completeSwitch r = y.nextSwitch := by
  have hw' : v.engine.inFlight = some w := by rw [hv.read State.engine fun _ _ => rfl, hw]
  refine ⟨(((v.notify (switchEnd w.target r.code w.requester)).endRecall w.target).setEngine
    { ((v.notify (switchEnd w.target r.code w.requester)).endRecall w.target).engine with inFlight := none, lockReq := none }), ?_, ?_⟩
  · rw [State.endRecall_eq]
    obtain ⟨hr, ps, rfl⟩ := hv
    exact ⟨hr, ps, rfl⟩
  · unfold State.completeSwitch
    rw [hw']

/-! ## The unit's end with no elect (R27, R33) -/

/-- The empty floor. -/
def Floor.free : Floor := { holder := none, hold := false, elect := none, marker := false }

/-- A unit's end with no elect leaves the holder, or frees a barred one with HOLDER (R33, R39). -/
theorem State.chainEnds_alone {u v : State} {pre : List Notice} (hv : v.Telling u pre) (he : u.floor.elect = none) :
    (u.holderBarred = false → v.chainEnds.Telling { u with floor := { u.floor with marker := false } } pre)
      ∧ (u.holderBarred = true → u.floor.marker = true →
          v.chainEnds.Telling { u with floor := Floor.free } (pre ++ [Floor.free.notice])) := by
  let f (x : State) : State := x.setFloor { x.floor with marker := false }
  have hf : (f v).Telling (f u) pre := hv.map f (fun _ _ => rfl) rfl
  have hfloor : (f v).floor = { u.floor with marker := false } := hf.read State.floor fun _ _ => rfl
  have hbar : (f v).holderBarred = u.holderBarred := hf.read State.holderBarred fun _ _ => rfl
  refine ⟨fun hb => ?_, fun hb hm => ?_⟩
  · unfold State.chainEnds
    by_cases hm : v.floor.marker = true
    · have hend : (f v).unitEnd = f v := by
        unfold State.unitEnd State.handOver
        rw [hbar, hb, if_neg (by simp), hfloor, he]
        exact if_pos ⟨by rw [hfloor], by rw [hfloor]⟩
      rw [if_pos hm]
      change (f v).unitEnd.Telling _ _
      rw [hend]
      exact hf
    · rw [if_neg hm]
      have hu : u.floor.marker = false := by
        rw [← hv.read State.floor fun _ _ => rfl]
        simpa using hm
      have : { u with floor := { u.floor with marker := false } } = u := by rw [← hu]
      rw [this]
      exact hv
  · have hm' : v.floor.marker = true := by rw [hv.read State.floor fun _ _ => rfl, hm]
    obtain ⟨h, hh⟩ : ∃ h, u.floor.holder = some h := by
      unfold State.holderBarred at hb
      cases hh : u.floor.holder with
      | none => rw [hh] at hb; exact absurd hb (by simp)
      | some h => exact ⟨h, rfl⟩
    have hfree : (f v).freeFloor.floor = Floor.free := by
      unfold State.freeFloor
      rw [State.setFloor_floor, hfloor]
      exact congrArg (fun e => ({ holder := none, hold := false, elect := e, marker := false } : Floor)) he
    have hend : (f v).unitEnd = (f v).freeFloor.notify Floor.free.notice := by
      unfold State.unitEnd State.handOver
      rw [hbar, hb, if_pos rfl, hfree]
      refine (if_neg fun hsame => ?_).trans ?_
      · have := hsame.1
        rw [hfree, hfloor, hh] at this
        exact absurd this (by simp [Floor.free])
      · rw [hfree]
        rfl
    unfold State.chainEnds
    rw [if_pos hm']
    change (f v).unitEnd.Telling _ _
    rw [hend]
    have := (hf.map (·.setFloor Floor.free) (fun _ _ => rfl) rfl).notify Floor.free.notice
    have hset : (f v).freeFloor = (f v).setFloor Floor.free := by rw [← hfree]; rfl
    rw [hset]
    exact this

/-! ## The end of a switch (R99) -/

theorem State.payRelock_none {s : State} (h : s.engine.owedRelock = false) : s.payRelock = s := if_neg (by simp [h])

/-- With no switch begun within the completion the switch condition ends, and the blank control looks (R92, log 16). -/
theorem State.endSwitchCond_idle {s : State} (h : s.engine.inFlight = none) :
    s.endSwitchCond = (s.setEngine { s.engine with switchCond := false }).watched := by
  unfold State.endSwitchCond
  rw [h]
  exact State.watchBlank_eq _

/-- Where the condition does not hold and the composition is as last seen, that is nothing. -/
theorem State.endSwitchCond_same {s : State} (h : s.engine.inFlight = none) (hc : s.engine.switchCond = false)
    (hh : s.engine.compHeld = s.composition) : s.endSwitchCond = s := by
  have hs : s.setEngine { s.engine with switchCond := false } = s := by unfold State.setEngine; rw [← hc]
  rw [State.endSwitchCond_idle h, hs, State.watched_same hh]

/-- A switch begun within the completion keeps the condition. -/
theorem Begun.endSwitchCond {s t : State} {w : Switch} (h : Begun s t w) (hk : w.kind ≠ .apply) : t.endSwitchCond = t := by
  have hc := h.carries
  unfold State.endSwitchCond
  cases hf : t.engine.inFlight with
  | none => rw [hf] at hc; exact absurd hc (by simp)
  | some y =>
    rw [hf] at hc
    have hy : y.kind = w.kind := congrArg Prod.fst (Option.some.inj hc)
    exact if_neg (by rw [hy]; exact hk)

/-- A begun switch, told: all but engine, sources and tables is as before. -/
theorem Begun.closed {u v t : State} {pre : List Notice} {w : Switch} (h : Begun v t w) (hv : v.Telling u pre)
    (ho : u.engine.powerUpOwed = false) (tell : List Notice → Ports) :
    t.closed tell = { u with ports := tell pre, sources := t.sources, engine := t.engine, geo := t.geo } := by
  have ho' : v.engine.powerUpOwed = false := by rw [hv.read State.engine fun _ _ => rfl, ho]
  rw [State.closed_of_settled (h.settled ho')]
  have hraised : t.raised = pre := by
    rw [h.only.raised]
    obtain ⟨_, ps, rfl⟩ := hv
    rfl
  rw [hraised, h.only.eq]
  obtain ⟨hr, ps, rfl⟩ := hv
  rw [← hr]

/-- The end of a switch, where no elect is tried (R99). -/
theorem State.completeSwitch_completes {u v : State} {pre : List Notice} (hv : v.Telling u pre) {w : Switch}
    (hw : u.engine.inFlight = some w) (ho : u.engine.powerUpOwed = false)
    (hc : u.engine.pendingTarget = none → u.engine.owedRelock = false →
      u.engine.switchCond = false ∧ u.engine.compHeld = u.composition)
    (r : SwitchResult) (tell : List Notice → Ports) :
    Completes u ((v.completeSwitch r).closed tell) (fun l => tell (pre ++ w.ended r.code :: l)) w := by
  obtain ⟨y, hy, hnext⟩ := State.completeSwitch_next hv hw r
  have hye : y.engine = (u.over w).engine := hy.read State.engine fun _ _ => rfl
  let f (x : State) : State := x.setEngine { x.engine with state := .idle }
  have hf : (f y).Telling (f (u.over w)) (pre ++ [w.ended r.code]) := hy.map f (fun _ _ => rfl) rfl
  have idles : u.engine.pendingTarget = none → y.nextSwitch = ((f y).chainEnds).payRelock.endSwitchCond := by
    intro hp
    unfold State.nextSwitch
    rw [show y.engine.pendingTarget = none from (congrArg Engine.pendingTarget hye).trans hp]
    rfl
  have quiet : ∀ {z x : State} {l : List Notice}, z.Telling x l → x.engine = (f (u.over w)).engine → x.sources = u.sources →
      u.engine.pendingTarget = none → u.engine.owedRelock = false →
      z.payRelock.endSwitchCond.closed tell = { x with ports := tell l, engine := (u.idled w).engine } := by
    intro z x l hz hxe hxs hp hor
    obtain ⟨hsc, hch⟩ := hc hp hor
    have hze : z.engine = (f (u.over w)).engine := (hz.read State.engine fun _ _ => rfl).trans hxe
    have hzc : z.composition = u.composition := by
      rw [hz.read State.composition fun _ _ => rfl]
      unfold State.composition State.routedSource State.source
      rw [hxe, hxs]
      rfl
    have hidle : x.engine = (u.idled w).engine := by
      rw [hxe]
      change ({ u.engine with state := .idle, inFlight := none, lockReq := none } : Engine) = { u.engine with state := .idle, inFlight := none, lockReq := none, switchCond := false }
      rw [← hsc]
    have hset : x.Settled := ⟨fun hu => not_unmuting_of_idle (hu.1.symm.trans (congrArg Engine.state hxe)), by rw [hxe]; exact ho⟩
    rw [State.payRelock_none (by rw [hze]; exact hor), State.endSwitchCond_same (by rw [hze]; rfl) (by rw [hze]; exact hsc)
      (by rw [hze, hzc]; exact hch), hz.closed hset, ← hidle]
  refine ⟨fun hp he hor => ⟨fun hb => ?_, fun hb hm => ?_⟩, fun hlast hor => ?_, fun x hx => ?_⟩
  · rw [hnext, idles hp]
    have hz := (State.chainEnds_alone hf he).1 hb
    rw [quiet hz rfl rfl hp hor]
    rfl
  · rw [hnext, idles hp]
    have hz := (State.chainEnds_alone hf he).2 hb hm
    rw [quiet hz rfl rfl hp hor, List.append_assoc]
    rfl
  · obtain ⟨hp, he, hb⟩ := hlast
    have hz := (State.chainEnds_alone hf he).1 hb
    have hze : (f y).chainEnds.engine = (f (u.over w)).engine := hz.read State.engine fun _ _ => rfl
    have hpay : (f y).chainEnds.payRelock = (f y).chainEnds.startSwitch .relock u.engine.routed none := by
      unfold State.payRelock
      rw [hze, if_pos (show (f (u.over w)).engine.owedRelock = true from hor)]
      rfl
    have hbegun := (f y).chainEnds.startSwitch_begun u.engine.routed none (kind := .relock) (by decide)
    rw [hnext, idles hp, hpay, hbegun.endSwitchCond (show SwitchKind.relock ≠ .apply by decide), hbegun.closed hz ho]
    refine ⟨rfl, ?_, ?_, hbegun.carries⟩
    · rcases hbegun.stage with ⟨_, h⟩ | ⟨_, h⟩
      · rw [h, hze]
        rfl
      · exact h
    · exact hbegun.stage.imp And.left And.left
  · have hstart : y.nextSwitch = (y.setEngine { y.engine with pendingTarget := none }).startSwitch .select x.input (some x.requester) := by
      unfold State.nextSwitch
      rw [show y.engine.pendingTarget = some x from (congrArg Engine.pendingTarget hye).trans hx]
    have hz := hy.map (fun z => z.setEngine { z.engine with pendingTarget := none }) (fun _ _ => rfl) rfl
    have hbegun := (y.setEngine { y.engine with pendingTarget := none }).startSwitch_begun x.input (some x.requester)
      (kind := .select) (by decide)
    rw [hnext, hstart, hbegun.closed hz ho]
    exact ⟨rfl, hbegun.pending, hbegun.carries, hbegun.stage.imp And.left id⟩

end Sys2Proof.Machine
end

