-- ==== Sys2Proof/Proofs/UnitKeeps.lean ====
section
/-! SUPPORT. What every owner's action on a floor command keeps of the engine, so that the end of a unit may run one: UNMUTING is never
entered, no relock comes to be owed, and without a switch that blanks the picture the blank control is up to date (R92, R99, log 16). -/

namespace Sys2Proof.Machine

/-- No switch in flight holds the switch condition: none is, or an APPLY (R92). -/
def Engine.unheld (e : Engine) : Bool := e.inFlight.all fun w => Decidable.decide (w.kind = .apply)

/-- The composition without the switch condition (R92). -/
def State.compositionOff (s : State) : Bool := (s.setEngine { s.engine with switchCond := false }).composition

/-- The engine between a unit's end and what the completion does last. With `q = some b` the switch condition is b as long as no switch
holds it; b holds only over an input without a timing. -/
structure Tidy (q : Option Bool) (s : State) : Prop where
  state : s.engine.state ≠ .unmuting
  owed : ∀ b, q = some b → s.engine.owedRelock = false
  held : ∀ b, q = some b → s.engine.unheld = false → s.engine.switchCond = true
  cond : ∀ b, q = some b → s.engine.unheld = true → s.engine.switchCond = b
  looked : ∀ b, q = some b → s.engine.unheld = true → s.engine.compHeld = s.compositionOff
  dark : q = some true → s.engine.unheld = true → s.routedSource.timing = none

/-- It reads the engine and the sources alone, and not the link, the requests, the pending target or the power-up owed. -/
theorem Tidy.congr {q : Option Bool} {s t : State} (h : Tidy q s) (hs : t.sources = s.sources)
    (he : ∃ (p : Option PendingTarget) (sel : InputIdx) (b : BlankRecord) (r : Option BlankRequest) (n : Nat) (o : Bool),
      t.engine = { s.engine with pendingTarget := p, selected := sel, blank := b, blankReq := r, linkNext := n, powerUpOwed := o }) :
    Tidy q t := by
  obtain ⟨p, sel, b, r, n, o, he⟩ := he
  have hsrc : t.routedSource = s.routedSource := by
    unfold State.routedSource State.source
    rw [hs, he]
  have hcomp : t.compositionOff = s.compositionOff := by
    unfold State.compositionOff State.composition State.routedSource State.source
    simp only [State.setEngine, hs, he]
  obtain ⟨h1, h2, h3, h4, h5, h6⟩ := h
  have hun : t.engine.unheld = s.engine.unheld := by rw [he]; rfl
  constructor
  · rw [he]; exact h1
  · rw [he]; exact h2
  · rw [hun, he]; exact h3
  · rw [hun, he]; exact h4
  · rw [hun, hcomp, he]; exact h5
  · rw [hun, hsrc]; exact h6

theorem Tidy.of_eq {q : Option Bool} {s t : State} (h : Tidy q s) (hs : t.sources = s.sources) (he : t.engine = s.engine) : Tidy q t :=
  h.congr hs ⟨_, _, _, _, _, _, he⟩

theorem Tidy.linkOnly {q : Option Bool} {s t : State} (h : Tidy q s) (hl : LinkOnly s t) : Tidy q t :=
  h.congr hl.sources ⟨_, _, _, _, _, _, hl.engine⟩

/-! ## The operations -/

theorem Begun.state {s t : State} {w : Switch} (h : Begun s t w) : t.engine.state ≠ .unmuting := by
  intro hu
  rcases h.stage with ⟨hs, _⟩ | ⟨hs, _⟩ <;> exact absurd (hu.symm.trans hs) (by decide)

theorem Begun.tidy {s t : State} {w : Switch} (h : Begun s t w) (hk : w.kind ≠ .apply) (q : Option Bool) : Tidy q t := by
  have hun : t.engine.unheld = false := by
    unfold Engine.unheld
    have hc := h.carries
    cases hf : t.engine.inFlight with
    | none => rw [hf] at hc; exact absurd hc (by simp)
    | some y =>
      rw [hf] at hc
      have hy : y.kind = w.kind := congrArg Prod.fst (Option.some.inj hc)
      simp [hy, hk]
  have absurd_un : ∀ {p : Prop}, t.engine.unheld = true → p := fun hu => absurd (hu.symm.trans hun) (by decide)
  exact ⟨h.state, fun _ _ => h.owed, fun _ _ _ => h.cond, fun _ _ => absurd_un, fun _ _ => absurd_un, fun _ => absurd_un⟩

/-- Where the switch condition does not hold, the composition is that without it; where it does, over no timing, both are true. -/
theorem Tidy.composition {b : Bool} {s : State} (h : Tidy (some b) s) (hu : s.engine.unheld = true) : s.composition = s.compositionOff := by
  have hc := h.cond b rfl hu
  unfold State.compositionOff State.composition
  cases b with
  | false => rw [hc]; rfl
  | true =>
    have hd := h.dark rfl hu
    have hsrc : (s.setEngine { s.engine with switchCond := false }).routedSource = s.routedSource := rfl
    rw [hsrc, hd]
    simp

/-- Muting: the blank control has looked, so it is up to date. -/
theorem Tidy.mute {q : Option Bool} {s : State} (h : Tidy q s) (m : Bool) : Tidy q (s.mute m) := by
  let y := s.setEngine { s.engine with userMute := m }
  have hm : s.mute m = y.watched := y.watchBlank_eq
  have he := y.watched_engine
  have hun : y.watched.engine.unheld = s.engine.unheld := by rw [he]; rfl
  have hsrc : y.watched.routedSource = s.routedSource := rfl
  rw [hm]
  constructor
  · rw [he]; exact h.state
  · rw [he]; exact h.owed
  · rw [hun, he]; exact h.held
  · rw [hun, he]; exact h.cond
  · intro b hb hu
    rw [hun] at hu
    subst hb
    have hy : Decidable.decide (y.composition = y.compositionOff) = true := by
      have hc : y.engine.switchCond = b := h.cond b rfl hu
      unfold State.compositionOff State.composition
      cases b with
      | false => simp [hc, State.setEngine, State.routedSource, State.source]
      | true =>
        have hd : y.routedSource.timing = none := h.dark rfl hu
        have hd' : (y.setEngine { y.engine with switchCond := false }).routedSource = y.routedSource := rfl
        simp [hd', hd]
    have hoff : y.watched.compositionOff = y.compositionOff := rfl
    rw [hoff, he]
    exact of_decide_eq_true hy
  · rw [hun, hsrc]; exact h.dark

theorem Tidy.enterApplying {q : Option Bool} {s : State} (h : Tidy q s) (hu : s.engine.unheld = true) (w : Switch) (hw : w.kind = .apply) :
    Tidy q ((s.setEngine { s.engine with inFlight := some w, owedRelock := false }).enterApplying w) := by
  let y := (s.setEngine { s.engine with inFlight := some w, owedRelock := false }).setEngine
    { s.engine with owedRelock := false, state := .applying, lockReq := none, inFlight := some { w with window := none, limit := none } }
  have hlink : LinkOnly y (y.recompute true) := by
    unfold State.recompute State.hand
    split
    · rfl
    · split
      · rfl
      · split <;> rfl
  have hy : y.engine.unheld = true := by simp [Engine.unheld, y, State.setEngine, hw]
  refine Tidy.linkOnly (s := y) ⟨by simp [y, State.setEngine], fun _ _ => rfl, fun _ _ hu' => ?_, fun b hb _ => ?_, fun b hb _ => ?_,
    fun hb _ => ?_⟩ hlink
  · exact absurd (hy.symm.trans hu') (by decide)
  · exact h.cond b hb hu
  · exact h.looked b hb hu
  · exact h.dark hb hu

theorem Tidy.startSwitch {q : Option Bool} {s : State} (h : Tidy q s) (hu : s.engine.unheld = true) (kind : SwitchKind) (n : InputIdx)
    (r : Option Requester) : Tidy q (s.startSwitch kind n r) := by
  by_cases hk : kind = .apply
  · unfold State.startSwitch
    rw [if_pos hk]
    exact h.enterApplying hu _ hk
  · exact (s.startSwitch_begun n r hk).tidy hk q

/-- The recall in flight that a displaced pending target carried ends (R100, R136). -/
def keptRecall (r : Option Recall) (x : Option PendingTarget) : Option Recall :=
  r.filter fun c => !Decidable.decide (x.map PendingTarget.input = some c.input)

theorem keptRecall_none (r : Option Recall) : keptRecall r none = r := by
  cases r <;> rfl

theorem keptRecall_some (r : Option Recall) (x : PendingTarget) :
    keptRecall r (some x) = r.filter fun c => !Decidable.decide (c.input = x.input) := by
  unfold keptRecall
  congr 1
  funext c
  simp [eq_comm]

/-- A pending target displaced, in the words of the statements (R100, R136). -/
theorem State.displaceTarget_eq (s : State) : s.displaceTarget =
    { s with engine := { s.engine with pendingTarget := none },
             raised := s.raised ++ s.engine.pendingTarget.toList.map PendingTarget.lost,
             recallNow := keptRecall s.recallNow s.engine.pendingTarget } := by
  unfold State.displaceTarget
  cases h : s.engine.pendingTarget with
  | none =>
    rw [keptRecall_none, Option.toList_none, List.map_nil, List.append_nil]
    change s = { s with engine := { s.engine with pendingTarget := none } }
    rw [← h]
  | some x =>
    rw [keptRecall_some]
    exact State.endRecall_eq _ _

theorem State.displaceTarget_engine (s : State) : s.displaceTarget.engine = { s.engine with pendingTarget := none }
    ∧ s.displaceTarget.sources = s.sources := by
  rw [State.displaceTarget_eq]
  exact ⟨rfl, rfl⟩

theorem State.askBusy_engine (s : State) (w : Switch) (r : Requester) (n : InputIdx) :
    (∃ p, (s.askBusy w r n).1.engine = { s.engine with pendingTarget := p }) ∧ (s.askBusy w r n).1.sources = s.sources := by
  obtain ⟨he, hs⟩ := s.displaceTarget_engine
  unfold State.askBusy
  split
  · exact ⟨⟨_, he⟩, hs⟩
  · split
    · exact ⟨⟨_, rfl⟩, rfl⟩
    · exact ⟨⟨_, by simp only [State.setEngine, he]; rfl⟩, hs⟩

theorem Tidy.askBusy {q : Option Bool} {s : State} (h : Tidy q s) (w : Switch) (r : Requester) (n : InputIdx) :
    Tidy q (s.askBusy w r n).1 := by
  obtain ⟨⟨p, he⟩, hs⟩ := s.askBusy_engine w r n
  exact h.congr hs ⟨_, _, _, _, _, _, he⟩

/-- A switch renamed to another requester is held as before. -/
theorem Tidy.joinRecall {q : Option Bool} {s : State} (h : Tidy q s) {w : Switch} (hw : s.engine.inFlight = some w) (r : Requester)
    (n : InputIdx) : Tidy q (s.joinRecall w r n) := by
  unfold State.joinRecall
  split
  · have hun : (s.setInFlight (some { w with requester := some r })).engine.unheld = s.engine.unheld := by
      unfold Engine.unheld
      rw [hw]
      rfl
    obtain ⟨h1, h2, h3, h4, h5, h6⟩ := h
    exact ⟨h1, h2, by rw [hun]; exact h3, by rw [hun]; exact h4, by rw [hun]; exact h5, by rw [hun]; exact h6⟩
  · exact h

theorem unheld_of_none {e : Engine} (h : e.inFlight = none) : e.unheld = true := by
  unfold Engine.unheld
  rw [h]
  rfl

theorem Tidy.selectInput {q : Option Bool} {s : State} (h : Tidy q s) (r : Requester) (n : InputIdx) : Tidy q (s.selectInput r n).1 := by
  unfold State.selectInput
  split
  · exact h.congr rfl ⟨_, _, _, _, _, _, rfl⟩
  · split
    · exact h.askBusy _ _ _
    · rename_i hf
      have hstart := h.startSwitch (unheld_of_none hf) .select n (some r)
      split
      · exact h
      · exact hstart

theorem Tidy.selectProfile {q : Option Bool} {s : State} (h : Tidy q s) (p : ProfileIdx) : Tidy q (s.selectProfile p) := by
  unfold State.selectProfile
  split
  · exact h
  · rw [State.recompute_eq]
    have hy : Tidy q (s.setProfiles { s.profiles with active := p }) := h.of_eq rfl rfl
    exact hy.linkOnly (State.retabled_link _)

theorem State.tellPair_link (s : State) (old : Keystone) : LinkOnly s (s.tellPair old) := by
  unfold State.tellPair
  split
  · rfl
  · rw [State.recompute_eq]
    exact s.retabled_link

theorem State.queueRecord_engine (s : State) (r : RecordId) : (s.queueRecord r).engine = s.engine := by rw [State.queueRecord_rest]
theorem State.queueRecord_sources (s : State) (r : RecordId) : (s.queueRecord r).sources = s.sources := by rw [State.queueRecord_rest]

theorem Tidy.writePair {q : Option Bool} {s : State} (h : Tidy q s) (p : ProfileIdx) (k : Keystone) : Tidy q (s.writePair p k) := by
  unfold State.writePair
  dsimp only
  split
  · rename_i i _
    have hy : Tidy q (s.setSlot i (some { target := p, pair := k })) := h.of_eq rfl rfl
    exact hy.linkOnly (State.tellPair_link _ _)
  · have hy : Tidy q ((s.setStored p k).queueRecord (.profile p)) :=
      h.of_eq (State.queueRecord_sources _ _) (State.queueRecord_engine _ _)
    exact hy.linkOnly (State.tellPair_link _ _)

/-! ## The lamp -/

theorem State.checkpoint_engine (s : State) : s.checkpoint.engine = s.engine := by rw [s.checkpoint_onlySaved.1]; rfl
theorem State.checkpoint_sources (s : State) : s.checkpoint.sources = s.sources := by rw [s.checkpoint_onlySaved.1]; rfl

theorem State.testThresholds_engine (s : State) : s.testThresholds.engine = s.engine ∧ s.testThresholds.sources = s.sources := by
  rw [State.testThresholds_eq]
  split
  · exact ⟨State.queueRecord_engine _ _, State.queueRecord_sources _ _⟩
  · exact ⟨rfl, rfl⟩

/-- The attempt that a strike begins (R47). -/
def State.strikeAttempt (s : State) : Nat := if s.lamp.state = .retryPause then s.lamp.attempts + 1 else 1

/-- s once a strike has begun and is charged, its checkpoint still to follow (R47, R69, R135). -/
def State.sparked (s : State) : State :=
  { s with
    lamp := { s.lamp with state := .striking, timer := some 2, run := s.lamp.run + 1, attempts := s.strikeAttempt, startUp := false },
    engine := { s.engine with powerUpOwed := !s.scalerSupplied || s.engine.powerUpOwed },
    wear := { s.wear with record := s.wear.record.struck }, raised := s.raised ++ [lampNotice 1 s.strikeAttempt] }

theorem State.strike_eq (s : State) : s.strike = s.sparked.checkpoint.testThresholds := by
  unfold State.strike State.sparked State.strikeAttempt
  cases h : s.scalerSupplied <;> rfl

/-- A strike changes nothing of the engine but the power-up owed, and no source (R135). -/
theorem State.strike_engine (s : State) :
    s.strike.engine = { s.engine with powerUpOwed := !s.scalerSupplied || s.engine.powerUpOwed } ∧ s.strike.sources = s.sources := by
  obtain ⟨he, hs⟩ := State.testThresholds_engine s.sparked.checkpoint
  rw [State.strike_eq, he, hs, State.checkpoint_engine, State.checkpoint_sources]
  exact ⟨rfl, rfl⟩

theorem State.lampOn_engine (s : State) (r : Requester) :
    (∃ o, (s.lampOn r).1.engine = { s.engine with powerUpOwed := o }) ∧ (s.lampOn r).1.sources = s.sources := by
  unfold State.lampOn
  split
  · exact ⟨⟨_, s.strike_engine.1⟩, s.strike_engine.2⟩
  all_goals exact ⟨⟨_, rfl⟩, rfl⟩

theorem State.recallPower_engine (s : State) (r : Requester) (p : ScenePower) :
    (∃ o, (s.recallPower r p).engine = { s.engine with powerUpOwed := o }) ∧ (s.recallPower r p).sources = s.sources := by
  unfold State.recallPower
  split
  · split
    · exact s.lampOn_engine r
    · exact ⟨⟨_, rfl⟩, rfl⟩
  · split
    · exact s.lampOn_engine r
    · exact ⟨⟨_, rfl⟩, rfl⟩
  · split
    · exact s.lampOn_engine r
    · exact ⟨⟨_, rfl⟩, rfl⟩
  all_goals exact ⟨⟨_, rfl⟩, rfl⟩

theorem State.lampLevel_engine (s : State) (l : Level) : (s.lampLevel l).1.engine = s.engine ∧ (s.lampLevel l).1.sources = s.sources := by
  unfold State.lampLevel
  dsimp only
  split <;> exact ⟨rfl, rfl⟩

theorem State.recallLevel_engine (s : State) (r : Requester) (l : SceneLevel) :
    (s.recallLevel r l).1.engine = s.engine ∧ (s.recallLevel r l).1.sources = s.sources := by
  unfold State.recallLevel
  split
  · split
    · exact s.lampLevel_engine _
    · exact ⟨rfl, rfl⟩
  · exact ⟨rfl, rfl⟩

/-! ## The recall, and the floor command as a whole -/

theorem Tidy.recallInput {q : Option Bool} {s : State} (h : Tidy q s) (r : Requester) (n : InputIdx) (b : Bool) :
    Tidy q (s.recallInput r n b).1 := by
  unfold State.recallInput
  split
  · exact h.congr rfl ⟨_, _, _, _, _, _, rfl⟩
  · split
    · rename_i w hf
      obtain ⟨⟨p, he⟩, _⟩ := s.askBusy_engine w r n
      exact (h.askBusy w r n).joinRecall (by rw [he]; exact hf) r n
    · rename_i hf
      have hstart := fun kind => h.startSwitch (unheld_of_none hf) kind n (some r)
      split
      · exact hstart .select
      · split
        · exact hstart .apply
        · exact h

theorem Tidy.runRecall {q : Option Bool} {s : State} (h : Tidy q s) (r : Requester) (k : SceneIdx) : Tidy q (s.runRecall r k).1 := by
  obtain ⟨⟨o, he⟩, hs⟩ := s.recallPower_engine r s.scenes[k].power
  obtain ⟨he', hs'⟩ := (s.recallPower r s.scenes[k].power).recallLevel_engine r s.scenes[k].level
  have h1 : Tidy q ((s.recallPower r s.scenes[k].power).recallLevel r s.scenes[k].level).1 :=
    h.congr (hs'.trans hs) ⟨_, _, _, _, _, _, he'.trans he⟩
  have h2 := ((h1.mute s.scenes[k].mute).selectProfile s.scenes[k].profile).recallInput r s.scenes[k].input
  unfold State.runRecall State.takeRecall
  dsimp only
  split
  · exact (h2 _).of_eq rfl rfl
  · exact h2 _

theorem Tidy.ownerActs {q : Option Bool} {s : State} (h : Tidy q s) (r : Requester) (c : Cmd) : Tidy q (s.ownerActs r c).1 := by
  unfold State.ownerActs
  split
  · exact h.selectInput _ _
  · exact h.runRecall _ _
  · exact h.mute true
  · exact h.mute false
  · exact h.selectProfile _
  · exact h.writePair _ _
  · exact h.writePair _ _
  · exact h

theorem State.tellHolder_engine (s : State) (f : Floor) : (s.tellHolder f).engine = s.engine ∧ (s.tellHolder f).sources = s.sources := by
  unfold State.tellHolder
  split <;> exact ⟨rfl, rfl⟩

theorem State.holdDropsElect_engine (s : State) : s.holdDropsElect.engine = s.engine ∧ s.holdDropsElect.sources = s.sources := by
  unfold State.holdDropsElect State.dropElect
  (repeat' split) <;> exact ⟨rfl, rfl⟩

theorem Tidy.proceed {q : Option Bool} {s : State} (h : Tidy q s) (f : Floor) (r : Requester) (c : Cmd) : Tidy q (s.proceed f r c).1 := by
  unfold State.proceed
  split
  · have ht : Tidy q ((s.setFloor { s.floor with hold := true }).tellHolder f) :=
      h.of_eq (State.tellHolder_engine _ _).2 (State.tellHolder_engine _ _).1
    dsimp only
    split
    · exact ht
    · exact ht.of_eq (State.holdDropsElect_engine _).2 (State.holdDropsElect_engine _).1
  · have ht : Tidy q (s.tellHolder f) := h.of_eq (State.tellHolder_engine _ _).2 (State.tellHolder_engine _ _).1
    have ho := ht.ownerActs r c
    dsimp only
    unfold State.mark
    split
    · exact ho.of_eq rfl rfl
    · exact ho

theorem Tidy.handOver {q : Option Bool} {s : State} (h : Tidy q s) (f : Floor) : Tidy q (s.handOver f) := by
  unfold State.handOver
  split
  · exact h.of_eq (State.tellHolder_engine _ _).2 (State.tellHolder_engine _ _).1
  · split
    · exact h.of_eq (State.tellHolder_engine _ _).2 (State.tellHolder_engine _ _).1
    · refine Tidy.proceed ?_ _ _ _
      exact Tidy.of_eq h rfl rfl

theorem Tidy.chainEnds {q : Option Bool} {s : State} (h : Tidy q s) : Tidy q s.chainEnds := by
  unfold State.chainEnds
  split
  · unfold State.unitEnd
    split
    · refine Tidy.handOver ?_ _
      exact Tidy.of_eq h rfl rfl
    · refine Tidy.handOver ?_ _
      exact Tidy.of_eq h rfl rfl
  · exact h

/-! ## After the unit's end -/

/-- What the completion does last, where the switch condition did not hold: nothing (R92, log 16). -/
theorem Tidy.last {s : State} (h : Tidy (some false) s) : s.payRelock.endSwitchCond = s := by
  rw [State.payRelock_none (h.owed _ rfl)]
  unfold State.endSwitchCond
  have same : s.engine.unheld = true → (s.setEngine { s.engine with switchCond := false }).watchBlank = s := by
    intro hu
    have hs : s.setEngine { s.engine with switchCond := false } = s := by
      rw [← h.cond _ rfl hu]
      rfl
    rw [hs, State.watchBlank_eq, State.watched_same ((h.looked _ rfl hu).trans (h.composition hu).symm)]
  split
  · rename_i hf
    exact same (unheld_of_none hf)
  · rename_i w hf
    split
    · rename_i hk
      exact same (by simp [Engine.unheld, hf, hk])
    · rfl

/-- Where it held over an input without a timing: it ends, and the picture stays blanked as it is. -/
theorem Tidy.last_held {s : State} (h : Tidy (some true) s) : s.payRelock.endSwitchCond =
    s.setEngine { s.engine with switchCond := s.engine.inFlight.any fun w => w.kind != .apply } := by
  rw [State.payRelock_none (h.owed _ rfl)]
  unfold State.endSwitchCond
  have off : s.engine.unheld = true →
      (s.setEngine { s.engine with switchCond := false }).watchBlank = s.setEngine { s.engine with switchCond := false } := by
    intro hu
    rw [State.watchBlank_eq, State.watched_same]
    exact h.looked _ rfl hu
  split
  · rename_i hf
    rw [off (unheld_of_none hf), hf]
    rfl
  · rename_i w hf
    split
    · rename_i hk
      rw [off (by simp [Engine.unheld, hf, hk]), hf]
      simp [hk]
    · rename_i hk
      have hc := h.held _ rfl (by simp [Engine.unheld, hf, hk])
      have : (s.engine.inFlight.any fun w => w.kind != .apply) = s.engine.switchCond := by
        rw [hf, hc]
        simp [hk]
      rw [this]
      rfl

/-- With no claim about the condition only UNMUTING is at issue. -/
theorem Tidy.of_state {s : State} (h : s.engine.state ≠ .unmuting) : Tidy none s :=
  ⟨h, by simp, by simp, by simp, by simp, by simp⟩

theorem State.endSwitchCond_state (s : State) : s.endSwitchCond.engine.state = s.engine.state := by
  unfold State.endSwitchCond
  split
  · rw [State.watchBlank_eq]
    rfl
  · split
    · rw [State.watchBlank_eq]
      rfl
    · rfl

theorem State.goIdle_state (s : State) : s.goIdle.engine.state ≠ .unmuting := by
  have ht : Tidy none (s.setEngine { s.engine with state := .idle }).chainEnds := Tidy.chainEnds (.of_state (by simp))
  unfold State.goIdle
  rw [State.endSwitchCond_state]
  unfold State.payRelock
  split
  · split
    · exact (State.startSwitch_begun _ _ _ (by decide)).state
    · exact ht.state
  · exact ht.state

/-- The end of a switch never leaves the engine in UNMUTING (R99). -/
theorem State.completeSwitch_state {s : State} {w : Switch} (hw : s.engine.inFlight = some w) (r : SwitchResult) :
    (s.completeSwitch r).engine.state ≠ .unmuting := by
  unfold State.completeSwitch
  rw [hw]
  dsimp only
  unfold State.nextSwitch
  split
  · exact (State.startSwitch_begun _ _ _ (by decide)).state
  · exact State.goIdle_state _

/-- Where UNMUTING is over the action closes as the end of the switch does (R99, log 14). -/
theorem State.closed_unmuting {s : State} (h : UnmutingOver s) {w : Switch} (hw : s.engine.inFlight = some w) (tell : List Notice → Ports) :
    s.closed tell = (s.completeSwitch .switched).closed tell := by
  have h1 : s.endUnmuting = s.completeSwitch .switched := if_pos h
  have h2 : (s.completeSwitch .switched).endUnmuting = s.completeSwitch .switched :=
    if_neg fun hu => State.completeSwitch_state hw _ hu.1
  unfold State.closed State.settle
  rw [h1, h2]

end Sys2Proof.Machine
end

