-- ==== Sys2Proof/Proofs/FloorOwners.lean ====
section
/-! SUPPORT. The floor commands but the recall, in the words of the statements: mute, profile, keystone and input (R92 to R96, R99, R100,
R104, R118, R124, R125). -/

namespace Sys2Proof.Machine

/-! ## Mute (R92, R99, R104) -/

/-- User mute set to m, the blank control having looked. -/
def State.muted (s : State) (m : Bool) : State := ({ s with engine := { s.engine with userMute := m } } : State).watched

theorem State.mute_eq (s : State) (m : Bool) : s.mute m = s.muted m := State.watchBlank_eq _

theorem State.muted_composition (s : State) (m : Bool) : (s.muted m).composition =
    (m || s.engine.switchCond || !s.routedSource.present || s.routedSource.timing.isNone) := rfl

/-- Before UNMUTING is over, the composition does not hold in it (R99). -/
theorem State.Settled.composition_unmuting {s : State} (h : s.Settled) (hu : s.engine.state = .unmuting) : s.composition = false := by
  cases hc : s.composition with
  | false => rfl
  | true => exact absurd ⟨hu, .inr hc⟩ h.1

theorem State.Settled.switchCond_unmuting {s : State} (h : s.Settled) (hu : s.engine.state = .unmuting) : s.engine.switchCond = false := by
  have hc := h.composition_unmuting hu
  unfold State.composition at hc
  simp only [Bool.or_eq_false_iff] at hc
  exact hc.1.1.2

/-- Outside UNMUTING, or for a CLEAR_MUTE, nothing more happens. -/
theorem State.muted_settled {s : State} (h : s.Settled) {m : Bool} (hm : s.engine.state ≠ .unmuting ∨ m = false) : (s.muted m).Settled := by
  refine ⟨fun hu => ?_, h.2⟩
  have hstate : s.engine.state = .unmuting := hu.1
  have hm' : m = false := hm.resolve_left (not_not.mpr hstate)
  have hc := h.composition_unmuting hstate
  rcases hu.2 with hb | hb
  · exact h.1 ⟨hstate, .inl hb⟩
  · rw [State.muted_composition, hm'] at hb
    unfold State.composition at hc
    simp only [Bool.or_eq_false_iff] at hc
    simp [hc] at hb

theorem State.Telling.mute {v u : State} {pre : List Notice} (h : v.Telling u pre) (m : Bool) : (v.mute m).Telling (u.muted m) pre := by
  rw [State.mute_eq]
  exact h.map (·.muted m) (fun _ _ => rfl) rfl

/-- SET_MUTE and CLEAR_MUTE, as told. -/
theorem State.mute_muting {u v : State} {pre : List Notice} (hv : v.Telling u pre) (hs : u.Settled) (m : Bool) (tell : List Notice → Ports) :
    Muting u ((v.mute m).closed tell) (fun l => tell (pre ++ l)) m := by
  have hx := hv.mute m
  refine ⟨fun h => ?_, fun w hstate hm hw hh => ?_⟩
  · rw [hx.closed (State.muted_settled hs h)]
    dsimp only
    rw [List.append_nil]
    rfl
  · subst hm
    have hxe : (v.mute true).engine = (u.muted true).engine := hx.read State.engine fun _ _ => rfl
    have hw' : (v.mute true).engine.inFlight = some w := by rw [hxe]; exact hw
    have hover : UnmutingOver (v.mute true) := by
      refine ⟨by rw [hxe]; exact hstate, .inr ?_⟩
      rw [hx.read State.composition fun _ _ => rfl]
      rfl
    rw [State.closed_unmuting hover hw']
    exact State.completeSwitch_completes hx hw hs.2 (fun _ _ => ⟨hs.switchCond_unmuting hstate, rfl⟩) .switched tell

/-! ## Profiles (R118, R124) -/

/-- A table's hand-off reads the engine and the geometry unit alone. -/
theorem State.tabled_congr {s t : State} (he : t.engine = s.engine) (hg : t.geo = s.geo) (b : BandTable) :
    (t.tabled b).geo = (s.tabled b).geo ∧ (t.tabled b).engine = (s.tabled b).engine := by
  unfold State.tabled
  rw [he, hg]
  split
  · exact ⟨rfl, rfl⟩
  · split <;> exact ⟨rfl, rfl⟩

theorem LinkOnly.settled {s t : State} (h : LinkOnly s t) (hs : s.Settled) : t.Settled := by
  obtain ⟨hu, ho⟩ := hs
  have hc : t.composition = s.composition := by
    unfold State.composition State.routedSource State.source
    rw [h.sources, h.engine]
  exact ⟨fun hu' => hu ⟨by rw [← hu'.1, h.engine], by rw [← hc]; have := hu'.2; rwa [h.engine] at this⟩, by rw [h.engine]; exact ho⟩

theorem State.Telling.tabled {v u : State} {pre : List Notice} (h : v.Telling u pre) (b : BandTable) : (v.tabled b).Telling (u.tabled b) pre :=
  h.map (·.tabled b) (fun ps l => u.tabled_told b ps l) (by
    unfold State.tabled
    split
    · rfl
    · split <;> rfl)

/-- The active profile's table handed towards the scaler when the profile changed (R124). -/
theorem State.selectProfile_eq (s : State) (q : ProfileIdx) : s.selectProfile q =
    if s.profiles.active = q then s
    else ({ s with profiles := { s.profiles with active := q } } : State).tabled (bandTable (s.effectivePair q) s.routedAspect) := by
  unfold State.selectProfile
  split
  · rfl
  · rw [State.recompute_eq]
    rfl

theorem State.selectProfile_reprofiles {u v : State} {pre : List Notice} (hv : v.Telling u pre) (hs : u.Settled) (q : ProfileIdx)
    (tell : List Notice → Ports) : Reprofiles u ((v.selectProfile q).closed tell) (tell pre) q := by
  have hp : v.profiles = u.profiles := hv.read State.profiles fun _ _ => rfl
  refine ⟨fun h => ?_, fun h => ?_⟩
  · rw [State.selectProfile_eq, if_pos (by rw [hp]; exact h), hv.closed hs]
  · let y : State := { u with profiles := { u.profiles with active := q } }
    let b := bandTable (u.effectivePair q) u.routedAspect
    have hb : bandTable (v.effectivePair q) v.routedAspect = b := by
      rw [hv.read (·.effectivePair q) fun _ _ => rfl, hv.read State.routedAspect fun _ _ => rfl]
    have hy : ({ v with profiles := { v.profiles with active := q } } : State).Telling y pre :=
      hv.map (fun x => { x with profiles := { x.profiles with active := q } }) (fun _ _ => rfl) rfl
    have hlink : LinkOnly y (y.tabled b) := y.tabled_link b
    obtain ⟨hg, he⟩ := State.tabled_congr (s := u) (t := y) rfl rfl b
    rw [State.selectProfile_eq, if_neg (by rw [hp]; exact h), hb, (hy.tabled b).closed (hlink.settled (hs.congr rfl rfl))]
    refine ⟨?_, hg, congrArg Engine.linkNext he⟩
    change { y.tabled b with ports := tell pre } = _
    rw [show y.tabled b = _ from hlink]

/-! ## Keystone (R118, R125) -/

theorem State.overlays_of_winner {s : State} {q : ProfileIdx} {i : SlotIdx} (h : s.winner q = some i) : s.overlays i q = true := by
  unfold State.winner at h
  split at h
  · rename_i h0
    obtain rfl := Option.some.inj h
    exact h0
  · split at h
    · rename_i h1
      obtain rfl := Option.some.inj h
      exact h1
    · exact absurd h (by simp)

/-- Pair x written for profile q, its table not yet handed (R125). -/
def State.paired (s : State) (q : ProfileIdx) (x : Keystone) : State :=
  match s.winner q with
  | some i => s.setSlot i (some { target := q, pair := x })
  | none => s.setStored q x

theorem State.setSlot_slot (s : State) (i t : SlotIdx) (x : Option Trial) : (s.setSlot i x).slot t = if t = i then x else s.slot t := by
  unfold State.setSlot State.slot State.setProfiles
  by_cases h : t = i
  · subst h
    simp
  · rw [if_neg h]
    exact Vector.set_other _ _ h

/-- The written pair is its profile's effective one, and no other profile's has changed (R126). -/
theorem State.paired_effectivePair (s : State) (q p : ProfileIdx) (x : Keystone) :
    (s.paired q x).effectivePair p = if p = q then x else s.effectivePair p := by
  unfold State.paired
  cases hw : s.winner q with
  | some i =>
    have hover := State.overlays_of_winner hw
    obtain ⟨y, hy, hyq⟩ : ∃ y, s.slot i = some y ∧ y.target = q := by
      unfold State.overlays at hover
      cases hy : s.slot i with
      | none => rw [hy] at hover; exact absurd hover (by simp)
      | some y => rw [hy] at hover; exact ⟨y, rfl, by simpa using hover⟩
    dsimp only
    have hsame : ∀ t p, (s.setSlot i (some { target := q, pair := x })).overlays t p = s.overlays t p := by
      intro t p
      unfold State.overlays
      rw [State.setSlot_slot]
      by_cases ht : t = i
      · subst ht
        rw [if_pos rfl, hy]
        exact congrArg (· == p) hyq.symm
      · rw [if_neg ht]
    have hwin : (s.setSlot i (some { target := q, pair := x })).winner p = s.winner p := by
      unfold State.winner
      rw [hsame, hsame]
    unfold State.effectivePair
    rw [hwin]
    by_cases hp : p = q
    · subst hp
      rw [hw, if_pos rfl]
      dsimp only
      rw [State.setSlot_slot, if_pos rfl]
      rfl
    · rw [if_neg hp]
      cases hwp : s.winner p with
      | none => rfl
      | some t =>
        have ht : t ≠ i := by
          rintro rfl
          have hop := State.overlays_of_winner hwp
          unfold State.overlays at hop
          rw [hy] at hop
          exact hp ((by simpa using hop : y.target = p).symm.trans hyq)
        dsimp only
        rw [State.setSlot_slot, if_neg ht]
        rfl
  | none =>
    dsimp only
    have hwin : (s.setStored q x).winner p = s.winner p := rfl
    unfold State.effectivePair
    rw [hwin]
    by_cases hp : p = q
    · subst hp
      rw [hw, if_pos rfl]
      simp [State.setStored, State.setProfiles]
    · have hst : (s.setStored q x).profiles.stored[p] = s.profiles.stored[p] := Vector.set_other _ _ hp
      rw [if_neg hp, hst]
      rfl

/-- A pair written, its record queued where it is the stored one, and its table handed when the active pair has changed (R118, R125). -/
theorem State.writePair_eq (s : State) (q : ProfileIdx) (x : Keystone) : s.writePair q x =
    (let y := match s.winner q with | some _ => s.paired q x | none => (s.paired q x).queueRecord (.profile q)
     if s.profiles.active ≠ q ∨ s.effectivePair q = x then y else y.tabled (bandTable x s.routedAspect)) := by
  have hpair := s.paired_effectivePair q s.profiles.active x
  have tell : ∀ y : State, y.profiles = (s.paired q x).profiles → y.sources = s.sources → y.engine = s.engine →
      y.profiles.active = s.profiles.active → y.tellPair (s.effectivePair s.profiles.active) =
      if s.profiles.active ≠ q ∨ s.effectivePair q = x then y else y.tabled (bandTable x s.routedAspect) := by
    intro y hp hs he ha
    have hy : y.effectivePair y.profiles.active = (s.paired q x).effectivePair s.profiles.active := by
      rw [ha]
      unfold State.effectivePair State.winner State.overlays State.slot
      rw [hp]
    have hasp : y.routedAspect = s.routedAspect := by
      unfold State.routedAspect State.routedSource State.source
      rw [hs, he]
    unfold State.tellPair
    rw [State.recompute_eq]
    unfold State.retabled
    rw [hy, hpair, hasp]
    by_cases hq : s.profiles.active = q
    · rw [if_pos hq, hq]
      by_cases hx : s.effectivePair q = x
      · rw [if_pos hx.symm, if_pos (.inr hx)]
      · rw [if_neg (Ne.symm hx), if_neg (by simp [hx])]
    · rw [if_neg hq, if_pos rfl, if_pos (.inl hq)]
  unfold State.writePair
  dsimp only
  cases hw : s.winner q with
  | some i =>
    dsimp only
    have hpd : s.paired q x = s.setSlot i (some { target := q, pair := x }) := by unfold State.paired; rw [hw]
    rw [hpd] at tell ⊢
    exact tell _ rfl rfl rfl rfl
  | none =>
    dsimp only
    have hpd : s.paired q x = s.setStored q x := by unfold State.paired; rw [hw]
    rw [hpd] at tell ⊢
    have hprof : ((s.setStored q x).queueRecord (.profile q)).profiles = (s.setStored q x).profiles := by rw [State.queueRecord_rest]
    exact tell _ hprof (State.queueRecord_sources _ _) (State.queueRecord_engine _ _) (by rw [hprof]; rfl)

/-- A write to the store keeps its record through the hand-off of a table. -/
theorem LinkOnly.saving {s t : State} (h : LinkOnly s t) {r : RecordId} (hs : Saving s r) : Saving t r := by
  have hi : t.imageOf r = s.imageOf r := by
    rw [show t = _ from h]
    cases r <;> rfl
  have hst : t.store = s.store := by rw [show t = _ from h]
  unfold Saving at hs ⊢
  rw [hst, hi]
  exact hs

theorem OnlySaved.link {s t t' : State} (h : OnlySaved s t) (hl : LinkOnly t t') :
    OnlySaved { s with geo := t'.geo, engine := { s.engine with linkNext := t'.engine.linkNext } } t' := by
  obtain ⟨he, hw, hr, ho⟩ := h
  have hst : t'.store = t.store ∧ t'.saveOwed = t.saveOwed ∧ t'.resetWait = t.resetWait ∧ t'.wear = t.wear := by
    rw [show t' = _ from hl]
    exact ⟨rfl, rfl, rfl, rfl⟩
  obtain ⟨h1, h2, h3, h4⟩ := hst
  refine ⟨?_, ?_, ?_, ?_⟩
  · rw [h1, h2, h3, h4]
    have heng : s.engine = t.engine := by rw [he]
    rw [show t' = _ from hl, heng, he]
  · rw [h4]; exact hw
  · rw [h3]; exact hr
  · rw [h2, h1]; exact ho

/-- y once the write of pair x for profile q in u has been told to the geometry unit (R125). -/
def State.pairTold (u : State) (q : ProfileIdx) (x : Keystone) (y : State) : State :=
  if u.profiles.active ≠ q ∨ u.effectivePair q = x then y else y.tabled (bandTable x u.routedAspect)

theorem State.pairTold_link (u : State) (q : ProfileIdx) (x : Keystone) (y : State) : LinkOnly y (u.pairTold q x y) := by
  unfold State.pairTold
  split
  · rfl
  · exact y.tabled_link _

theorem State.pairTold_geo (u : State) (q : ProfileIdx) (x : Keystone) {y : State} (he : y.engine = u.engine) (hg : y.geo = u.geo) :
    if u.profiles.active ≠ q ∨ u.effectivePair q = x then (u.pairTold q x y).geo = u.geo ∧ (u.pairTold q x y).engine = u.engine
    else Handed u (u.pairTold q x y) (bandTable x u.routedAspect) := by
  unfold State.pairTold
  by_cases h : u.profiles.active ≠ q ∨ u.effectivePair q = x
  · simp only [if_pos h]
    exact ⟨hg, he⟩
  · obtain ⟨h1, h2⟩ := State.tabled_congr he hg (bandTable x u.routedAspect)
    simp only [if_neg h]
    exact ⟨h1, congrArg Engine.linkNext h2⟩

theorem State.Telling.pairTold {v w : State} {pre : List Notice} (h : v.Telling w pre) (u : State) (q : ProfileIdx) (x : Keystone) :
    (u.pairTold q x v).Telling (u.pairTold q x w) pre := by
  unfold State.pairTold
  split
  · exact h
  · exact h.tabled _

/-- A queued record, whatever is still to be told. -/
theorem State.queueRecord_raised (s : State) (r : RecordId) : (s.queueRecord r).raised = s.raised := by rw [State.queueRecord_rest]

/-- A keystone write, as told. -/
theorem State.writePair_rekeys {u v : State} {pre : List Notice} (hv : v.Telling u pre) (hs : u.Settled) (q : ProfileIdx) (x : Keystone)
    (ht : u.winner q = none → StoreTakes u (.profile q)) (tell : List Notice → Ports) :
    Rekeys u ((v.writePair q x).closed tell) (tell pre) q x := by
  have hact : v.profiles.active = u.profiles.active := by rw [hv.read State.profiles fun _ _ => rfl]
  have heff : v.effectivePair q = u.effectivePair q := hv.read (·.effectivePair q) fun _ _ => rfl
  have hasp : v.routedAspect = u.routedAspect := hv.read State.routedAspect fun _ _ => rfl
  have hwin : v.winner q = u.winner q := hv.read (·.winner q) fun _ _ => rfl
  have hwrite : v.writePair q x = u.pairTold q x (match u.winner q with | some _ => v.paired q x | none => (v.paired q x).queueRecord (.profile q)) := by
    rw [State.writePair_eq, hact, heff, hasp, hwin]
    rfl
  rw [hwrite]
  cases hw : u.winner q with
  | some i =>
    have hpv : v.paired q x = v.setSlot i (some { target := q, pair := x }) := by unfold State.paired; rw [hwin, hw]
    have hy : (v.paired q x).Telling (u.setSlot i (some { target := q, pair := x })) pre := by
      rw [hpv]
      exact hv.map (·.setSlot i (some { target := q, pair := x })) (fun _ _ => rfl) rfl
    have hlink := u.pairTold_link q x (u.setSlot i (some { target := q, pair := x }))
    have hgeo := u.pairTold_geo q x (y := u.setSlot i (some { target := q, pair := x })) rfl rfl
    dsimp only
    rw [(hy.pairTold u q x).closed (hlink.settled (hs.congr rfl rfl))]
    refine ⟨fun j hj => ?_, fun hn => absurd (hw.symm.trans hn) (by simp), hgeo⟩
    obtain rfl : i = j := Option.some.inj (hw.symm.trans hj)
    rw [show u.pairTold q x _ = _ from hlink]
    rfl
  | none =>
    have hpv : v.paired q x = v.setStored q x := by unfold State.paired; rw [hwin, hw]
    have hstored : (v.paired q x).Telling (u.setStored q x) pre := by
      rw [hpv]
      exact hv.map (·.setStored q x) (fun _ _ => rfl) rfl
    have hsaved := (v.paired q x).queueRecord_onlySaved (.profile q)
    have htakes : StoreTakes (v.paired q x) (.profile q) := by
      unfold StoreTakes
      rw [show (v.paired q x).store = u.store from hstored.read State.store fun _ _ => rfl]
      exact ht hw
    have hsaving : Saving ((v.paired q x).queueRecord (.profile q)) (.profile q) := State.queueRecord_saving htakes
    have hlink := u.pairTold_link q x ((v.paired q x).queueRecord (.profile q))
    have hpe : (v.paired q x).engine = u.engine := hstored.read State.engine fun _ _ => rfl
    have hps : (v.paired q x).sources = u.sources := hstored.read State.sources fun _ _ => rfl
    have hpg : (v.paired q x).geo = u.geo := hstored.read State.geo fun _ _ => rfl
    have hye : ((v.paired q x).queueRecord (.profile q)).engine = u.engine := (State.queueRecord_engine _ _).trans hpe
    have hyg : ((v.paired q x).queueRecord (.profile q)).geo = u.geo := by rw [State.queueRecord_rest]; exact hpg
    have hset := hlink.settled (hs.congr hye ((State.queueRecord_sources _ _).trans hps))
    have hraised : (u.pairTold q x ((v.paired q x).queueRecord (.profile q))).raised = pre := by
      rw [show u.pairTold q x _ = _ from hlink]
      change ((v.paired q x).queueRecord (.profile q)).raised = pre
      rw [State.queueRecord_raised]
      obtain ⟨_, ps, h⟩ := hstored
      rw [h]
    dsimp only
    rw [State.closed_of_settled hset, hraised]
    refine ⟨fun j hj => absurd (hw.symm.trans hj) (by simp), fun _ => ⟨?_, hlink.saving hsaving⟩, u.pairTold_geo q x hye hyg⟩
    have hc := (hsaved.link hlink).close (tell pre) []
    generalize v.paired q x = y at hstored hc ⊢
    obtain ⟨hr, ps, rfl⟩ := hstored
    rw [← hr] at hc ⊢
    exact hc

end Sys2Proof.Machine
end

