-- ==== Sys2Proof/Proofs/InputSelected.lean ====
section
/-! SUPPORT. SELECT_INPUT in the words of the statements (R27, R93 to R96, R100, R136). -/

namespace Sys2Proof.Machine

/-- The pending target, the selected input, a blank request and the link's numbers do not end UNMUTING (R99). -/
theorem State.Settled.requests {s t : State} (h : s.Settled) (hs : t.sources = s.sources)
    (he : ∃ (p : Option PendingTarget) (sel : InputIdx) (b : Option BlankRequest) (n : Nat) (w : Option Switch),
      t.engine = { s.engine with pendingTarget := p, selected := sel, blankReq := b, linkNext := n, inFlight := w }) : t.Settled := by
  obtain ⟨p, sel, b, n, w, he⟩ := he
  have hc : t.composition = s.composition := by
    unfold State.composition State.routedSource State.source
    rw [hs, he]
  refine ⟨fun hu => h.1 ?_, by rw [he]; exact h.2⟩
  unfold UnmutingOver at hu ⊢
  rw [hc, he] at hu
  exact hu

/-- A floor command's owner has acted for r, and the unit marker is set where it took the command so (R27). -/
def State.acted (s : State) (r : Requester) (c : Cmd) : State := (s.ownerActs r c).1.mark c (s.ownerActs r c).2.verdict

/-- A busy engine asked for an input, in the words of the statements (R93, R100, R136). -/
theorem State.askBusy_eq (s : State) (w : Switch) (r : Requester) (n : InputIdx) : (s.askBusy w r n).1 =
    { s with
      engine := { s.engine with pendingTarget := if n = w.target then none else some { input := n, requester := r } },
      raised := s.raised ++ (s.engine.displaced w.target n).toList.map PendingTarget.lost,
      recallNow := keptRecall s.recallNow (s.engine.displaced w.target n) } := by
  unfold State.askBusy Engine.displaced
  by_cases hn : n = w.target
  · rw [if_pos hn, if_pos hn, if_neg (by simp [hn])]
    exact s.displaceTarget_eq
  · rw [if_neg hn, if_neg hn]
    by_cases hp : s.engine.pendingTarget.map PendingTarget.input = some n
    · rw [if_pos hp, if_pos ⟨hn, hp⟩, keptRecall_none, Option.toList_none, List.map_nil, List.append_nil]
      rfl
    · rw [if_neg hp, if_neg (by simp [hp]), State.displaceTarget_eq]
      rfl

theorem State.askBusy_verdict (s : State) (w : Switch) (r : Requester) (n : InputIdx) :
    (s.askBusy w r n).2 = if n = w.target then .joined else .waiting := by
  unfold State.askBusy
  split
  · rfl
  · split <;> rfl

/-- A busy engine asked for an input, in the state that is told. -/
def State.joined (u : State) (w : Switch) (r : Requester) (n : InputIdx) : State :=
  { u with
    engine := { u.engine with pendingTarget := if n = w.target then none else some { input := n, requester := r } },
    recallNow := keptRecall u.recallNow (u.engine.displaced w.target n) }

theorem State.Telling.askBusy {v u : State} {pre : List Notice} (h : v.Telling u pre) (w : Switch) (r : Requester) (n : InputIdx) :
    (v.askBusy w r n).1.Telling (u.joined w r n) (pre ++ (u.engine.displaced w.target n).toList.map PendingTarget.lost) := by
  rw [State.askBusy_eq]
  obtain ⟨hr, ps, rfl⟩ := h
  exact ⟨hr, ps, rfl⟩

theorem State.selectInput_unpowered {s : State} (r : Requester) (n : InputIdx) (h : s.engine.powered = false) :
    s.selectInput r n = (s.setEngine { s.engine with selected := n }, .done) := if_pos (by simp [h])

theorem State.selectInput_busy {s : State} (r : Requester) (n : InputIdx) (h : s.engine.powered = true) {w : Switch}
    (hw : s.engine.inFlight = some w) : s.selectInput r n = s.askBusy w r n := by
  unfold State.selectInput
  rw [if_neg (by simp [h]), hw]

theorem State.selectInput_idle {s : State} (r : Requester) (n : InputIdx) (h : s.engine.powered = true) (hw : s.engine.inFlight = none) :
    s.selectInput r n = if s.standing n then (s, .done) else (s.startSwitch .select n (some r), .started) := by
  unfold State.selectInput
  rw [if_neg (by simp [h]), hw]

theorem State.acted_select (s : State) (r : Requester) (n : InputIdx) :
    s.acted r (.selectInput n) = (s.selectInput r n).1.mark (.selectInput n) (s.selectInput r n).2 := rfl

/-- SELECT_INPUT where no switch starts, as told. -/
theorem State.acted_selects {u v : State} {pre : List Notice} (hv : v.Telling u pre) (hs : u.Settled) (r : Requester) (n : InputIdx)
    (tell : List Notice → Ports) : Selects u ((v.acted r (.selectInput n)).closed tell) (fun _ l => tell (pre ++ l)) r n := by
  have he : v.engine = u.engine := hv.read State.engine fun _ _ => rfl
  refine ⟨fun hp => ?_, fun hp hw hr ht hb => ?_, fun w hp hw => ?_⟩
  · rw [State.acted_select, State.selectInput_unpowered r n (by rw [he]; exact hp)]
    have hx := hv.map (fun x => x.setEngine { x.engine with selected := n }) (fun _ _ => rfl) rfl
    exact (State.Telling.closed hx (hs.requests rfl ⟨_, _, _, _, _, rfl⟩) tell).trans (by dsimp only; rw [List.append_nil]; rfl)
  · have hstand : v.standing n = true := by
      rw [hv.read (·.standing n) fun _ _ => rfl]
      simp [State.standing, State.routedAndLocked, hr, Option.isSome_iff_ne_none, ht, hb]
    rw [State.acted_select, State.selectInput_idle r n (by rw [he]; exact hp) (by rw [he]; exact hw), if_pos hstand]
    exact (hv.closed hs tell).trans (by dsimp only; rw [List.append_nil])
  · have hmarks : marks (.selectInput n) (v.askBusy w r n).2 = true := by
      rw [State.askBusy_verdict]
      split <;> rfl
    rw [State.acted_select, State.selectInput_busy r n (by rw [he]; exact hp) (by rw [he]; exact hw)]
    unfold State.mark
    rw [if_pos hmarks]
    have hx := (hv.askBusy w r n).map (fun x => x.setFloor { x.floor with marker := true }) (fun _ _ => rfl) rfl
    exact State.Telling.closed hx (hs.requests rfl ⟨_, _, _, _, _, rfl⟩) tell

/-- SELECT_INPUT that starts a switch, as told. -/
theorem State.acted_starts {u v : State} {pre : List Notice} (hv : v.Telling u pre) (hs : u.Settled) (r : Requester) (n : InputIdx)
    (tell : List Notice → Ports) : Starts u ((v.acted r (.selectInput n)).closed tell) (fun _ l => tell (pre ++ l)) r n := by
  intro hp hw hpt hst
  have he : v.engine = u.engine := hv.read State.engine fun _ _ => rfl
  have hsrc : ∀ m, v.source m = u.source m := fun m => hv.read (·.source m) fun _ _ => rfl
  have hstand : v.standing n = false := by rw [hv.read (·.standing n) fun _ _ => rfl, hst]
  have hx : v.acted r (.selectInput n) = (v.startSwitch .select n (some r)).setFloor { v.floor with marker := true } := by
    rw [State.acted_select, State.selectInput_idle r n (by rw [he]; exact hp) (by rw [he]; exact hw), if_neg (by simp [hstand])]
    change State.setFloor _ { (v.startSwitch .select n (some r)).floor with marker := true } = _
    rw [(EngineOnly.startSwitch v .select n (some r)).floor]
  have hbegun := v.startSwitch_begun n (some r) (kind := .select) (by decide)
  have hset : ((v.startSwitch .select n (some r)).setFloor { v.floor with marker := true }).Settled :=
    (hbegun.settled (by rw [he]; exact hs.2)).congr rfl rfl
  have hclosed : (v.acted r (.selectInput n)).closed tell =
      { u with ports := tell pre, floor := { u.floor with marker := true }, sources := (v.startSwitch .select n (some r)).sources,
               engine := (v.startSwitch .select n (some r)).engine, geo := (v.startSwitch .select n (some r)).geo } := by
    have hraised : (v.startSwitch .select n (some r)).raised = pre := by
      rw [hbegun.only.raised]
      obtain ⟨_, ps, rfl⟩ := hv
      rfl
    rw [hx, State.closed_of_settled hset, State.setFloor_raised, hraised]
    rw [show v.startSwitch .select n (some r) = _ from hbegun.only]
    obtain ⟨hr, ps, rfl⟩ := hv
    rw [← hr]
    rfl
  dsimp only
  rw [hclosed, List.append_nil]
  refine ⟨fun hb => ?_, fun hb hbl => ?_, fun hb hbl => ?_⟩
  · have hy := State.startSwitch_waits (s := v) n (some r) (kind := .select) (by decide) (by rw [he]; exact hb)
    have hye : (v.startSwitch .select n (some r)).engine = (u.inMuting (.fresh .select n (some r))).engine := by
      rw [hy]
      unfold State.inMuting
      rw [he]
    have hys : (v.startSwitch .select n (some r)).sources = u.sources := by rw [hy]; exact hv.read State.sources fun _ _ => rfl
    have hyg : (v.startSwitch .select n (some r)).geo = u.geo := by rw [hy]; exact hv.read State.geo fun _ _ => rfl
    rw [hye, hys, hyg]
    rfl
  · have hy := State.startSwitch_blanks (s := v) n (some r) (kind := .select) (by decide) (by rw [he]; exact hp)
      (by rw [he]; exact hb) (by rw [he]; exact hbl)
    have hye : (v.startSwitch .select n (some r)).engine = ((u.inMuting (.fresh .select n (some r))).sendBlank .blank).engine := by
      rw [hy]
      unfold State.sendBlank State.bumpLink State.inMuting State.setEngine
      rw [he]
    have hys : (v.startSwitch .select n (some r)).sources = u.sources := by rw [hy]; exact hv.read State.sources fun _ _ => rfl
    have hyg : (v.startSwitch .select n (some r)).geo = u.geo := by rw [hy]; exact hv.read State.geo fun _ _ => rfl
    rw [hye, hys, hyg]
    rfl
  · have hy := State.startSwitch_routes (s := v) n (some r) (kind := .select) (by decide) (by rw [he]; exact hb) (by rw [he]; exact hbl)
    obtain ⟨k, hye, hysrc⟩ := State.route_routed (s := v.inMuting (.fresh .select n (some r))) (w := .fresh .select n (some r)) rfl
    rw [← hy] at hye hysrc
    have hrem : ((v.inMuting (.fresh .select n (some r))).source (Switch.fresh .select n (some r)).target).remembered =
        (u.source n).remembered := congrArg Source.remembered (hsrc n)
    rw [hrem] at hye
    refine ⟨rfl, ?_, ?_, ?_, ?_, ?_, ?_, fun m => ?_⟩
    · rw [hye]
    · rw [hye]; rfl
    · rw [hye]; rfl
    · rw [hye]
      change v.engine.blank = .blanked
      rw [he]; exact hbl
    · rw [hye]; rfl
    · rw [hye]; rfl
    · have := hysrc m
      rw [show (v.inMuting (.fresh .select n (some r))).source m = u.source m from hsrc m,
        show (v.inMuting (.fresh .select n (some r))).engine.routed = u.engine.routed from (congrArg Engine.routed he : v.engine.routed = _)] at this
      exact this

end Sys2Proof.Machine
end

