-- ==== Sys2Proof/Proofs/SceneRecalled.lean ====
section
/-! SUPPORT. RECALL_SCENE where no strike begins, in the words of the statements (R56, R92, R99, R124, R132 to R136). -/

namespace Sys2Proof.Machine

/-! ## Power and level (R133) -/

/-- The lamp after a recall's LAMP_ON where no strike begins (R54, R133). -/
def State.lampAsked (u : State) (r : Requester) (k : SceneIdx) : Lamp :=
  if u.recallLights r k = true ∧ u.lamp.state = .cooldown then { u.lamp with pendingOn := some (.requester r) } else u.lamp

theorem State.recallPower_asked {v : State} {r : Requester} {k : SceneIdx} (h : v.recallLights r k = false ∨ v.lamp.state ≠ .off) :
    v.recallPower r v.scenes[k].power = v.setLamp (v.lampAsked r k) := by
  have same : v.setLamp v.lamp = v := rfl
  unfold State.recallPower State.lampAsked State.recallLights at *
  cases hp : v.scenes[k].power with
  | keep => simp [same]
  | on =>
    rw [hp] at h
    by_cases hi : v.issuePasses r .lampOn = true
    · have hoff : v.lamp.state ≠ .off := h.resolve_left (by simp [hi])
      cases hl : v.lamp.state with
      | off => exact absurd hl hoff
      | cooldown => simp [hi, State.lampOn, hl]
      | fault => simp [hi, State.lampOn, hl, same]
      | striking | retryPause | warmup | lit => simp [hi, same]
    · cases hl : v.lamp.state <;> simp [hi, same]

/-- A level that a recall gives, in the words of the statements (R56, R133). -/
theorem State.recallLevel_given (s : State) (r : Requester) (c : Scene) :
    s.recallLevel r c.level = (s.setLamp (s.lamp.given (s.levelGiven r c).1), (s.levelGiven r c).2) := by
  have given : ∀ l : Level, s.lampLevel l = (s.setLamp (s.lamp.given (some (if worn s.wear.band then .eco else l))),
      if s.lamp.state = .warmup then .waiting else .done, (if worn s.wear.band then .eco else l) != l) := by
    intro l
    unfold State.lampLevel State.allowedLevel Lamp.given
    rw [spent_eq_worn]
    dsimp only
    split <;> rfl
  have step : ∀ (l : Level) (asked : Option Level), asked = some l →
      (if s.issuePasses r (.setLampLevel l) then ((s.lampLevel l).1, (s.lampLevel l).2.2) else (s, false)) =
        (s.setLamp (s.lamp.given ((asked.filter fun l => s.issuePasses r (.setLampLevel l)).map fun l => if worn s.wear.band then .eco else l)),
          ((asked.filter fun l => s.issuePasses r (.setLampLevel l)).map fun l => if worn s.wear.band then .eco else l) !=
            asked.filter fun l => s.issuePasses r (.setLampLevel l)) := by
    rintro l _ rfl
    by_cases hi : s.issuePasses r (.setLampLevel l) = true
    · have hf : (some l).filter (fun l => s.issuePasses r (.setLampLevel l)) = some l := by simp [Option.filter, hi]
      rw [if_pos hi, hf, given]
      rfl
    · have hf : (some l).filter (fun l => s.issuePasses r (.setLampLevel l)) = none := by simp [Option.filter, hi]
      rw [if_neg hi, hf]
      rfl
  unfold State.recallLevel State.levelGiven
  cases hc : c.level with
  | normal => exact step .normal (some .normal) rfl
  | eco => exact step .eco (some .eco) rfl
  | keep => rfl

/-- Steps 1 and 2 of a recall where no strike begins: the lamp alone has changed (R133). -/
theorem State.recall_lamp {v : State} {r : Requester} {k : SceneIdx} (h : v.recallLights r k = false ∨ v.lamp.state ≠ .off) :
    (v.recallPower r v.scenes[k].power).recallLevel r v.scenes[k].level =
      (v.setLamp (v.recalled r k).lamp, (v.levelGiven r v.scenes[k]).2) := by
  rw [State.recallPower_asked h, State.recallLevel_given]
  rfl

/-! ## Mute and profile (R134) -/

/-- u once a recall's mute has been taken and the blank control has looked, its profile active. -/
def State.recallMuted (u : State) (r : Requester) (k : SceneIdx) : State :=
  ({ u.recalled r k with engine := { (u.recalled r k).engine with userMute := u.scenes[k].mute } } : State).watched

/-- With the profile's table handed towards the scaler when the profile changed. -/
def State.recallShown (u : State) (r : Requester) (k : SceneIdx) : State :=
  if u.profiles.active = u.scenes[k].profile then u.recallMuted r k else (u.recallMuted r k).retabled

theorem State.recallShown_link (u : State) (r : Requester) (k : SceneIdx) : LinkOnly (u.recallMuted r k) (u.recallShown r k) := by
  unfold State.recallShown
  split
  · rfl
  · exact State.retabled_link _

/-- Steps 3 and 4 of a recall. -/
theorem State.recall_profile (v : State) (r : Requester) (k : SceneIdx) :
    ((v.setLamp (v.recalled r k).lamp).mute v.scenes[k].mute).selectProfile v.scenes[k].profile = v.recallShown r k := by
  rw [State.mute_eq, State.selectProfile_eq]
  unfold State.recallShown
  have ha : ((v.setLamp (v.recalled r k).lamp).muted v.scenes[k].mute).profiles.active = v.profiles.active := rfl
  rw [ha]
  split
  · rename_i h
    have : v.recalled r k = v.setLamp (v.recalled r k).lamp := by
      unfold State.recalled State.setLamp
      rw [← h]
    have hm : v.recallMuted r k = (v.recalled r k).muted v.scenes[k].mute := rfl
    rw [hm, this]
    rfl
  · rfl

theorem State.Telling.recallShown {v u : State} {pre : List Notice} (h : v.Telling u pre) (r : Requester) (k : SceneIdx) :
    (v.recallShown r k).Telling (u.recallShown r k) pre := by
  have hm : (v.recallMuted r k).Telling (u.recallMuted r k) pre := h.map (·.recallMuted r k) (fun _ _ => rfl) rfl
  have hp : v.profiles.active = u.profiles.active := by rw [h.read State.profiles fun _ _ => rfl]
  have hs : v.scenes = u.scenes := h.read State.scenes fun _ _ => rfl
  have hb : bandTable ((v.recallMuted r k).effectivePair (v.recallMuted r k).profiles.active) (v.recallMuted r k).routedAspect =
      bandTable ((u.recallMuted r k).effectivePair (u.recallMuted r k).profiles.active) (u.recallMuted r k).routedAspect := by
    rw [hm.read (fun x => x.effectivePair x.profiles.active) fun _ _ => rfl, hm.read State.routedAspect fun _ _ => rfl]
  unfold State.recallShown
  rw [hp, hs]
  split
  · exact hm
  · unfold State.retabled
    rw [hb]
    exact hm.tabled _

/-- Step 5 of a recall with its mark and its record (R27, R135, R136). -/
def State.recallTaken (s : State) (r : Requester) (k : SceneIdx) (n : InputIdx) (b : Bool) : State :=
  ((s.recallInput r n b).1.takeRecall k r n (s.recallInput r n b).2).mark (.recallScene k) (s.recallInput r n b).2

/-- A recall where no strike begins, up to its input (R132 to R136). -/
theorem State.acted_recall {v : State} {r : Requester} {k : SceneIdx} (h : v.recallLights r k = false ∨ v.lamp.state ≠ .off) :
    v.acted r (.recallScene k) =
      (v.recallShown r k).recallTaken r k v.scenes[k].input (v.profiles.active != v.scenes[k].profile) := by
  have hrun : v.runRecall r k =
      (let x := (v.recallShown r k).recallInput r v.scenes[k].input (v.profiles.active != v.scenes[k].profile)
       (x.1.takeRecall k r v.scenes[k].input x.2, { verdict := x.2, clamped := (v.levelGiven r v.scenes[k]).2 })) := by
    unfold State.runRecall
    dsimp only
    rw [State.recall_lamp h]
    dsimp only
    rw [State.recall_profile, (EngineOnly.mute _ _).profiles]
    rfl
  change State.mark (v.runRecall r k).1 _ (v.runRecall r k).2.verdict = _
  rw [hrun]
  rfl

/-! ## The input (R135, R136) -/

/-- A recall taken: the unit is marked and the recall in flight (R27, R136). -/
def State.taken (s : State) (r : Requester) (k : SceneIdx) (n : InputIdx) : State :=
  { s with floor := { s.floor with marker := true }, recallNow := some { scene := k, requester := r, input := n } }

theorem State.take_started (s : State) (r : Requester) (k : SceneIdx) (n : InputIdx) :
    (s.takeRecall k r n .started).mark (.recallScene k) .started = s.taken r k n := rfl

theorem State.take_done (s : State) (r : Requester) (k : SceneIdx) (n : InputIdx) :
    (s.takeRecall k r n .done).mark (.recallScene k) .done = s := rfl

theorem State.Telling.taken {v u : State} {pre : List Notice} (h : v.Telling u pre) (r : Requester) (k : SceneIdx) (n : InputIdx) :
    (v.taken r k n).Telling (u.taken r k n) pre := h.map (·.taken r k n) (fun _ _ => rfl) rfl

/-- What mute and profile leave of the engine: the blank control has looked, and a table may have gone out (R92, R118). -/
theorem State.recallShown_engine (u : State) (r : Requester) (k : SceneIdx) : (u.recallShown r k).engine =
    { u.engine with userMute := u.scenes[k].mute, compHeld := (u.recallShown r k).composition,
                    blankReq := (u.recallMuted r k).engine.blankReq, linkNext := (u.recallShown r k).engine.linkNext } := by
  have hl := u.recallShown_link r k
  have hc : (u.recallShown r k).composition = (u.recallMuted r k).composition := by
    unfold State.composition State.routedSource State.source
    rw [hl.sources, hl.engine]
  rw [hl.engine, hc]
  rfl

theorem State.recallShown_eq (u : State) (r : Requester) (k : SceneIdx) : u.recallShown r k =
    { u.recalled r k with geo := (u.recallShown r k).geo, engine := (u.recallShown r k).engine } := by
  have hl := u.recallShown_link r k
  refine (show u.recallShown r k = _ from hl).trans ?_
  rw [← hl.engine]
  rfl

theorem State.recallShown_standing (u : State) (r : Requester) (k : SceneIdx) (n : InputIdx) :
    (u.recallShown r k).standing n = u.standing n := by
  unfold State.standing State.routedAndLocked State.source
  rw [State.recallShown_engine, (u.recallShown_link r k).sources]
  rfl

theorem State.recallInput_unpowered {s : State} (r : Requester) (n : InputIdx) (b : Bool) (h : s.engine.powered = false) :
    s.recallInput r n b = (s.setEngine { s.engine with selected := n }, .done) := if_pos (by simp [h])

theorem State.recallInput_busy {s : State} (r : Requester) (n : InputIdx) (b : Bool) (h : s.engine.powered = true) {w : Switch}
    (hw : s.engine.inFlight = some w) : s.recallInput r n b = ((s.askBusy w r n).1.joinRecall w r n, .started) := by
  unfold State.recallInput
  rw [if_neg (by simp [h]), hw]

theorem State.recallInput_idle {s : State} (r : Requester) (n : InputIdx) (b : Bool) (h : s.engine.powered = true)
    (hw : s.engine.inFlight = none) : s.recallInput r n b =
      if !s.standing n then (s.startSwitch .select n (some r), .started)
      else if b then (s.startSwitch .apply n (some r), .started) else (s, .done) := by
  unfold State.recallInput
  rw [if_neg (by simp [h]), hw]

/-- The settled state of an idle engine. -/
theorem State.Settled.of_idle {s : State} (h : s.engine.state = .idle) (ho : s.engine.powerUpOwed = false) : s.Settled :=
  ⟨fun hu => absurd (hu.1.symm.trans h) (by decide), ho⟩

theorem State.Settled.of_applying {s : State} (h : s.engine.state = .applying) (ho : s.engine.powerUpOwed = false) : s.Settled :=
  ⟨fun hu => absurd (hu.1.symm.trans h) (by decide), ho⟩

/-- A table computed for the recalled profile (R118, R134). -/
theorem State.recallShown_handed (u : State) (r : Requester) (k : SceneIdx) (hl : (u.recallMuted r k).engine.linkNext = u.engine.linkNext) :
    if u.profiles.active = u.scenes[k].profile then (u.recallShown r k).geo = u.geo
    else Handed u (u.recallShown r k) (bandTable (u.effectivePair u.scenes[k].profile) u.routedAspect) := by
  unfold State.recallShown
  by_cases h : u.profiles.active = u.scenes[k].profile
  · rw [if_pos h, if_pos h]
    rfl
  · rw [if_neg h, if_neg h]
    unfold State.retabled State.tabled
    have hn : (u.recallMuted r k).geo = u.geo := rfl
    have hp : (u.recallMuted r k).engine.powered = u.engine.powered := rfl
    have hb : bandTable ((u.recallMuted r k).effectivePair (u.recallMuted r k).profiles.active) (u.recallMuted r k).routedAspect =
        bandTable (u.effectivePair u.scenes[k].profile) u.routedAspect := rfl
    unfold Handed State.tabled
    rw [hn, hp, hb, hl]
    split
    · exact ⟨rfl, hl⟩
    · split
      · exact ⟨rfl, rfl⟩
      · exact ⟨rfl, hl⟩

/-- Without scaler power the blank control sends nothing (R92). -/
theorem State.recallMuted_unpowered (u : State) (r : Requester) (k : SceneIdx) (h : u.engine.powered = false) :
    (u.recallMuted r k).engine.linkNext = u.engine.linkNext ∧ (u.recallMuted r k).engine.blankReq = u.engine.blankReq := by
  unfold State.recallMuted State.watched
  simp [h, State.recalled]

/-- A state that is another but for engine and tables, told, its engine named. -/
theorem State.told_engine_geo {s t : State} {e : Engine} (h : t = { s with geo := t.geo, engine := t.engine }) (he : t.engine = e) (ps : Ports) :
    { t with ports := ps } = { s with ports := ps, geo := t.geo, engine := e } := by
  subst he
  conv_lhs => rw [h]

/-- Operations of the engine alone, told. -/
theorem State.Telling.engineOnly {g u y : State} {pre : List Notice} (h : g.Telling u pre) (ho : EngineOnly g y) (hs : y.Settled)
    (tell : List Notice → Ports) :
    y.closed tell = { u with ports := tell pre, sources := y.sources, engine := y.engine, geo := y.geo } := by
  have hraised : y.raised = pre := by
    rw [ho.raised]
    obtain ⟨_, ps, rfl⟩ := h
    rfl
  rw [State.closed_of_settled hs, hraised]
  conv_lhs => rw [show y = _ from ho]
  obtain ⟨hr, ps, rfl⟩ := h
  rw [← hr]

theorem EngineOnly.taken {s t : State} (h : EngineOnly s t) (r : Requester) (k : SceneIdx) (n : InputIdx) :
    EngineOnly (s.taken r k n) (t.taken r k n) := by
  refine .of_eq (a := t.sources) (b := t.engine) (c := t.geo) ?_
  rw [show t = _ from h]
  rfl

/-- An APPLY enters APPLYING at once, its table sent or pending (R94, R98, R116). -/
theorem State.startSwitch_applies {s : State} (n : InputIdx) (r : Option Requester) (hp : s.engine.powered = true) :
    (s.startSwitch .apply n r).engine =
        { s.engine with inFlight := some (.fresh .apply n r), owedRelock := false, state := .applying, lockReq := none,
                        linkNext := (s.startSwitch .apply n r).engine.linkNext }
      ∧ (s.startSwitch .apply n r).sources = s.sources ∧ (s.startSwitch .apply n r).geo.last = s.computed
      ∧ (s.startSwitch .apply n r).geo.inTransfer ≠ none := by
  let y : State := { s with engine := { s.engine with inFlight := some (.fresh .apply n r), owedRelock := false, state := .applying, lockReq := none } }
  have hy : s.startSwitch .apply n r = (y.setGeo { s.geo with last := s.computed }).hand s.computed true := rfl
  have hpy : ¬ (!(y.setGeo { s.geo with last := s.computed }).engine.powered) = true := by simp [y, State.setGeo, hp]
  rw [hy]
  unfold State.hand
  rw [if_neg hpy, if_neg (by simp)]
  split
  · exact ⟨rfl, rfl, rfl, by simp [State.sendTable, State.bumpLink, State.setEngine, State.setGeo]⟩
  · rename_i ht
    exact ⟨rfl, rfl, rfl, by simpa [State.setGeo] using ht⟩

/-- A recall that meets a switch may take its name (R135, log 38). -/
theorem State.joinRecall_eq {s : State} {w : Switch} (hw : s.engine.inFlight = some w) (r : Requester) (n : InputIdx) :
    s.joinRecall w r n = s.setInFlight (some (w.carrying n r)) := by
  unfold State.joinRecall Switch.carrying
  split
  · rfl
  · unfold State.setInFlight State.setEngine
    rw [← hw]

theorem State.recallShown_computed (u : State) (r : Requester) (k : SceneIdx) :
    (u.recallShown r k).computed = bandTable (u.effectivePair u.scenes[k].profile) u.routedAspect := by
  have hp : (u.recallShown r k).profiles = (u.recallMuted r k).profiles := by rw [show u.recallShown r k = _ from u.recallShown_link r k]
  have hr : (u.recallShown r k).engine.routed = u.engine.routed := by rw [State.recallShown_engine]
  unfold State.computed State.effectivePair State.winner State.overlays State.slot State.routedAspect State.routedSource State.source
  rw [hp, hr, (u.recallShown_link r k).sources]
  rfl

/-- A recall that has met the switch w, in the state that is told. -/
theorem State.recallJoined_eq (u : State) (r : Requester) (k : SceneIdx) (w : Switch) :
    u.recallJoined r k w = (((u.recallShown r k).joined w r u.scenes[k].input).setInFlight
      (some (w.carrying u.scenes[k].input r))).taken r k u.scenes[k].input := by
  have hg : (if u.profiles.active = u.scenes[k].profile then u.recallMuted r k else (u.recallMuted r k).retabled) = u.recallShown r k := rfl
  have hf : (u.recallShown r k).floor = u.floor := by rw [State.recallShown_eq]; rfl
  unfold State.recallJoined State.taken
  rw [← hf]
  rfl

/-- A recall with the scaler unpowered, as told. -/
theorem State.recallTaken_unpowered {u g : State} {pre : List Notice} {r : Requester} {k : SceneIdx} (hg : g.Telling (u.recallShown r k) pre)
    (ho : u.engine.powerUpOwed = false) (hp : u.engine.powered = false) (hi : u.engine.state = .idle) (b : Bool)
    (tell : List Notice → Ports) :
    let t := (g.recallTaken r k u.scenes[k].input b).closed tell
    t = { u.recalled r k with
          ports := tell pre, geo := t.geo,
          engine := { u.engine with userMute := u.scenes[k].mute, selected := u.scenes[k].input, compHeld := t.composition } }
      ∧ (if u.profiles.active = u.scenes[k].profile then t.geo = u.geo
         else Handed u t (bandTable (u.effectivePair u.scenes[k].profile) u.routedAspect)) := by
  have hue := u.recallShown_engine r k
  have hpow : g.engine.powered = false := by rw [hg.read State.engine fun _ _ => rfl, hue]; exact hp
  obtain ⟨hlink, hreq⟩ := u.recallMuted_unpowered r k hp
  have hlink' : (u.recallShown r k).engine.linkNext = u.engine.linkNext := by
    unfold State.recallShown
    split
    · exact hlink
    · have hpm : (u.recallMuted r k).engine.powered = false := hp
      unfold State.retabled State.tabled
      rw [if_pos (.inl hpm)]
      exact hlink
  have hx := hg.map (fun x => x.setEngine { x.engine with selected := u.scenes[k].input }) (fun _ _ => rfl) rfl
  have hclosed : (g.recallTaken r k u.scenes[k].input b).closed tell =
      { (u.recallShown r k).setEngine { (u.recallShown r k).engine with selected := u.scenes[k].input } with ports := tell pre } := by
    unfold State.recallTaken
    rw [State.recallInput_unpowered _ _ _ hpow, State.take_done]
    exact State.Telling.closed hx (.of_idle (by rw [State.setEngine_engine, hue]; exact hi) (by rw [State.setEngine_engine, hue]; exact ho)) tell
  dsimp only
  rw [hclosed]
  refine ⟨?_, u.recallShown_handed r k hlink⟩
  rw [hlink', hreq] at hue
  refine State.told_engine_geo (s := u.recalled r k) (t := (u.recallShown r k).setEngine { (u.recallShown r k).engine with selected := u.scenes[k].input }) ?_ ?_ _
  · conv_lhs => rw [State.recallShown_eq]
    rfl
  · change ({ (u.recallShown r k).engine with selected := u.scenes[k].input } : Engine) =
      { u.engine with userMute := u.scenes[k].mute, selected := u.scenes[k].input, compHeld := (u.recallShown r k).composition }
    conv_lhs => rw [hue]

/-- A recall that starts the switch to its input, as told. -/
theorem State.recallTaken_starts {u g : State} {pre : List Notice} {r : Requester} {k : SceneIdx} (hg : g.Telling (u.recallShown r k) pre)
    (ho : u.engine.powerUpOwed = false) (hp : u.engine.powered = true) (hw : u.engine.inFlight = none)
    (hst : u.standing u.scenes[k].input = false) (b : Bool) (tell : List Notice → Ports) :
    let t := (g.recallTaken r k u.scenes[k].input b).closed tell
    t = { u.recalled r k with
          ports := tell pre, floor := { u.floor with marker := true },
          recallNow := some { scene := k, requester := r, input := u.scenes[k].input }, geo := t.geo, engine := t.engine, sources := t.sources }
      ∧ t.engine.userMute = u.scenes[k].mute
      ∧ t.engine.inFlight.map (fun w => (w.kind, w.target, w.requester)) = some (.select, u.scenes[k].input, some r)
      ∧ (t.engine.state = .muting ∨ (t.engine.state = .locking ∧ t.engine.routed = u.scenes[k].input)) := by
  have hue := u.recallShown_engine r k
  have hge : g.engine = (u.recallShown r k).engine := hg.read State.engine fun _ _ => rfl
  have hstand : g.standing u.scenes[k].input = false := by
    rw [hg.read (·.standing u.scenes[k].input) fun _ _ => rfl, State.recallShown_standing]
    exact hst
  have hbegun := g.startSwitch_begun u.scenes[k].input (some r) (kind := .select) (by decide)
  have hx : g.recallTaken r k u.scenes[k].input b = (g.startSwitch .select u.scenes[k].input (some r)).taken r k u.scenes[k].input := by
    unfold State.recallTaken
    rw [State.recallInput_idle _ _ _ (by rw [hge, hue]; exact hp) (by rw [hge, hue]; exact hw), hstand]
    rfl
  have hset : ((g.startSwitch .select u.scenes[k].input (some r)).taken r k u.scenes[k].input).Settled :=
    (hbegun.settled (by rw [hge, hue]; exact ho)).congr rfl rfl
  have hclosed := (hg.taken r k u.scenes[k].input).engineOnly (hbegun.only.taken r k u.scenes[k].input) hset tell
  dsimp only
  rw [hx, hclosed]
  refine ⟨?_, ?_, hbegun.carries, hbegun.stage.imp And.left id⟩
  · unfold State.taken
    rw [State.recallShown_eq]
    rfl
  · refine hbegun.mute.trans ?_
    rw [hge, hue]

/-- A recall with the picture standing and another profile, as told. -/
theorem State.recallTaken_applies {u g : State} {pre : List Notice} {r : Requester} {k : SceneIdx} (hg : g.Telling (u.recallShown r k) pre)
    (ho : u.engine.powerUpOwed = false) (hp : u.engine.powered = true) (hw : u.engine.inFlight = none)
    (hst : u.standing u.scenes[k].input = true) (tell : List Notice → Ports) :
    let t := (g.recallTaken r k u.scenes[k].input true).closed tell
    t = { u.recalled r k with
          ports := tell pre, floor := { u.floor with marker := true },
          recallNow := some { scene := k, requester := r, input := u.scenes[k].input }, geo := t.geo, engine := t.engine }
      ∧ t.engine.userMute = u.scenes[k].mute ∧ t.engine.state = .applying ∧ t.engine.routed = u.engine.routed
      ∧ t.engine.inFlight = some { kind := .apply, target := u.scenes[k].input, requester := some r, lockMode := none, window := none, limit := none }
      ∧ t.geo.last = bandTable (u.effectivePair u.scenes[k].profile) u.routedAspect ∧ t.geo.inTransfer ≠ none := by
  have hue := u.recallShown_engine r k
  have hge : g.engine = (u.recallShown r k).engine := hg.read State.engine fun _ _ => rfl
  have hpg : g.engine.powered = true := by rw [hge, hue]; exact hp
  have hstand : g.standing u.scenes[k].input = true := by
    rw [hg.read (·.standing u.scenes[k].input) fun _ _ => rfl, State.recallShown_standing]
    exact hst
  obtain ⟨he, hsrc, hlast, htrans⟩ := State.startSwitch_applies u.scenes[k].input (some r) hpg
  have hx : g.recallTaken r k u.scenes[k].input true = (g.startSwitch .apply u.scenes[k].input (some r)).taken r k u.scenes[k].input := by
    unfold State.recallTaken
    rw [State.recallInput_idle _ _ _ hpg (by rw [hge, hue]; exact hw), hstand]
    rfl
  have hset : ((g.startSwitch .apply u.scenes[k].input (some r)).taken r k u.scenes[k].input).Settled := by
    refine .of_applying (congrArg Engine.state he) ?_
    · change (g.startSwitch .apply u.scenes[k].input (some r)).engine.powerUpOwed = false
      rw [he, hge, hue]
      exact ho
  have honly := EngineOnly.startSwitch g .apply u.scenes[k].input (some r)
  have hclosed := (hg.taken r k u.scenes[k].input).engineOnly (honly.taken r k u.scenes[k].input) hset tell
  dsimp only
  rw [hx, hclosed]
  have hsrcg : g.sources = u.sources := by
    rw [hg.read State.sources fun _ _ => rfl, (u.recallShown_link r k).sources]
    rfl
  refine ⟨?_, ?_, ?_, ?_, ?_, ?_, htrans⟩
  · have : ((g.startSwitch .apply u.scenes[k].input (some r)).taken r k u.scenes[k].input).sources = u.sources := hsrc.trans hsrcg
    rw [this]
    unfold State.taken
    rw [State.recallShown_eq]
    rfl
  · change (g.startSwitch .apply u.scenes[k].input (some r)).engine.userMute = _
    rw [he, hge, hue]
  · change (g.startSwitch .apply u.scenes[k].input (some r)).engine.state = _
    rw [he]
  · change (g.startSwitch .apply u.scenes[k].input (some r)).engine.routed = _
    rw [he, hge, hue]
  · change (g.startSwitch .apply u.scenes[k].input (some r)).engine.inFlight = _
    rw [he]
    rfl
  · refine hlast.trans ?_
    rw [hg.read State.computed fun _ _ => rfl, State.recallShown_computed]

/-- A recall with the picture standing and its profile active, as told. -/
theorem State.recallTaken_stands {u g : State} {pre : List Notice} {r : Requester} {k : SceneIdx} (hg : g.Telling (u.recallShown r k) pre)
    (ho : u.engine.powerUpOwed = false) (hp : u.engine.powered = true) (hw : u.engine.inFlight = none) (hi : u.engine.state = .idle)
    (hst : u.standing u.scenes[k].input = true) (heq : u.profiles.active = u.scenes[k].profile) (tell : List Notice → Ports) :
    let t := (g.recallTaken r k u.scenes[k].input false).closed tell
    t = { u.recalled r k with
          ports := tell pre,
          engine := { u.engine with userMute := u.scenes[k].mute, compHeld := t.composition, blankReq := t.engine.blankReq,
                                    linkNext := t.engine.linkNext } } := by
  have hue := u.recallShown_engine r k
  have hge : g.engine = (u.recallShown r k).engine := hg.read State.engine fun _ _ => rfl
  have hstand : g.standing u.scenes[k].input = true := by
    rw [hg.read (·.standing u.scenes[k].input) fun _ _ => rfl, State.recallShown_standing]
    exact hst
  have hx : g.recallTaken r k u.scenes[k].input false = g := by
    unfold State.recallTaken
    rw [State.recallInput_idle _ _ _ (by rw [hge, hue]; exact hp) (by rw [hge, hue]; exact hw), hstand]
    rfl
  have hm : u.recallShown r k = u.recallMuted r k := if_pos heq
  dsimp only
  rw [hx, hg.closed (.of_idle (by rw [hue]; exact hi) (by rw [hue]; exact ho)), hm]
  rfl

/-- A recall that meets a switch in flight. -/
theorem State.Telling.recallTaken {u g : State} {pre : List Notice} {r : Requester} {k : SceneIdx} (hg : g.Telling (u.recallShown r k) pre)
    (hp : u.engine.powered = true) {w : Switch} (hw : u.engine.inFlight = some w) (b : Bool) :
    (g.recallTaken r k u.scenes[k].input b).Telling (u.recallJoined r k w)
      (pre ++ (u.engine.displaced w.target u.scenes[k].input).toList.map PendingTarget.lost) := by
  have hue := u.recallShown_engine r k
  have hge : g.engine = (u.recallShown r k).engine := hg.read State.engine fun _ _ => rfl
  have hwg : g.engine.inFlight = some w := by rw [hge, hue]; exact hw
  obtain ⟨⟨p, hae⟩, _⟩ := g.askBusy_engine w r u.scenes[k].input
  have hx : g.recallTaken r k u.scenes[k].input b =
      (((g.askBusy w r u.scenes[k].input).1).setInFlight (some (w.carrying u.scenes[k].input r))).taken r k u.scenes[k].input := by
    unfold State.recallTaken
    rw [State.recallInput_busy _ _ _ (by rw [hge, hue]; exact hp) hwg, State.joinRecall_eq (by rw [hae]; exact hwg)]
    rfl
  have hd : (u.recallShown r k).engine.displaced w.target u.scenes[k].input = u.engine.displaced w.target u.scenes[k].input := by
    unfold Engine.displaced
    rw [hue]
  have h1 := hg.askBusy w r u.scenes[k].input
  rw [hd] at h1
  have h2 := h1.map (·.setInFlight (some (w.carrying u.scenes[k].input r))) (fun _ _ => rfl) rfl
  rw [hx, State.recallJoined_eq]
  exact State.Telling.taken h2 r k _

/-- It ends no switch unless its mute does. -/
theorem State.recallJoined_settled {u : State} (hs : u.Settled) (r : Requester) (k : SceneIdx) (w : Switch)
    (hm : u.engine.state ≠ .unmuting ∨ u.scenes[k].mute = false) : (u.recallJoined r k w).Settled := by
  have h1 : (u.recallMuted r k).Settled := by
    have : (u.recalled r k).Settled := hs.congr rfl rfl
    exact State.muted_settled this hm
  have h2 := (u.recallShown_link r k).settled h1
  rw [State.recallJoined_eq]
  exact State.Settled.requests h2 rfl ⟨_, _, _, _, _, rfl⟩

theorem State.recallJoined_compHeld (u : State) (r : Requester) (k : SceneIdx) (w : Switch) :
    (u.recallJoined r k w).engine.compHeld = (u.recallJoined r k w).composition := by
  have hue := u.recallShown_engine r k
  rw [State.recallJoined_eq]
  change (u.recallShown r k).engine.compHeld = (u.recallShown r k).composition
  rw [hue]

/-- A recall where no strike begins, as told. -/
theorem State.acted_recalls {u v : State} {pre : List Notice} (hv : v.Telling u pre) (hs : u.Settled) (r : Requester) (k : SceneIdx)
    (hl : u.recallLights r k = false ∨ u.lamp.state ≠ .off) (tell : List Notice → Ports) :
    Recalls u ((v.acted r (.recallScene k)).closed tell) (fun _ l => tell (pre ++ l)) r k := by
  have hscenes : v.scenes = u.scenes := hv.read State.scenes fun _ _ => rfl
  have hact : v.profiles.active = u.profiles.active := by rw [hv.read State.profiles fun _ _ => rfl]
  have hl' : v.recallLights r k = false ∨ v.lamp.state ≠ .off := by
    rw [hv.read (·.recallLights r k) fun _ _ => rfl, hv.read State.lamp fun _ _ => rfl]
    exact hl
  have hg := hv.recallShown r k
  have hue := u.recallShown_engine r k
  have hnil : pre ++ [] = pre := List.append_nil pre
  rw [State.acted_recall hl', hscenes, hact]
  refine ⟨fun hp hw hi => ?_, fun hp hw hi hpt => ⟨fun hst => ?_, fun hst hne => ?_, fun hst heq => ?_⟩, fun w hp hw => ⟨fun hm => ?_, fun hu hm hh => ?_⟩⟩
  · dsimp only
    rw [hnil]
    exact State.recallTaken_unpowered hg hs.2 hp hi _ tell
  · dsimp only
    rw [hnil]
    exact State.recallTaken_starts hg hs.2 hp hw hst _ tell
  · dsimp only
    rw [hnil, show (u.profiles.active != u.scenes[k].profile) = true by simpa using hne]
    exact State.recallTaken_applies hg hs.2 hp hw hst tell
  · dsimp only
    rw [hnil, show (u.profiles.active != u.scenes[k].profile) = false by simpa using heq]
    exact State.recallTaken_stands hg hs.2 hp hw hi hst heq tell
  · exact (hg.recallTaken hp hw _).closed (State.recallJoined_settled hs r k w hm) tell
  · have hx := hg.recallTaken hp hw (u.profiles.active != u.scenes[k].profile)
    have hje : (u.recallJoined r k w).engine.state = .unmuting := by
      rw [State.recallJoined_eq]
      change (u.recallShown r k).engine.state = .unmuting
      rw [hue]
      exact hu
    have hjm : (u.recallJoined r k w).engine.userMute = true := by
      rw [State.recallJoined_eq]
      change (u.recallShown r k).engine.userMute = true
      rw [hue]
      exact hm
    have hjs : (u.recallJoined r k w).engine.switchCond = false := by
      rw [State.recallJoined_eq]
      change (u.recallShown r k).engine.switchCond = false
      rw [hue]
      exact hs.switchCond_unmuting hu
    have hjo : (u.recallJoined r k w).engine.powerUpOwed = false := by
      rw [State.recallJoined_eq]
      change (u.recallShown r k).engine.powerUpOwed = false
      rw [hue]
      exact hs.2
    have hjw : (u.recallJoined r k w).engine.inFlight = some (w.carrying u.scenes[k].input r) := rfl
    have hxe := hx.read State.engine fun _ _ => rfl
    have hover : UnmutingOver ((v.recallShown r k).recallTaken r k u.scenes[k].input (u.profiles.active != u.scenes[k].profile)) := by
      refine ⟨by rw [hxe]; exact hje, .inr ?_⟩
      rw [hx.read State.composition fun _ _ => rfl]
      unfold State.composition
      rw [hjm]
      rfl
    rw [State.closed_unmuting hover (by rw [hxe]; exact hjw)]
    have hc := State.completeSwitch_completes hx hjw hjo (fun _ _ => ⟨hjs, State.recallJoined_compHeld u r k w⟩) .switched tell
    simp only [List.append_assoc] at hc
    exact hc

end Sys2Proof.Machine
end

