-- ==== Sys2Proof/Proofs/LampStruck.lean ====
section
/-! SUPPORT. A strike with what follows it: the charge, its checkpoint, the wear state's change, the scaler's power-up, and a recall in the
same action (R47, R69, R71 to R76, R95, R103, R133 to R135). -/

namespace Sys2Proof.Machine

/-! ## The strike -/

/-- What a test of the thresholds leaves of the wear slot and the device (R77, R168). -/
theorem State.testThresholds_imaged {s : State} {r : WearRecord} (hb : s.store.Busy) (h : Imaged s r) : Imaged s.testThresholds r := by
  have hsame : ∀ x : State, x.store = s.store → Imaged x.saveLockouts r := by
    intro x hx
    have hxi : Imaged x r := by unfold Imaged; rw [hx]; exact h
    unfold State.saveLockouts
    rw [State.queueRecord_eq]
    split
    · exact hxi
    · split
      · have hk : (x.appended .lockout).kick = x.appended .lockout := State.kick_busy (by
          change x.store.inFlight.isSome ∨ x.store.fault = true
          rw [hx]
          exact hb)
        rw [hk]
        exact hxi
      · exact hxi
  rw [State.testThresholds_eq]
  split
  · exact hsame _ rfl
  · exact h

/-- While the lamp is not LIT no level is forced (R73). -/
theorem State.ecoForced_dark {s : State} (h : s.lamp.state ≠ .lit) : s.ecoForced = false := by simp [State.ecoForced, h]

theorem State.rebanded_lamp {s : State} (h : s.lamp.state ≠ .lit) : s.rebanded.lamp = s.lamp := by
  unfold State.rebanded
  rw [State.ecoForced_dark h]
  rfl

/-- A strike from OFF in u, as far as it has come in S: all but the store is that of the struck lamp, its wear state following (R47, R69,
R71 to R77, R135). -/
structure Struck (u S : State) : Prop where
  saved : OnlySaved { (u.struck 1).rebanded with ports := S.ports, engine := S.engine, raised := S.raised } S
  locks : (u.struck 1).newlyExpired = true → LockoutsSaving S
  imaged : Imaged S (u.struck 1).wear.record
  engine : S.engine = { u.engine with powerUpOwed := true }

theorem Struck.lamp {u S : State} (h : Struck u S) : S.lamp = (u.struck 1).lamp := by
  rw [h.saved.1]
  exact State.rebanded_lamp (show LampState.striking ≠ .lit by decide)

theorem Struck.sources {u S : State} (h : Struck u S) : S.sources = u.sources := by rw [h.saved.1]; rfl

/-- A strike from OFF. -/
theorem State.strike_struck {u v : State} {pre : List Notice} (hv : v.Telling u pre) (hl : u.lamp.state = .off) :
    Struck u v.strike ∧ v.strike.raised = pre ++ lampNotice 1 1 :: (u.struck 1).bandNotices := by
  have hsup : v.scalerSupplied = false := by
    rw [hv.read State.scalerSupplied fun _ _ => rfl]
    unfold State.scalerSupplied
    rw [hl]
  have hatt : v.strikeAttempt = 1 := by
    rw [hv.read State.strikeAttempt fun _ _ => rfl]
    unfold State.strikeAttempt
    rw [hl]
    rfl
  let A : State := v.sparked.setWear { v.sparked.wear with sinceCheckpoint := 0 }
  have hA : A = { u.struck 1 with ports := v.ports, engine := { u.engine with powerUpOwed := true }, raised := pre ++ [lampNotice 1 1] } := by
    change (v.sparked.setWear { v.sparked.wear with sinceCheckpoint := 0 }) = _
    unfold State.sparked
    rw [hsup, hatt]
    obtain ⟨hr, ps, rfl⟩ := hv
    rfl
  have hcheck : OnlySaved A v.sparked.checkpoint := v.sparked.checkpoint_onlySaved
  have hbusy := v.sparked.checkpoint_busy_after
  obtain ⟨hre, hlock⟩ := hcheck.testThresholds (.inl hbusy)
  rw [← State.strike_eq] at hre hlock
  have hraised : v.strike.raised = pre ++ lampNotice 1 1 :: (u.struck 1).bandNotices := by
    rw [hre.1]
    change A.raised ++ A.bandNotices = _
    rw [hA]
    change (pre ++ [lampNotice 1 1]) ++ (u.struck 1).bandNotices = _
    rw [List.append_assoc]
    rfl
  have hports : v.strike.ports = v.ports := by
    rw [hre.1]
    change A.ports = _
    rw [hA]
  have hengine : v.strike.engine = { u.engine with powerUpOwed := true } := by
    rw [hre.1]
    change A.engine = _
    rw [hA]
  refine ⟨⟨?_, fun hn => hlock (by rw [hA]; exact hn), ?_, hengine⟩, hraised⟩
  · have : A.rebandedRaised = { (u.struck 1).rebanded with ports := v.strike.ports, engine := v.strike.engine, raised := v.strike.raised } := by
      rw [hraised, hports, hengine]
      unfold State.rebandedRaised
      rw [hA]
      change ({ State.rebanded _ with raised := (pre ++ [lampNotice 1 1]) ++ (u.struck 1).bandNotices } : State) = _
      rw [List.append_assoc]
      rfl
    rw [this] at hre
    exact hre
  · have hrec : v.sparked.wear.record = (u.struck 1).wear.record := by
      change v.wear.record.struck = u.wear.record.struck
      rw [hv.read State.wear fun _ _ => rfl]
    rw [State.strike_eq]
    have := v.sparked.checkpoint_imaged
    rw [hrec] at this
    exact State.testThresholds_imaged hbusy this

/-! ## The power-up (R95, R103, R135) -/

/-- A power-up owed at the end of the action: the scaler powered, and the POWER_UP switch routed and in LOCKING. -/
theorem State.powerUp_powered {s : State} (hb : s.engine.blankReq = none) : EngineOnly s s.powerUp ∧ PoweredUp s s.powerUp s.engine.selected
    ∧ s.powerUp.engine.userMute = s.engine.userMute := by
  let y := s.setEngine { s.engine with powered := true, blank := .blanked, powerUpOwed := false }
  have hp : s.powerUp = y.startSwitch .powerUp s.engine.selected none := rfl
  have hstart := State.startSwitch_routes (s := y) s.engine.selected none (kind := .powerUp) (by decide) hb rfl
  obtain ⟨k, he, hsrc⟩ := State.route_routed (s := y.inMuting (.fresh .powerUp s.engine.selected none))
    (w := .fresh .powerUp s.engine.selected none) rfl
  rw [← hstart, ← hp] at he hsrc
  refine ⟨.powerUp s, ⟨?_, ?_, ?_, ?_, ?_, ?_, hsrc⟩, ?_⟩
  · exact (congrArg Engine.powered he).trans rfl
  · exact (congrArg Engine.blank he).trans rfl
  · exact (congrArg Engine.state he).trans rfl
  · exact (congrArg Engine.selected he).trans rfl
  · exact (congrArg Engine.routed he).trans rfl
  · exact (congrArg (fun e : Engine => e.inFlight.map fun w => (w.kind, w.target, w.requester)) he).trans rfl
  · exact (congrArg Engine.userMute he).trans rfl

/-- The end of an action that owes a power-up, the engine IDLE. -/
theorem State.closed_powerUp {s : State} (hi : s.engine.state ≠ .unmuting) (ho : s.engine.powerUpOwed = true) (tell : List Notice → Ports) :
    s.closed tell = { s.powerUp with ports := tell s.raised, raised := [] } := by
  have h1 : s.endUnmuting = s := if_neg fun h => hi h.1
  have h2 : s.takePowerUp = s.powerUp := if_pos ho
  unfold State.closed State.settle
  rw [h1, h2, (EngineOnly.powerUp s).raised]

/-! ## What is told of a strike -/

/-- What the store's operations leave alone may be changed on both sides. -/
theorem OnlySaved.also {s t : State} (h : OnlySaved s t) (a : Lamp) (p : Profiles) (ps : Ports) (l : List Notice) (x : Vector Source 6)
    (e : Engine) (g : Geometry) :
    OnlySaved { s with lamp := a, profiles := p, ports := ps, raised := l, sources := x, engine := e, geo := g }
      { t with lamp := a, profiles := p, ports := ps, raised := l, sources := x, engine := e, geo := g } := by
  obtain ⟨he, hw, hr, ho⟩ := h
  refine ⟨?_, hw, hr, ho⟩
  rw [he]

/-- Outside LIT the wear state's change leaves the lamp. -/
theorem State.rebanded_dark {s : State} (h : s.lamp.state ≠ .lit) :
    s.rebanded = { s with wear := s.rebanded.wear, lockouts := s.rebanded.lockouts } := by
  have hl := State.rebanded_lamp h
  change { s with wear := s.rebanded.wear, lamp := s.rebanded.lamp, lockouts := s.rebanded.lockouts } = _
  rw [hl]

theorem Lamp.given_state (l : Lamp) (x : Option Level) : (l.given x).state = l.state := by
  unfold Lamp.given
  split
  · rfl
  · split <;> rfl

/-- The base from which a strike and what follows it are told. -/
theorem Struck.told {u S : State} (h : Struck u S) (hr : u.raised = []) (a : Lamp) (ha : a.state = .striking) (p : Profiles) (ps : Ports)
    (x : Vector Source 6) (e : Engine) (g : Geometry) :
    Rebanded { u.struck 1 with lamp := a, profiles := p, ports := ps, sources := x, engine := e, geo := g }
        { S with lamp := a, profiles := p, ports := ps, raised := [], sources := x, engine := e, geo := g }
      ∧ Imaged { S with lamp := a, profiles := p, ports := ps, raised := [], sources := x, engine := e, geo := g }
          (u.struck 1).wear.record := by
  have hdark : ({ u.struck 1 with lamp := a, profiles := p, ports := ps, sources := x, engine := e, geo := g } : State).rebanded =
      { (u.struck 1).rebanded with lamp := a, profiles := p, ports := ps, raised := [], sources := x, engine := e, geo := g } := by
    rw [State.rebanded_dark (s := { u.struck 1 with lamp := a, profiles := p, ports := ps, sources := x, engine := e, geo := g })
      (by rw [show ({ u.struck 1 with lamp := a, profiles := p, ports := ps, sources := x, engine := e, geo := g } : State).lamp.state =
        .striking from ha]; decide), ← hr]
    rfl
  refine ⟨⟨?_, fun hn => h.locks hn⟩, h.imaged⟩
  rw [hdark]
  exact h.saved.also a p ps [] x e g

/-- Nothing follows the strike but the power-up. -/
theorem Struck.lit {u S : State} (h : Struck u S) (hr : u.raised = []) (hs : EngineSound u) (hp : u.engine.powered = false)
    (hb : u.engine.blankReq = none) (tell : List Notice → Ports) :
    let t := S.closed tell
    Rebanded { u.struck 1 with ports := tell S.raised, sources := t.sources, engine := t.engine, geo := t.geo } t
      ∧ Imaged t (u.struck 1).wear.record ∧ PoweredUp u t u.engine.selected ∧ t.engine.userMute = u.engine.userMute := by
  obtain ⟨hidle, hnone, _, _⟩ := hs
  have hi : u.engine.state = .idle := hidle.mpr (hnone hp)
  have hse : S.engine.selected = u.engine.selected ∧ S.engine.routed = u.engine.routed := by rw [h.engine]; exact ⟨rfl, rfl⟩
  have hsrc : ∀ m, S.source m = u.source m := fun m => by unfold State.source; rw [h.sources]
  obtain ⟨honly, hpow, hmute⟩ := State.powerUp_powered (s := S) (by rw [h.engine]; exact hb)
  have hclosed := State.closed_powerUp (s := S) (by rw [h.engine]; change u.engine.state ≠ .unmuting; rw [hi]; decide)
    (by rw [h.engine]) tell
  have ht : S.closed tell =
      { S with
        lamp := (u.struck 1).lamp, profiles := S.profiles, ports := tell S.raised, raised := [], sources := S.powerUp.sources,
        engine := S.powerUp.engine, geo := S.powerUp.geo } := by
    rw [hclosed, ← h.lamp]
    conv_lhs => rw [show S.powerUp = _ from honly]
  obtain ⟨hre, him⟩ := h.told hr (u.struck 1).lamp rfl S.profiles (tell S.raised) S.powerUp.sources S.powerUp.engine S.powerUp.geo
  have hprof : S.profiles = u.profiles := by rw [h.saved.1]; rfl
  dsimp only
  rw [ht]
  rw [hprof] at hre him ⊢
  refine ⟨hre, him, ?_, hmute.trans (by rw [h.engine])⟩
  obtain ⟨h1, h2, h3, h4, h5, h6, h7⟩ := hpow
  rw [hse.1] at h4 h5 h6
  refine ⟨h1, h2, h3, h4, h5, h6, fun m => ?_⟩
  have := h7 m
  rw [hse.1, hse.2, hsrc] at this
  exact this

/-! ## A recall in the action of the strike (R133 to R135) -/

theorem Struck.levelGiven {u S : State} (h : Struck u S) (r : Requester) (c : Scene) :
    S.levelGiven r c = (u.struck 1).rebanded.levelGiven r c := by
  rw [h.saved.1]
  rfl

/-- The recall that follows the strike, up to the power-up: its level, its profile and its mute are taken, its input selected. -/
theorem Struck.acted_recall {u S : State} (h : Struck u S) (hp : u.engine.powered = false) (r : Requester) (k : SceneIdx) :
    ∃ g b n, S.acted r (.recallScene k) =
      { S with
        lamp := (u.struck 1).lamp.given ((u.struck 1).rebanded.levelGiven r u.scenes[k]).1,
        profiles := { u.profiles with active := u.scenes[k].profile }, geo := g,
        engine := { u.engine with powerUpOwed := true, userMute := u.scenes[k].mute, compHeld := b, linkNext := n,
                                  selected := u.scenes[k].input } } := by
  have hl := h.lamp
  have hscenes : S.scenes = u.scenes := by rw [h.saved.1]; rfl
  have hprof : S.profiles = u.profiles := by rw [h.saved.1]; rfl
  have hps : S.engine.powered = false := by rw [h.engine]; exact hp
  have hne : S.lamp.state ≠ .off := by rw [hl]; change LampState.striking ≠ .off; decide
  have hue := S.recallShown_engine r k
  have hreq := (S.recallMuted_unpowered r k hps).2
  have hlamp : (S.recalled r k).lamp = (u.struck 1).lamp.given ((u.struck 1).rebanded.levelGiven r u.scenes[k]).1 := by
    have hcool : ¬ (S.recallLights r k = true ∧ S.lamp.state = .cooldown) := by
      rw [hl]
      exact fun hc => absurd (show LampState.striking = .cooldown from hc.2) (by decide)
    change Lamp.given (if S.recallLights r k = true ∧ S.lamp.state = .cooldown then _ else S.lamp) _ = _
    rw [if_neg hcool, hl, hscenes, h.levelGiven]
  refine ⟨(S.recallShown r k).geo, (S.recallShown r k).composition, (S.recallShown r k).engine.linkNext, ?_⟩
  rw [State.acted_recall (.inr hne)]
  unfold State.recallTaken
  rw [State.recallInput_unpowered _ _ _ (by rw [hue]; exact hps), State.take_done]
  have hR := S.recallShown_eq r k
  generalize S.recallShown r k = R at hue hR ⊢
  have he : ({ R.engine with selected := S.scenes[k].input } : Engine) =
      { u.engine with powerUpOwed := true, userMute := u.scenes[k].mute, compHeld := R.composition, linkNext := R.engine.linkNext,
                      selected := u.scenes[k].input } := by
    conv_lhs => rw [hue, hreq, h.engine, hscenes]
  calc R.setEngine { R.engine with selected := S.scenes[k].input }
      = { S.recalled r k with geo := R.geo, engine := { R.engine with selected := S.scenes[k].input } } := by
        conv_lhs => rw [hR]
        rfl
    _ = _ := by
        rw [he]
        change ({ S with lamp := (S.recalled r k).lamp, profiles := { S.profiles with active := S.scenes[k].profile }, geo := _, engine := _ } : State) = _
        rw [hlamp, hprof, hscenes]

theorem Struck.relit {u S : State} (h : Struck u S) (hr : u.raised = []) (hs : EngineSound u) (hp : u.engine.powered = false)
    (hb : u.engine.blankReq = none) (r : Requester) (k : SceneIdx) (tell : List Notice → Ports) :
    Relights u ((S.acted r (.recallScene k)).closed tell) (tell S.raised) r k := by
  obtain ⟨hidle, hnone, _, _⟩ := hs
  have hi : u.engine.state = .idle := hidle.mpr (hnone hp)
  obtain ⟨g, b, n, hZ⟩ := h.acted_recall hp r k
  generalize S.acted r (.recallScene k) = Z at hZ ⊢
  have hZe : Z.engine = { u.engine with powerUpOwed := true, userMute := u.scenes[k].mute, compHeld := b, linkNext := n, selected := u.scenes[k].input } := by
    rw [hZ]
  have hZs : ∀ m, Z.source m = u.source m := by
    intro m
    rw [hZ]
    unfold State.source
    rw [h.sources]
  have hZr : Z.raised = S.raised := by rw [hZ]
  obtain ⟨honly, hpow, hmute⟩ := State.powerUp_powered (s := Z) (by rw [hZe]; exact hb)
  have hclosed := State.closed_powerUp (s := Z) (by rw [hZe]; change u.engine.state ≠ .unmuting; rw [hi]; decide) (by rw [hZe]) tell
  have ht : Z.closed tell =
      { S with
        lamp := (u.struck 1).lamp.given ((u.struck 1).rebanded.levelGiven r u.scenes[k]).1,
        profiles := { u.profiles with active := u.scenes[k].profile }, ports := tell S.raised, raised := [],
        sources := Z.powerUp.sources, engine := Z.powerUp.engine, geo := Z.powerUp.geo } := by
    rw [hclosed, hZr]
    generalize Z.powerUp = P at honly
    conv_lhs => rw [show P = _ from honly, hZ]
  obtain ⟨hre, him⟩ := h.told hr ((u.struck 1).lamp.given ((u.struck 1).rebanded.levelGiven r u.scenes[k]).1)
    (Lamp.given_state _ _) { u.profiles with active := u.scenes[k].profile } (tell S.raised) Z.powerUp.sources Z.powerUp.engine Z.powerUp.geo
  rw [ht]
  refine ⟨hre, him, ?_, hmute.trans (by rw [hZe])⟩
  obtain ⟨h1, h2, h3, h4, h5, h6, h7⟩ := hpow
  have hsel : Z.engine.selected = u.scenes[k].input := by rw [hZe]
  have hrt : Z.engine.routed = u.engine.routed := by rw [hZe]
  rw [hsel] at h4 h5 h6
  refine ⟨h1, h2, h3, h4, h5, h6, fun m => ?_⟩
  have := h7 m
  rw [hsel, hrt, hZs] at this
  exact this

/-- A recall whose LAMP_ON strikes is the recall in the struck lamp's state (R133). -/
theorem State.acted_strikes {v : State} {r : Requester} {k : SceneIdx} (hon : v.recallLights r k = true) (hl : v.lamp.state = .off)
    (hs : v.strike.lamp.state = .striking) (hc : v.strike.scenes = v.scenes) :
    v.acted r (.recallScene k) = v.strike.acted r (.recallScene k) := by
  unfold State.recallLights at hon
  obtain ⟨hpow, hpass⟩ := Bool.and_eq_true_iff.mp hon
  have hpow' : v.scenes[k].power = .on := by simpa using hpow
  have h1 : v.recallPower r v.scenes[k].power = v.strike := by
    unfold State.recallPower State.lampOn
    rw [hpow', hl]
    exact if_pos hpass
  have h2 : v.strike.recallPower r v.scenes[k].power = v.strike := by
    unfold State.recallPower
    rw [hpow', hs]
  have hrun : v.runRecall r k = v.strike.runRecall r k := by
    unfold State.runRecall
    dsimp only
    rw [hc, h1, h2]
  change State.mark (v.runRecall r k).1 _ (v.runRecall r k).2.verdict = State.mark (v.strike.runRecall r k).1 _ (v.strike.runRecall r k).2.verdict
  rw [hrun]

/-- A recall whose LAMP_ON strikes, as told. -/
theorem State.acted_relights {u v : State} {pre : List Notice} (hv : v.Telling u pre) (r : Requester) (k : SceneIdx)
    (hon : u.recallLights r k = true) (hl : u.lamp.state = .off) (hs : EngineSound u) (hp : u.engine.powered = false)
    (hb : u.engine.blankReq = none) (tell : List Notice → Ports) :
    Relights u ((v.acted r (.recallScene k)).closed tell) (tell (pre ++ lampNotice 1 1 :: (u.struck 1).bandNotices)) r k := by
  obtain ⟨hst, hraised⟩ := State.strike_struck hv hl
  have hlv : v.lamp.state = .off := by rw [hv.read State.lamp fun _ _ => rfl, hl]
  have honv : v.recallLights r k = true := by rw [hv.read (·.recallLights r k) fun _ _ => rfl, hon]
  have hsc : v.strike.scenes = v.scenes := by
    rw [hv.read State.scenes fun _ _ => rfl, hst.saved.1]
    rfl
  have hsl : v.strike.lamp.state = .striking := by rw [hst.lamp]; rfl
  rw [State.acted_strikes honv hlv hsl hsc, ← hraised]
  exact hst.relit hv.1 hs hp hb r k tell

/-! ## LAMP_ON -/

/-- LAMP_ON, as told. -/
theorem State.lampOn_lights {u v : State} {pre : List Notice} (hv : v.Telling u pre) (hs : u.Settled) (r : Requester)
    (tell : List Notice → Ports) : Lights u ((v.lampOn r).1.closed tell) (fun _ l => tell (pre ++ l)) r := by
  have hl : v.lamp = u.lamp := hv.read State.lamp fun _ _ => rfl
  have hnil : pre ++ [] = pre := List.append_nil pre
  refine ⟨fun ho hsound hp hb => ?_, fun h => ?_, fun h => ?_, fun h => ?_⟩
  · have hon : (v.lampOn r).1 = v.strike := by
      unfold State.lampOn
      rw [hl, ho]
    obtain ⟨hst, hraised⟩ := State.strike_struck hv ho
    rw [hon]
    dsimp only
    rw [← hraised]
    exact hst.lit hv.1 hsound hp hb tell
  · have hon : (v.lampOn r).1 = v := by
      unfold State.lampOn
      rw [hl]
      rcases h with h | h | h <;> rw [h]
    dsimp only
    rw [hon, hv.closed hs, hnil]
  · have hon : (v.lampOn r).1 = v.setLamp { u.lamp with heldOff := false } := by
      unfold State.lampOn
      rw [hl, h]
    have hx := hv.map (·.setLamp { u.lamp with heldOff := false }) (fun _ _ => rfl) rfl
    dsimp only
    rw [hon, State.Telling.closed hx (hs.congr rfl rfl), hnil]
    rfl
  · have hon : (v.lampOn r).1 = v.setLamp { u.lamp with pendingOn := some (.requester r) } := by
      unfold State.lampOn
      rw [hl, h]
    have hx := hv.map (·.setLamp { u.lamp with pendingOn := some (.requester r) }) (fun _ _ => rfl) rfl
    dsimp only
    rw [hon, State.Telling.closed hx (hs.congr rfl rfl), hnil]
    rfl

end Sys2Proof.Machine
end

