-- ==== Sys2Proof/Proofs/HandOver.lean ====
section
/-! SUPPORT. A freed floor handed over to the elect, whose command acts as its owner has it (R31 to R35, R39); and the port reset (R5, R38). -/

namespace Sys2Proof.Machine

theorem State.proceed_acted (s : State) (f : Floor) (r : Requester) {c : Cmd} (h : c ≠ .holdFloor) :
    (s.proceed f r c).1 = (s.tellHolder f).acted r c := by
  unfold State.proceed
  rw [if_neg h]
  rfl

theorem State.tellHolder_changed {s : State} {f : Floor} (h : s.floor.holder ≠ f.holder) : s.tellHolder f = s.notify s.floor.notice :=
  if_neg fun hc => h hc.1

/-- Nothing of the floor is read by the checks at a hand-over (R34). -/
theorem State.handOverRefusal_floor (s : State) (f : Floor) (r : Requester) (c : Cmd) :
    ({ s with floor := f } : State).handOverRefusal r c = s.handOverRefusal r c := rfl

theorem State.Telling.refusal {v u : State} {pre : List Notice} (h : v.Telling u pre) (r : Requester) (c : Cmd) :
    v.handOverRefusal r c = u.handOverRefusal r c := h.read (·.handOverRefusal r c) fun _ _ => rfl

/-- A command that is not refused at its hand-over finds its place in the store (R16, R34). -/
theorem State.storeTakes_of_handOver {s : State} {r : Requester} {c : Cmd} {rec : RecordId} (h : s.handOverRefusal r c = none)
    (hn : s.storeNeed r c = .place rec) : StoreTakes s rec := by
  have hlate : s.lateRefusal r c = none := by
    unfold State.handOverRefusal at h
    split at h
    · exact absurd h (by simp)
    · split at h
      · exact absurd h (by simp)
      · exact h
  have hstore : s.storeRefuses (.place rec) = none := by
    unfold State.lateRefusal at hlate
    rw [hn] at hlate
    split at hlate
    · exact absurd hlate (by simp)
    · assumption
  unfold State.storeRefuses at hstore
  dsimp only at hstore
  split at hstore
  · exact absurd hstore (by simp)
  · rename_i hf
    split at hstore
    · exact absurd hstore (by simp)
    · rename_i hq
      refine ⟨by simpa using hf, ?_⟩
      by_cases hm : rec ∈ s.store.queue
      · exact .inl hm
      · exact .inr (Nat.lt_of_not_le fun hle => hq ⟨hm, hle⟩)

/-- A keystone command that is not refused may write its pair (R16, R125). -/
theorem State.pairPlace_of_handOver {s : State} {r : Requester} {q : ProfileIdx} {c : Cmd}
    (hc : s.storeNeed r c = if (s.winner q).isSome then .nothing else .place (.profile q)) (h : s.handOverRefusal r c = none)
    (hw : s.winner q = none) : StoreTakes s (.profile q) :=
  State.storeTakes_of_handOver h (by rw [hc, hw]; rfl)

/-- The floor once it has passed to the elect (R33). -/
def Floor.passedTo (e : Requester) (marker : Bool) : Floor := { holder := some e, hold := false, elect := none, marker := marker }

/-- The elect's command acts, with HOLDER first (R33, R34, R39). -/
theorem State.handOver_acts {s v : State} {f before : Floor} {pre : List Notice} (hv : v.Telling { s with floor := f } pre)
    (hs : s.Settled) {e : Requester} {c : Cmd} (hf : f.elect = some (e, c)) (hm : f.marker = s.floor.marker)
    (hb : before.holder ≠ some e) (hok : s.handOverRefusal e c = none) (n : InputIdx) (q : ProfileIdx) (k : SceneIdx) (x : Keystone)
    (d : Direction) (m : Bool) (tell : List Notice → Ports) :
    HandedOver s ((v.handOver before).closed tell) (fun l => tell (pre ++ l)) e c n q k x d m := by
  have hvf : v.floor = f := hv.read State.floor fun _ _ => rfl
  let passed : Floor := Floor.passedTo e s.floor.marker
  let u : State := { s with floor := passed }
  have hus : u.Settled := hs.congr rfl rfl
  let y : State := (v.setElect none).passFloor e
  have hyf : y.floor = passed := by
    change { v.floor with elect := none, holder := some e, hold := false } = passed
    rw [hvf]
    exact congrArg (Floor.passedTo e) hm
  have hy : y.Telling u pre := by
    have h := hv.map (fun z => z.setFloor passed) (fun _ _ => rfl) rfl
    have hyv : y = v.setFloor passed := by
      rw [← hyf]
      rfl
    rw [hyv]
    exact h
  have hover : v.handOver before = (y.proceed before e c).1 := by
    unfold State.handOver
    rw [hvf, hf]
    dsimp only
    rw [hv.refusal, State.handOverRefusal_floor, hok]
  have htold : (y.tellHolder before).Telling u (pre ++ [passed.notice]) := by
    rw [State.tellHolder_changed (by rw [hyf]; exact fun h => hb h.symm), hyf]
    exact hy.notify _
  have acts : c ≠ .holdFloor → v.handOver before = (y.tellHolder before).acted e c := fun h => by
    rw [hover, State.proceed_acted _ _ _ h]
  refine ⟨fun _ h => absurd (hok.symm.trans h) (by simp), fun _ => ⟨fun hc => ?_, fun hc => ?_, fun hc => ?_, fun hc => ?_, fun hc => ?_,
    fun hc => ⟨?_, ?_⟩, fun hc => ⟨fun hl => ?_, fun hon hl hsound hp hbr => ?_⟩⟩⟩
  · have hproceed : (y.proceed before e .holdFloor).1 = (y.setFloor { passed with hold := true }).notify { passed with hold := true }.notice := by
      unfold State.proceed
      rw [if_pos rfl]
      dsimp only
      rw [hyf, State.tellHolder_changed (by exact fun h => hb h.symm)]
      rfl
    have ht := (hy.map (fun z => z.setFloor { passed with hold := true }) (fun _ _ => rfl) rfl).notify { passed with hold := true }.notice
    rw [hover, hc, hproceed]
    exact State.Telling.closed ht (hs.congr rfl rfl) tell
  · subst hc
    have hact : (y.tellHolder before).acted e (if m then .setMute else .clearMute) = (y.tellHolder before).mute m := by cases m <;> rfl
    rw [acts (by cases m <;> decide), hact]
    have := State.mute_muting htold hus m tell
    simp only [List.append_assoc] at this
    exact this
  · subst hc
    rw [acts (by simp)]
    have := State.selectProfile_reprofiles htold hus q tell
    exact this
  · subst hc
    rw [acts (by simp)]
    have := State.writePair_rekeys htold hus q x (State.pairPlace_of_handOver (s := s) (r := e) rfl hok) tell
    exact this
  · subst hc
    have hact : (y.tellHolder before).acted e (.nudgeKeystone q d) = (y.tellHolder before).writePair q (nudge (s.effectivePair q) d).1 := by
      change (y.tellHolder before).writePair q (nudge ((y.tellHolder before).effectivePair q) d).1 = _
      rw [htold.read (·.effectivePair q) fun _ _ => rfl]
      rfl
    rw [acts (by simp), hact]
    have := State.writePair_rekeys htold hus q (nudge (s.effectivePair q) d).1
      (State.pairPlace_of_handOver (s := s) (r := e) (c := .nudgeKeystone q d) rfl hok) tell
    exact this
  · subst hc
    rw [acts (by simp)]
    have := State.acted_selects htold hus e n tell
    simp only [List.append_assoc] at this
    exact this
  · subst hc
    rw [acts (by simp)]
    have := State.acted_starts htold hus e n tell
    simp only [List.append_assoc] at this
    exact this
  · subst hc
    rw [acts (by simp)]
    have := State.acted_recalls htold hus e k hl tell
    simp only [List.append_assoc] at this
    exact this
  · subst hc
    rw [acts (by simp)]
    have := State.acted_relights htold e k hon hl hsound hp hbr tell
    simp only [List.append_assoc] at this
    exact this

/-- The notice of an elect whose command is refused at its hand-over (R34, R39). -/
theorem electRefused_eq (e : Requester) (y : Verdict) (c : Cmd) : electRefused e y c =
    { cls := .floor, kind := 2, subject := requesterCode e, result := y.code, extra := (codeByte (cmdCode c)).toNat } := rfl

/-- The elect's command refused: the elect is gone, and the floor as it was left, told against the one before (R34, R39, log 11). -/
theorem State.handOver_refuses {v u : State} {pre : List Notice} (hv : v.Telling u pre) {e : Requester} {c : Cmd} {y : Verdict}
    (he : u.floor.elect = some (e, c)) (hy : u.handOverRefusal e c = some y) (before : Floor) :
    ∃ z : State, z.Telling { u with floor := { u.floor with elect := none } } (pre ++ [electRefused e y c])
      ∧ v.handOver before = z.tellHolder before := by
  have hvf : v.floor = u.floor := hv.read State.floor fun _ _ => rfl
  refine ⟨(v.setElect none).notify (electRefused e y c), ?_, ?_⟩
  · exact (hv.map (fun z => z.setElect none) (fun _ _ => rfl) rfl).notify _
  · unfold State.handOver
    rw [hvf, he]
    dsimp only
    rw [hv.refusal, hy]

end Sys2Proof.Machine

open Sys2Proof Sys2Proof.Machine

/-- Settles O14: the port cleared, and its requester's floor freed, handed over, or its waiting command dropped. -/
theorem portResetActs : Obligations.PortResetActs := by
  unfold Obligations.PortResetActs
  intro s p e c n q k x d m hq
  have hset := hq.settled
  let w : State := s.setPort p (s.port p).broken
  have hw : w.Telling s [] := ⟨hq.1, w.ports, by rw [← hq.1]; rfl⟩
  have row : exec (.portReset p) s = .next (w.loseStanding (portRequester p)).finish := rfl
  have hports : (w.loseStanding (portRequester p)).ports = w.ports := State.ports_of_room (State.loseStanding_room _ _)
  have ends : ∀ {u : State} {l : List Notice}, (w.loseStanding (portRequester p)).Telling u l → u.Settled →
      exec (.portReset p) s = .next { u with ports := w.ports.offerAll l } := by
    intro u l h hu
    rw [row, State.finish_closed (s := w) hports, h.closed hu]
  have frees : s.floor.holder = some (portRequester p) → w.loseStanding (portRequester p) = w.freeFloor.handOver s.floor := fun h => if_pos h
  let f : Floor := { s.floor with holder := none, hold := false }
  have hfree : w.freeFloor.Telling { s with floor := f } [] := hw.map (fun z => z.freeFloor) (fun _ _ => rfl) rfl
  have gone : ∀ h : Option Requester, s.floor.holder = some (portRequester p) → h ≠ some (portRequester p) → h ≠ s.floor.holder :=
    fun h h1 h2 h3 => h2 (h3.trans h1)
  refine ⟨fun hh he => ?_, fun hh he => ?_, fun hh he hne => ?_, fun hh he => ?_⟩
  · have hstay : w.loseStanding (portRequester p) = w := by
      unfold State.loseStanding
      refine (if_neg hh).trans ?_
      split
      · rename_i r a h
        exact if_neg (he _ h)
      · rfl
    rw [ends (by rw [hstay]; exact hw) hset]
    rfl
  · have hx : w.loseStanding (portRequester p) = w.freeFloor.notify f.notice := by
      rw [frees hh]
      unfold State.handOver
      rw [show w.freeFloor.floor.elect = none from he]
      exact State.tellHolder_changed (gone none hh (by simp))
    rw [ends (u := { s with floor := f }) (by rw [hx]; exact hfree.notify f.notice) (hset.congr rfl rfl)]
    rfl
  · refine ⟨_, row, ?_⟩
    rw [State.finish_closed (s := w) hports, frees hh]
    refine ⟨fun y hy => ?_, fun hok => ?_⟩
    · obtain ⟨z, hz, hzo⟩ := State.handOver_refuses hfree he hy s.floor
      have hzf : z.floor = { f with elect := none } := hz.read State.floor fun _ _ => rfl
      rw [hzo, State.tellHolder_changed (by rw [hzf]; exact gone none hh (by simp)), hzf]
      exact (hz.notify _).closed (hset.congr rfl rfl) _
    · have := State.handOver_acts (before := s.floor) hfree hset he rfl (by rw [hh]; simpa using hne.symm) hok n q k x d m w.ports.offerAll
      exact this.2 hok
  · have hx : w.loseStanding (portRequester p) = (w.setElect none).notify (electDropped (portRequester p) 0 c) := by
      unfold State.loseStanding
      refine (if_neg hh).trans ?_
      rw [show w.floor.elect = some (portRequester p, c) from he]
      dsimp only
      rw [if_pos rfl]
      unfold State.dropElect
      rw [show w.floor.elect = some (portRequester p, c) from he]
    have ht := (hw.map (fun z => z.setElect none) (fun _ _ => rfl) rfl).notify (electDropped (portRequester p) 0 c)
    rw [ends (u := s.setElect none) (by rw [hx]; exact ht) (hset.congr rfl rfl)]
    rfl
end

