-- ==== Sys2Proof/Proofs/UnitEnds.lean ====
section
/-! SUPPORT. The end of a unit with an elect, whose command is tried (R33, R34, R39, R99). -/

namespace Sys2Proof.Machine

/-- The floor of a unit that is over, once a barred holder is freed (R27, R33). -/
def State.unitFloor (u : State) : Floor :=
  if u.holderBarred then { u.floor with holder := none, hold := false, marker := false } else { u.floor with marker := false }

/-- The unit's end, its marker clear: a barred holder is freed, and the elect has its turn (R33). -/
theorem State.chainEnds_handOver {v : State} (hm : v.floor.marker = true) :
    v.chainEnds = (v.setFloor v.unitFloor).handOver { v.floor with marker := false } := by
  unfold State.chainEnds State.unitEnd State.unitFloor
  rw [if_pos hm]
  have hb : (v.setFloor { v.floor with marker := false }).holderBarred = v.holderBarred := rfl
  rw [hb]
  cases v.holderBarred <;> rfl

theorem State.holderBarred_some {s : State} (h : s.holderBarred = true) : s.floor.holder ≠ none := by
  unfold State.holderBarred at h
  intro hn
  rw [hn] at h
  exact absurd h (by simp)

/-- The elect's turn at a unit's end, as told. -/
theorem State.chainEnds_elect {u v : State} {pre : List Notice} (hv : v.Telling u pre) (hs : u.Settled) {e : Requester} {c : Cmd}
    (hm : u.floor.marker = true) (he : u.floor.elect = some (e, c)) (hne : u.floor.holder ≠ some e) (n : InputIdx) (q : ProfileIdx)
    (k : SceneIdx) (x : Keystone) (d : Direction) (m : Bool) (tell : List Notice → Ports) :
    ElectActs { u with floor := { u.floor with marker := false } } (v.chainEnds.closed tell) (fun l => tell (pre ++ l)) e c n q k x d m := by
  have hvf : v.floor = u.floor := hv.read State.floor fun _ _ => rfl
  have huf : v.unitFloor = u.unitFloor := hv.read State.unitFloor fun _ _ => rfl
  have hend : v.chainEnds = (v.setFloor u.unitFloor).handOver { u.floor with marker := false } := by
    rw [State.chainEnds_handOver (by rw [hvf]; exact hm), hvf, huf]
  have hy : (v.setFloor u.unitFloor).Telling { u with floor := u.unitFloor } pre := hv.map (·.setFloor u.unitFloor) (fun _ _ => rfl) rfl
  have helect : u.unitFloor.elect = some (e, c) := by
    unfold State.unitFloor
    split <;> exact he
  have hmark : u.unitFloor.marker = false := by
    unfold State.unitFloor
    split <;> rfl
  rw [hend]
  refine ⟨fun y hy' => ?_, fun hok => ?_⟩
  · obtain ⟨z, hz, hzo⟩ := State.handOver_refuses hy helect hy' { u.floor with marker := false }
    have hzf : z.floor = { u.unitFloor with elect := none } := hz.read State.floor fun _ _ => rfl
    rw [hzo]
    cases hb : u.holderBarred with
    | true =>
      have hbar : ({ u with floor := { u.floor with marker := false } } : State).holderBarred = true := hb
      have hfree : ({ u.unitFloor with elect := none } : Floor) = Floor.free := by
        unfold State.unitFloor
        rw [hb]
        rfl
      rw [State.tellHolder_changed (by rw [hzf, hfree]; exact fun h => State.holderBarred_some hb h.symm), hzf, hfree]
      rw [hfree] at hz
      rw [(hz.notify Floor.free.notice).closed (hs.congr rfl rfl), if_pos hbar, if_pos hbar, List.append_assoc]
      rfl
    | false =>
      have hbar : ¬ ({ u with floor := { u.floor with marker := false } } : State).holderBarred = true := by
        rw [show ({ u with floor := { u.floor with marker := false } } : State).holderBarred = u.holderBarred from rfl, hb]
        simp
      have hkept : ({ u.unitFloor with elect := none } : Floor) = { u.floor with marker := false, elect := none } := by
        unfold State.unitFloor
        rw [hb]
        rfl
      have hsame : z.tellHolder { u.floor with marker := false } = z := if_pos (by rw [hzf, hkept]; exact ⟨rfl, rfl⟩)
      rw [hkept] at hz
      rw [hsame, hz.closed (hs.congr rfl rfl), if_neg hbar, if_neg hbar]
      rfl
  · have hmm : u.unitFloor.marker = ({ u with floor := { u.floor with marker := false } } : State).floor.marker := hmark
    exact State.handOver_acts (s := { u with floor := { u.floor with marker := false } }) hy (hs.congr rfl rfl) helect hmm hne hok n q k x d m tell

/-- The end of a switch, an elect behind it or none (R33, R99). -/
theorem State.completeSwitch_chains {u v : State} {pre : List Notice} (hv : v.Telling u pre) {w : Switch}
    (hw : u.engine.inFlight = some w) (ho : u.engine.powerUpOwed = false) (hc : u.engine.switchCond = false)
    (hh : u.engine.compHeld = u.composition) (r : SwitchResult) (e : Requester) (c : Cmd) (n : InputIdx) (q : ProfileIdx) (k : SceneIdx)
    (x : Keystone) (d : Direction) (m : Bool) (tell : List Notice → Ports) :
    Chains u ((v.completeSwitch r).closed tell) (fun l => tell (pre ++ w.ended r.code :: l)) w e c n q k x d m := by
  refine ⟨State.completeSwitch_completes hv hw ho (fun _ _ => ⟨hc, hh⟩) r tell, fun hp hor hm he hne => ?_⟩
  obtain ⟨y, hy, hnext⟩ := State.completeSwitch_next hv hw r
  let f (z : State) : State := z.setEngine { z.engine with state := .idle }
  have hf : (f y).Telling (f (u.over w)) (pre ++ [w.ended r.code]) := hy.map f (fun _ _ => rfl) rfl
  have hye : y.engine = (u.over w).engine := hy.read State.engine fun _ _ => rfl
  have hfe : (f y).engine = (f (u.over w)).engine := hf.read State.engine fun _ _ => rfl
  have hidle : y.nextSwitch = (f y).chainEnds.payRelock.endSwitchCond := by
    unfold State.nextSwitch
    rw [show y.engine.pendingTarget = none from (congrArg Engine.pendingTarget hye).trans hp]
    rfl
  have htidy : Tidy (some false) (f y) := by
    have hun : (f y).engine.unheld = true := unheld_of_none (by rw [hfe]; rfl)
    refine ⟨by rw [hfe]; exact fun h => not_unmuting_of_idle h.symm, fun _ _ => by rw [hfe]; exact hor,
      fun _ _ h => absurd (hun.symm.trans h) (by decide), fun b hb _ => ?_, fun b hb _ => ?_, fun h => absurd h (by simp)⟩
    · obtain rfl : false = b := Option.some.inj hb
      rw [hfe]
      exact hc
    · have hoff : (f y).compositionOff = u.composition := by
        rw [hf.read State.compositionOff fun _ _ => rfl]
        unfold State.compositionOff State.composition
        rw [hc]
        rfl
      rw [hoff, hfe]
      exact hh
  have hlast := htidy.chainEnds.last
  have hset : (f (u.over w)).Settled := .of_idle rfl ho
  have hidled : ({ f (u.over w) with floor := { (f (u.over w)).floor with marker := false } } : State) = u.idled w := by
    unfold State.idled
    rw [← hc]
    rfl
  have hact := State.chainEnds_elect hf hset (e := e) (c := c) hm he hne n q k x d m tell
  rw [hidled] at hact
  simp only [List.append_assoc] at hact
  rw [hnext, hidle, hlast]
  exact hact

end Sys2Proof.Machine
end

