-- ==== Sys2Proof/Proofs/BlankReplies.lean ====
section
/-! SUPPORT. The scaler's replies, read from the link (R91); the blank control's replies and what their silence ends (R92, R95, R99,
R102). -/

namespace Sys2Proof.Machine

/-! ## Messages on the link (R91) -/

/-- A message's bytes are read back as that message (R91). -/
theorem readLink_wire {m : LinkMsg} (hn : m.num < 256) (hl : m.payload.length ≤ 146) : readLink m.wire = some m := by
  have hlen : (byte m.payload.length).toNat = m.payload.length := (toNat_byte _).trans (Nat.mod_eq_of_lt (by omega))
  have hsum : sum8 (m.kind :: byte m.num :: byte m.payload.length :: (m.payload ++ [checkByte (m.kind :: byte m.num :: byte m.payload.length :: m.payload)])) = 0 :=
    (sum8_check_iff (m.kind :: byte m.num :: byte m.payload.length :: m.payload) _).mpr rfl
  have hok : (0xA5 : Byte) = 0xA5 ∧ (byte m.payload.length).toNat ≤ 146
      ∧ (m.payload ++ [checkByte (m.kind :: byte m.num :: byte m.payload.length :: m.payload)]).length = (byte m.payload.length).toNat + 1
      ∧ sum8 (m.kind :: byte m.num :: byte m.payload.length
          :: (m.payload ++ [checkByte (m.kind :: byte m.num :: byte m.payload.length :: m.payload)])) = 0 :=
    ⟨rfl, by omega, by rw [List.length_append, hlen]; rfl, hsum⟩
  refine (if_pos hok).trans ?_
  change some { m with num := (byte m.num).toNat, payload := (m.payload ++ [checkByte _]).dropLast } = _
  rw [List.dropLast_concat, toNat_byte, Nat.mod_eq_of_lt hn]

/-- A reply of the kind and length that its row reads. -/
theorem readKind_linkBytes (kind : Byte) {k : Nat} (hk : k < 256) (payload : List Byte) (hl : payload.length ≤ 146) :
    readKind kind payload.length (linkBytes kind k payload) = some { kind := kind, num := k, payload := payload } := by
  unfold readKind linkBytes
  rw [readLink_wire hk hl]
  exact if_pos ⟨rfl, rfl⟩

theorem exec_blanked {s : State} {k : Nat} (hk : k < 256) :
    exec (.blanked (linkBytes 0x81 k [])) s = .next (s.blankAnswered .blank k .blanked).finish := by
  change Host.Outcome.next (match readKind 0x81 ([] : List Byte).length (linkBytes 0x81 k []) with
    | some m => (s.blankAnswered .blank m.num .blanked).finish
    | none => s) = _
  rw [readKind_linkBytes 0x81 hk [] (by decide)]

theorem exec_unblanked {s : State} {k : Nat} (hk : k < 256) :
    exec (.unblanked (linkBytes 0x82 k [])) s = .next (s.blankAnswered .unblank k .unblanked).finish := by
  change Host.Outcome.next (match readKind 0x82 ([] : List Byte).length (linkBytes 0x82 k []) with
    | some m => (s.blankAnswered .unblank m.num .unblanked).finish
    | none => s) = _
  rw [readKind_linkBytes 0x82 hk [] (by decide)]

/-! ## The end of a switch with nothing behind it (R92, R99) -/

/-- A row that ends with a switch tells its notices behind what its ports held. -/
theorem State.completeSwitch_finish {s v : State} (h : v.ports = s.ports) (r : SwitchResult) :
    (v.completeSwitch r).finish = (v.completeSwitch r).closed s.ports.offerAll :=
  State.finish_closed ((State.ports_of_room (v.completeSwitch_room r)).trans h)

/-- u with the switch w over and the engine IDLE, the unit's end still to come (R99). -/
def State.idling (u : State) (w : Switch) : State := (u.over w).setEngine { (u.over w).engine with state := .idle }

/-- With no pending target the completion goes by way of IDLE (R99). -/
theorem State.completeSwitch_idling {u v : State} {pre : List Notice} (hv : v.Telling u pre) {w : Switch}
    (hw : u.engine.inFlight = some w) (hp : u.engine.pendingTarget = none) (r : SwitchResult) :
    ∃ y : State, y.Telling (u.idling w) (pre ++ [w.ended r.code]) ∧ v.completeSwitch r = y.chainEnds.payRelock.endSwitchCond := by
  obtain ⟨y, hy, hnext⟩ := State.completeSwitch_next hv hw r
  have hye : y.engine = (u.over w).engine := hy.read State.engine fun _ _ => rfl
  refine ⟨y.setEngine { y.engine with state := .idle }, hy.map (fun x => x.setEngine { x.engine with state := .idle }) (fun _ _ => rfl) rfl, ?_⟩
  rw [hnext]
  unfold State.nextSwitch
  rw [show y.engine.pendingTarget = none from (congrArg Engine.pendingTarget hye).trans hp]
  rfl

/-- With nothing to follow, the end of a switch leaves the engine to the relock it owes. -/
theorem State.completeSwitch_last {u v : State} {pre : List Notice} (hv : v.Telling u pre) {w : Switch} (hw : u.engine.inFlight = some w)
    (hlast : ChainLast u) (r : SwitchResult) :
    ∃ y : State, y.Telling { u.idled w with engine := { (u.idled w).engine with switchCond := u.engine.switchCond } } (pre ++ [w.ended r.code])
      ∧ v.completeSwitch r = y.payRelock.endSwitchCond := by
  obtain ⟨hp, he, hb⟩ := hlast
  obtain ⟨y, hy, hend⟩ := State.completeSwitch_idling hv hw hp r
  exact ⟨y.chainEnds, (State.chainEnds_alone hy he).1 hb, hend⟩

theorem State.watched_told (u : State) (ps : Ports) (l : List Notice) :
    ({ u with ports := ps, raised := l } : State).watched = { u.watched with ports := ps, raised := l } := rfl

theorem State.Telling.watched {v u : State} {pre : List Notice} (h : v.Telling u pre) : v.watched.Telling u.watched pre :=
  h.map State.watched (fun ps l => u.watched_told ps l) rfl

/-- With nothing to follow and no relock owed, the engine is IDLE and the blank control acts on the composition left (R92, R99). -/
theorem State.completeSwitch_idles {u v : State} {pre : List Notice} (hv : v.Telling u pre) {w : Switch} (hw : u.engine.inFlight = some w)
    (ho : u.engine.powerUpOwed = false) (hlast : ChainLast u) (hor : u.engine.owedRelock = false) (r : SwitchResult)
    (tell : List Notice → Ports) :
    (v.completeSwitch r).closed tell = ({ u.idled w with ports := tell (pre ++ [w.ended r.code]) } : State).watched := by
  obtain ⟨y, hy, hend⟩ := State.completeSwitch_last hv hw hlast r
  have hye := hy.read State.engine fun _ _ => rfl
  have hz := hy.map (fun x => x.setEngine { x.engine with switchCond := false }) (fun _ _ => rfl) rfl
  rw [hend, State.payRelock_none (by rw [hye]; exact hor), State.endSwitchCond_idle (by rw [hye]; rfl),
    hz.watched.closed (.of_idle rfl ho)]
  rfl

/-- With nothing to follow and a relock owed over an unblanked picture, its BLANK goes out (R94, R99). -/
theorem State.completeSwitch_relocks {u v : State} {pre : List Notice} (hv : v.Telling u pre) {w : Switch}
    (hw : u.engine.inFlight = some w) (ho : u.engine.powerUpOwed = false) (hlast : ChainLast u) (hor : u.engine.owedRelock = true)
    (hp : u.engine.powered = true) (hq : u.engine.blankReq = none) (hb : u.engine.blank ≠ .blanked) (r : SwitchResult)
    (tell : List Notice → Ports) :
    let t := (v.completeSwitch r).closed tell
    t.sources = u.sources ∧ t.geo = u.geo ∧ t.engine.blank = u.engine.blank
      ∧ t.engine.blankReq = some { kind := .blank, num := u.engine.linkNext } := by
  obtain ⟨y, hy, hend⟩ := State.completeSwitch_last hv hw hlast r
  have hye := hy.read State.engine fun _ _ => rfl
  have hpay : y.payRelock = y.startSwitch .relock u.engine.routed none := by
    unfold State.payRelock
    rw [hye]
    exact (if_pos hor).trans rfl
  have hbegun := y.startSwitch_begun u.engine.routed none (kind := .relock) (by decide)
  intro t
  have ht : t = (y.startSwitch .relock u.engine.routed none).closed tell := by
    change (v.completeSwitch r).closed tell = _
    rw [hend, hpay, hbegun.endSwitchCond (show SwitchKind.relock ≠ .apply by decide)]
  have hstart := State.startSwitch_blanks (s := y) u.engine.routed none (kind := .relock) (by decide)
    (by rw [hye]; exact hp) (by rw [hye]; exact hq) (by rw [hye]; exact hb)
  have hset := hbegun.settled (by rw [hye]; exact ho)
  rw [ht, State.closed_of_settled hset, hstart]
  refine ⟨hy.read State.sources fun _ _ => rfl, hy.read State.geo fun _ _ => rfl, (congrArg Engine.blank hye).trans rfl, ?_⟩
  have hnum : y.engine.linkNext = u.engine.linkNext := (congrArg Engine.linkNext hye).trans rfl
  rw [← hnum]
  rfl

/-! ## Blank replies (R92, R95, R99) -/

/-- The blank record read from a reply, no request outstanding (R92, R102). -/
def State.blankRead (u : State) (b : BlankRecord) : State := { u with engine := { u.engine with blank := b, blankReq := none } }

/-- The blank record read, and the opposite request out (R92). -/
def State.blankTurned (u : State) (b : BlankRecord) (x : BlankKind) : State :=
  { u with engine := { u.engine with blank := b, blankReq := some { kind := x, num := u.engine.linkNext },
                                     linkNext := nextLink u.engine.linkNext } }

theorem State.blankAnswered_other {s : State} {x : BlankKind} {k : Nat} {b : BlankRecord}
    (h : s.engine.blankReq ≠ some { kind := x, num := k }) : s.blankAnswered x k b = s := if_neg h

theorem State.blankAnswered_eq {s : State} {x : BlankKind} {k : Nat} (b : BlankRecord)
    (h : s.engine.blankReq = some { kind := x, num := k }) : s.blankAnswered x k b = (s.blankRead b).compareBlank.endMuting := if_pos h

/-- A reply as the composition asks for sends nothing. -/
theorem State.blankRead_compare_same {s : State} {b : BlankRecord} (h : b = if s.composition then .blanked else .unblanked) :
    (s.blankRead b).compareBlank = s.blankRead b := by
  have hc : (s.blankRead b).composition = s.composition := rfl
  have hb : (s.blankRead b).engine.blank = b := rfl
  unfold State.compareBlank
  rw [hc, hb, h]
  cases s.composition <;> simp

/-- A composition that has turned meanwhile sends the opposite request (R92). -/
theorem State.blankRead_compare_turned {s : State} {b : BlankRecord} (hp : s.engine.powered = true)
    (h : b = if s.composition then .unblanked else .blanked) :
    (s.blankRead b).compareBlank = s.blankTurned b (if s.composition then .blank else .unblank) := by
  have h0 : ¬ ((!(s.blankRead b).engine.powered) = true ∨ (s.blankRead b).engine.blankReq.isSome = true) := by
    simp [State.blankRead, hp]
  have hc : (s.blankRead b).composition = s.composition := rfl
  have hb : (s.blankRead b).engine.blank = b := rfl
  unfold State.compareBlank
  rw [if_neg h0, hc, hb, h]
  cases s.composition
  · rfl
  · rfl

theorem State.endMuting_other {s : State} (h : ¬ (s.engine.state = .muting ∧ s.engine.blank = .blanked ∧ s.engine.blankReq = none)) :
    s.endMuting = s := by
  unfold State.endMuting
  split
  · exact if_neg fun hc => h ⟨hc.1, hc.2.1, Option.isNone_iff_eq_none.mp hc.2.2⟩
  · rfl

theorem State.endMuting_routes {s : State} {w : Switch} (hs : s.engine.state = .muting) (hb : s.engine.blank = .blanked)
    (hq : s.engine.blankReq = none) (hw : s.engine.inFlight = some w) : s.endMuting = s.route w := by
  unfold State.endMuting
  rw [hw]
  exact if_pos ⟨hs, hb, by rw [hq]; rfl⟩

theorem not_unmuting_of_locking : EngineState.unmuting ≠ .locking := by decide

/-- A switch in MUTING whose picture is now blanked is routed, and in LOCKING (R95). -/
theorem State.blankRead_routes {s : State} {w : Switch} (hh : s.engine.compHeld = true) (hs : s.engine.state = .muting)
    (hw : s.engine.inFlight = some w) (ho : s.engine.powerUpOwed = false) (hr : s.raised = []) :
    let t := ((s.blankRead .blanked).endMuting).finish
    t = { s with engine := t.engine, sources := t.sources, geo := t.geo }
      ∧ t.engine.state = .locking ∧ t.engine.routed = w.target ∧ t.engine.selected = w.target ∧ t.engine.blank = .blanked
      ∧ t.engine.blankReq = none ∧ (t.source w.target).timing = none := by
  have hroute : (s.blankRead .blanked).endMuting = (s.blankRead .blanked).route w := State.endMuting_routes hs rfl rfl hw
  obtain ⟨k, he, hsrc⟩ := State.route_routed (s := s.blankRead .blanked) (w := w) hh
  have honly : EngineOnly (s.blankRead .blanked) ((s.blankRead .blanked).route w) := .route _ w
  have hfin : ((s.blankRead .blanked).route w).finish = (s.blankRead .blanked).route w := by
    refine State.finish_of_quiet ⟨?_, ?_, ?_⟩
    · rw [honly.raised]; exact hr
    · rw [he]; exact ho
    · intro hu
      exact absurd (hu.1.symm.trans (congrArg Engine.state he)) not_unmuting_of_locking
  intro t
  have ht : t = (s.blankRead .blanked).route w := by
    change ((s.blankRead .blanked).endMuting).finish = _
    rw [hroute, hfin]
  rw [ht]
  refine ⟨?_, by rw [he], by rw [he], by rw [he], by rw [he]; rfl, by rw [he]; rfl, by rw [hsrc, if_pos (.inl rfl)]⟩
  conv_lhs => rw [honly.eq]
  rfl

/-- A blank reply that ends no MUTING and no UNMUTING leaves what it read. -/
theorem State.blankAnswered_settles {s y : State} {x : BlankKind} {k : Nat} {b : BlankRecord} (hq : Quiet s)
    (h : s.engine.blankReq = some { kind := x, num := k }) (hc : (s.blankRead b).compareBlank = y) (hm : y.endMuting = y)
    (hy : y.raised = [] ∧ y.engine.powerUpOwed = s.engine.powerUpOwed) (hu : ¬ UnmutingOver y) :
    (s.blankAnswered x k b).finish = y := by
  rw [State.blankAnswered_eq b h, hc, hm]
  exact State.finish_of_quiet ⟨hy.1, hy.2.trans hq.2.1, hu⟩

/-- The NO_ANSWER of a blank request (R102). -/
def BlankRequest.silent (r : BlankRequest) : Notice :=
  { cls := .scaler, kind := 1, subject := blankKindCode r.kind, result := 0xA4, extra := 0 }

theorem State.blankLost_other {s : State} {k : Nat} (h : s.engine.blankReq.map BlankRequest.num ≠ some k) : s.blankLost k = s := by
  unfold State.blankLost
  split
  · rfl
  · rename_i r hr
    exact if_pos fun hn => h (by rw [hr, ← hn]; rfl)

theorem State.blankLost_eq {s : State} {r : BlankRequest} (h : s.engine.blankReq = some r) :
    s.blankLost r.num =
      if s.engine.state = .muting ∨ s.engine.state = .unmuting then ((s.blankRead .unknown).notify r.silent).completeSwitch .scalerFault
      else (s.blankRead .unknown).notify r.silent := by
  unfold State.blankLost
  rw [h]
  exact if_neg fun hn => hn rfl

theorem Quiet.read_telling {s : State} (h : Quiet s) (b : BlankRecord) : (s.blankRead b).Telling (s.blankRead b) [] :=
  h.telling.map (·.blankRead b) (fun _ _ => rfl) rfl

/-- The record is read, as told the request's silence. -/
theorem Quiet.silenced {s : State} (h : Quiet s) (r : BlankRequest) :
    ((s.blankRead .unknown).notify r.silent).Telling (s.blankRead .unknown) [r.silent] :=
  (h.read_telling .unknown).notify r.silent

end Sys2Proof.Machine

open Sys2Proof Sys2Proof.Machine

/-- Settles O54, by the kind of the reply, the state of the engine and what stands behind the switch. -/
theorem blankReplies : Obligations.BlankReplies := by
  unfold Obligations.BlankReplies
  intro s k e a i q z x d b hq hk
  have hself : s.finish = s := State.finish_of_quiet hq
  refine ⟨fun h => ?_, fun h => ?_, fun h hheld hp => ⟨fun hc hm => ?_, fun hc hm => ?_, fun w hc hm hw => ?_⟩,
    fun h hheld hp => ⟨fun hc => ?_, fun hc hu => ?_, fun w hc hu hw => ?_⟩, fun h => ?_, fun r h hm hu => ?_, fun r h hst w hw => ?_⟩
  · rw [exec_blanked hk, State.blankAnswered_other h, hself]
  · rw [exec_unblanked hk, State.blankAnswered_other h, hself]
  · rw [exec_blanked hk, State.blankAnswered_settles hq h (State.blankRead_compare_same (by rw [hc]; rfl))
      (State.endMuting_other fun h => hm h.1) ⟨hq.1, rfl⟩ fun hu => hq.2.2 ⟨hu.1, .inr hc⟩]
    rfl
  · rw [exec_blanked hk, State.blankAnswered_settles hq h (State.blankRead_compare_turned hp (by rw [hc]; rfl))
      (State.endMuting_other fun h => hm h.1) ⟨hq.1, rfl⟩ fun hu => hu.2.elim (fun h => absurd h (show BlankRecord.blanked ≠ .unblanked by decide)) fun h =>
        absurd (hc.symm.trans h) (by decide), hc]
    rfl
  · have hcmp := State.blankRead_compare_same (s := s) (b := .blanked) (by rw [hc]; rfl)
    refine ⟨_, by rw [exec_blanked hk, State.blankAnswered_eq _ h, hcmp], ?_⟩
    exact State.blankRead_routes (hheld.trans hc) hm hw hq.2.1 hq.1
  · rw [exec_unblanked hk, State.blankAnswered_settles hq h (State.blankRead_compare_turned hp (by rw [hc]; rfl))
      (State.endMuting_other fun h => absurd h.2.1 (show BlankRecord.unblanked ≠ .blanked by decide)) ⟨hq.1, rfl⟩ fun hu => hq.2.2 ⟨hu.1, .inr hc⟩, hc]
    rfl
  · rw [exec_unblanked hk, State.blankAnswered_settles hq h (State.blankRead_compare_same (by rw [hc]; rfl))
      (State.endMuting_other fun h => absurd h.2.1 (show BlankRecord.unblanked ≠ .blanked by decide)) ⟨hq.1, rfl⟩ fun h => hu h.1]
    rfl
  · have hread : (s.blankAnswered .unblank k .unblanked) = s.blankRead .unblanked := by
      rw [State.blankAnswered_eq _ h, State.blankRead_compare_same (by rw [hc]; rfl),
        State.endMuting_other fun h => absurd h.2.1 (show BlankRecord.unblanked ≠ .blanked by decide)]
    have hfin : (s.blankRead .unblanked).finish = ((s.blankRead .unblanked).completeSwitch .switched).closed s.ports.offerAll := by
      rw [State.finish_closed (x := s.blankRead .unblanked) (s := s) rfl, State.closed_unmuting (s := s.blankRead .unblanked) ⟨hu, .inl rfl⟩ hw]
    have htell := hq.read_telling .unblanked
    have hcond : s.engine.switchCond = false := hq.settled.switchCond_unmuting hu
    refine ⟨_, by rw [exec_unblanked hk, hread, hfin], ?_, fun hlast hor => ?_⟩
    · exact State.completeSwitch_chains htell hw hq.2.1 hcond hheld .switched e a i q z x d b s.ports.offerAll
    · exact State.completeSwitch_relocks htell hw hq.2.1 hlast hor hp rfl (show BlankRecord.unblanked ≠ .blanked by decide) .switched
        s.ports.offerAll
  · exact congrArg Host.Outcome.next ((congrArg State.finish (State.blankLost_other h)).trans hself)
  · have hlost : s.blankLost r.num = (s.blankRead .unknown).notify r.silent :=
      (State.blankLost_eq h).trans (if_neg fun hc => hc.elim hm hu)
    refine congrArg Host.Outcome.next ?_
    rw [hlost, (hq.silenced r).finish (s := s) ⟨fun h => hu h.1, hq.2.1⟩ rfl]
    rfl
  · have hlost : s.blankLost r.num = ((s.blankRead .unknown).notify r.silent).completeSwitch .scalerFault :=
      (State.blankLost_eq h).trans (if_pos hst)
    have hexec : exec (.blankRequestTimeout r.num) s
        = .next ((((s.blankRead .unknown).notify r.silent).completeSwitch .scalerFault).closed s.ports.offerAll) := by
      refine congrArg Host.Outcome.next ?_
      rw [hlost]
      exact State.completeSwitch_finish rfl .scalerFault
    refine ⟨fun hlast hor => ⟨_, hexec, ?_⟩, fun x hx => ⟨_, hexec, ?_⟩⟩
    · exact State.completeSwitch_idles (hq.silenced r) hw hq.2.1 hlast hor .scalerFault s.ports.offerAll
    · obtain ⟨hall, hpend, hcarry, _⟩ := (State.completeSwitch_completes (hq.silenced r) hw hq.2.1
        (fun hn => absurd (hn.symm.trans hx) (by simp)) .scalerFault s.ports.offerAll).2.2 x hx
      exact ⟨(congrArg State.ports hall).trans rfl, (congrArg State.floor hall).trans rfl, (congrArg State.recallNow hall).trans rfl, hpend,
        hcarry⟩

end

