-- ==== Sys2Proof/Proofs/TableReplies.lean ====
section
/-! SUPPORT. The scaler's answers to TABLE, and their silence (R98, R99, R119, R120). -/

namespace Sys2Proof.Machine

theorem exec_applied {s : State} {k : Nat} (hk : k < 256) (n : Byte) :
    exec (.applied (linkBytes 0x85 k [n])) s = .next (s.tableAnswered k n.toNat).finish := by
  change Host.Outcome.next (match readKind 0x85 ([n] : List Byte).length (linkBytes 0x85 k [n]) with
    | some m => (s.tableAnswered m.num (byteAt m.payload 0)).finish
    | none => s) = _
  rw [readKind_linkBytes 0x85 hk [n] (show (1 : Nat) ≤ 146 by decide)]
  rfl

/-- s with the table in transfer made the scaler's, and none behind it (R119). -/
def State.tableTaken (s : State) (y : Transfer) : State :=
  { s with geo := { s.geo with scalerTable := some y.table, inTransfer := none, pendingTable := none } }

/-- s with no table at the scaler or on its way (R120). -/
def State.tablesDropped (s : State) : State :=
  { s with geo := { s.geo with scalerTable := none, inTransfer := none, pendingTable := none } }

theorem State.tableAnswered_other {s : State} {y : Transfer} (hy : s.geo.inTransfer = some y) {k n : Nat} (h : y.num ≠ k ∨ y.seq ≠ n) :
    s.tableAnswered k n = s := by
  unfold State.tableAnswered
  rw [hy]
  exact if_neg fun hc => h.elim (· hc.1) (· hc.2)

theorem State.tableAnswered_eq {s : State} {y : Transfer} (hy : s.geo.inTransfer = some y) :
    s.tableAnswered y.num y.seq = (s.tableApplied y).endApplying := by
  unfold State.tableAnswered
  rw [hy]
  exact if_pos ⟨rfl, rfl⟩

theorem State.tableApplied_last {s : State} (y : Transfer) (h : s.geo.pendingTable = none) : s.tableApplied y = s.tableTaken y := by
  unfold State.tableApplied
  rw [h]
  rfl

theorem State.tableApplied_next {s : State} (y : Transfer) {f : BandTable} (h : s.geo.pendingTable = some f) :
    s.tableApplied y = (s.tableTaken y).sendTable f := by
  unfold State.tableApplied
  rw [h]
  rfl

theorem State.endApplying_other {s : State} (h : ¬ (s.engine.state = .applying ∧ s.tableSettled = true)) : s.endApplying = s := by
  unfold State.endApplying
  split
  · exact if_neg h
  · rfl

/-- The end of APPLYING, for an APPLY or with a pending target (R98, R99). -/
theorem State.endApplying_completes {s : State} {w : Switch} (h : s.engine.state = .applying) (ht : s.tableSettled = true)
    (hw : s.engine.inFlight = some w) (hend : w.kind = .apply ∨ s.engine.pendingTarget ≠ none) :
    s.endApplying = s.completeSwitch .switched := by
  unfold State.endApplying
  rw [hw]
  exact (if_pos ⟨h, ht⟩).trans (if_pos (hend.imp_right Option.isSome_iff_ne_none.mpr))

/-- s with the switch condition of R92 ended. -/
def State.condEnded (s : State) : State := { s with engine := { s.engine with switchCond := false } }

theorem State.condEnded_same {s : State} (h : s.engine.switchCond = false) : s.condEnded = s := by
  unfold State.condEnded
  rw [← h]

/-- s with the switch in UNMUTING, its condition ended (R99). -/
def State.inUnmuting (s : State) : State := { s.condEnded with engine := { s.condEnded.engine with state := .unmuting } }

/-- The end of APPLYING of any other switch is the entry to UNMUTING (R99). -/
theorem State.endApplying_unmutes {s : State} {w : Switch} (h : s.engine.state = .applying) (ht : s.tableSettled = true)
    (hw : s.engine.inFlight = some w) (hk : w.kind ≠ .apply) (hp : s.engine.pendingTarget = none) :
    s.endApplying = s.inUnmuting.watched := by
  unfold State.endApplying
  rw [hw]
  refine (if_pos ⟨h, ht⟩).trans ((if_neg fun hc => ?_).trans s.inUnmuting.watchBlank_eq)
  exact hc.elim hk fun h => absurd h (by rw [hp]; decide)

/-- The NO_ANSWER of a table (R120). -/
def Transfer.silent (y : Transfer) : Notice := { cls := .scaler, kind := 1, subject := 4, result := 0xA4, extra := y.seq }

theorem State.tableLate_other {s : State} {y : Transfer} (hy : s.geo.inTransfer = some y) {k : Nat} (h : y.num ≠ k) : s.tableLate k = s := by
  unfold State.tableLate
  rw [hy]
  exact if_pos h

theorem State.tableLate_eq {s : State} {y : Transfer} (hy : s.geo.inTransfer = some y) :
    s.tableLate y.num =
      if s.engine.state = .applying then (s.tablesDropped.notify y.silent).completeSwitch .scalerFault else s.tablesDropped.notify y.silent := by
  unfold State.tableLate
  rw [hy]
  exact if_neg fun h => h rfl

theorem Quiet.tableTaken {s : State} (h : Quiet s) (y : Transfer) : (s.tableTaken y).Telling (s.tableTaken y) [] :=
  h.telling.map (·.tableTaken y) (fun _ _ => rfl) rfl

theorem Quiet.tablesSilent {s : State} (h : Quiet s) (y : Transfer) :
    (s.tablesDropped.notify y.silent).Telling s.tablesDropped [y.silent] :=
  (h.telling.map State.tablesDropped (fun _ _ => rfl) rfl).notify y.silent

/-- A change of the link's number and the geometry unit leaves nothing for the end of the action. -/
theorem Quiet.finish_link {s y : State} (h : Quiet s) (hl : LinkOnly s y) : y.finish = y :=
  State.finish_of_quiet ⟨by rw [show y = _ from hl]; exact h.1, (hl.settled h.settled).2, (hl.settled h.settled).1⟩

/-- What the end of a switch leaves does not depend on the engine's state before it. -/
theorem Chains.of_state {u t : State} {x : EngineState} {tell : List Notice → Ports} {w : Switch} {e : Requester} {c : Cmd} {n : InputIdx}
    {q : ProfileIdx} {k : SceneIdx} {y : Keystone} {d : Direction} {m : Bool}
    (h : Chains { u with engine := { u.engine with state := x } } t tell w e c n q k y d m) : Chains u t tell w e c n q k y d m := by
  obtain ⟨⟨halone, hrelock, hpend⟩, helect⟩ := h
  exact ⟨⟨halone, hrelock, hpend⟩, helect⟩

/-- Tables answered while a switch is in APPLYING, the last one of them, with the chain to end (R98, R99). -/
theorem Quiet.applyingEnds {s : State} (hq : Quiet s) {y : Transfer} {w : Switch} (hst : s.engine.state = .applying)
    (hw : s.engine.inFlight = some w) (hp : s.engine.pendingTarget = none) (hheld : s.engine.compHeld = s.composition)
    (hover : if w.kind = .apply then s.engine.switchCond = false
      else (s.tableTaken y).condEnded.composition = true ∨ s.engine.blank = .unblanked)
    (e : Requester) (a : Cmd) (i : InputIdx) (q : ProfileIdx) (z : SceneIdx) (x : Keystone) (d : Direction) (b : Bool) :
    Chains (s.tableTaken y).condEnded.watched (s.tableTaken y).endApplying.finish (fun l => s.ports.offerAll (w.ended 0xA0 :: l))
      w e a i q z x d b := by
  have htell := hq.tableTaken y
  by_cases hk : w.kind = .apply
  · rw [if_pos hk] at hover
    have hclear : (s.tableTaken y).condEnded.watched = s.tableTaken y := by
      rw [State.condEnded_same (s := s.tableTaken y) hover, State.watched_same (s := s.tableTaken y) hheld]
    have hfin : ((s.tableTaken y).completeSwitch .switched).finish = ((s.tableTaken y).completeSwitch .switched).closed s.ports.offerAll :=
      State.completeSwitch_finish rfl .switched
    rw [State.endApplying_completes (s := s.tableTaken y) hst rfl hw (.inl hk), hfin, hclear]
    exact State.completeSwitch_chains htell hw hq.2.1 hover hheld .switched e a i q z x d b s.ports.offerAll
  · rw [if_neg hk] at hover
    have hfin : (s.tableTaken y).inUnmuting.watched.finish
        = ((s.tableTaken y).inUnmuting.watched.completeSwitch .switched).closed s.ports.offerAll :=
      (State.finish_closed (x := (s.tableTaken y).inUnmuting.watched) (s := s) rfl).trans
        (State.closed_unmuting (s := (s.tableTaken y).inUnmuting.watched) ⟨rfl, hover.symm⟩ hw s.ports.offerAll)
    rw [State.endApplying_unmutes (s := s.tableTaken y) hst rfl hw hk hp, hfin]
    have hx := (htell.map State.inUnmuting (fun _ _ => rfl) rfl).watched
    exact Chains.of_state (State.completeSwitch_chains hx hw hq.2.1 rfl rfl .switched e a i q z x d b s.ports.offerAll)

end Sys2Proof.Machine

open Sys2Proof Sys2Proof.Machine

/-- Settles O56, by what the answer names, what is pending behind it, and the state of the engine. -/
theorem tableReplies : Obligations.TableReplies := by
  unfold Obligations.TableReplies
  intro s k n y e a i q z x d b hq hk hy
  have hself : s.finish = s := State.finish_of_quiet hq
  refine ⟨fun h => ?_, fun hnum hseq => ?_, fun h => ?_, fun h => ?_, fun w hst hw => ?_⟩
  · rw [exec_applied hk, State.tableAnswered_other hy h, hself]
  · have hexec : exec (.applied (linkBytes 0x85 k [n])) s = .next (s.tableApplied y).endApplying.finish := by
      rw [exec_applied hk, ← hnum, ← hseq, State.tableAnswered_eq hy]
    refine ⟨fun ht hst => ?_, fun f ht => ?_, fun w ht hst hw => ⟨fun hp hkind hc hb => ?_, fun hp => ⟨_, hexec, ?_⟩,
      fun hp hheld hover => ⟨_, hexec, ?_⟩⟩⟩
    · rw [hexec, State.tableApplied_last y ht, State.endApplying_other (s := s.tableTaken y) fun h => hst h.1]
      exact congrArg Host.Outcome.next (hq.finish_link (.of_eq rfl))
    · have hopen : ((s.tableTaken y).sendTable f).endApplying = (s.tableTaken y).sendTable f :=
        State.endApplying_other fun h => absurd h.2 (show ¬ (false = true) by decide)
      rw [hexec, State.tableApplied_next y ht, hopen]
      exact congrArg Host.Outcome.next (hq.finish_link (.of_eq rfl))
    · rw [hexec, State.tableApplied_last y ht, State.endApplying_unmutes (s := s.tableTaken y) hst rfl hw hkind hp]
      refine congrArg Host.Outcome.next (State.finish_of_quiet ⟨hq.1, hq.2.1, fun hu => hu.2.elim hb fun h => ?_⟩)
      exact absurd (hc.symm.trans h) (by decide)
    · rw [State.tableApplied_last y ht, State.endApplying_completes (s := s.tableTaken y) hst rfl hw (.inr hp)]
      have hfin : ((s.tableTaken y).completeSwitch .switched).finish = ((s.tableTaken y).completeSwitch .switched).closed s.ports.offerAll :=
        State.completeSwitch_finish rfl .switched
      rw [hfin]
      exact State.completeSwitch_completes (hq.tableTaken y) hw hq.2.1 (fun h => absurd h hp) .switched s.ports.offerAll
    · rw [State.tableApplied_last y ht]
      exact hq.applyingEnds hst hw hp hheld hover e a i q z x d b
  · exact congrArg Host.Outcome.next ((congrArg State.finish (State.tableLate_other hy h)).trans hself)
  · refine congrArg Host.Outcome.next ((congrArg State.finish ((State.tableLate_eq hy).trans (if_neg h))).trans ?_)
    rw [(hq.tablesSilent y).finish (s := s) (hq.settled.congr rfl rfl) rfl]
    rfl
  · have hexec : exec (.tableTimeout y.num) s
        = .next (((s.tablesDropped.notify y.silent).completeSwitch .scalerFault).closed s.ports.offerAll) :=
      congrArg Host.Outcome.next ((congrArg State.finish ((State.tableLate_eq hy).trans (if_pos hst))).trans
        (State.completeSwitch_finish rfl .scalerFault))
    refine ⟨fun hlast hor => ⟨_, hexec, ?_⟩, fun hnext => ⟨_, hexec, ?_⟩⟩
    · exact State.completeSwitch_idles (hq.tablesSilent y) hw hq.2.1 hlast hor .scalerFault s.ports.offerAll
    · exact State.completeSwitch_completes (hq.tablesSilent y) hw hq.2.1
        (fun hp hor => absurd hnext (by rw [show s.engine.pendingTarget = none from hp, show s.engine.owedRelock = false from hor]; simp))
        .scalerFault s.ports.offerAll

end

