-- ==== Sys2Proof/Proofs/LockAttempts.lean ====
section
/-! SUPPORT. The scaler's answers to LOCK, and the limits of a lock attempt (R96, R97, R99). -/

namespace Sys2Proof.Machine

/-! ## What the rows read -/

theorem State.answersLock_iff {s : State} {q : LockRequest} (hq : s.engine.lockReq = some q) (k : Nat) :
    s.answersLock k = true ↔ q.num = k := by
  unfold State.answersLock
  rw [hq]
  exact beq_iff_eq

theorem exec_lockFailed {s : State} {q : LockRequest} (hq : s.engine.lockReq = some q) {k : Nat} (hk : k < 256) :
    exec (.lockFailed (linkBytes 0x84 k [])) s = .next (if q.num = k then s.lockFails.finish else s) := by
  change Host.Outcome.next (match readKind 0x84 ([] : List Byte).length (linkBytes 0x84 k []) with
    | some m => if s.answersLock m.num then s.lockFails.finish else s
    | none => s) = _
  rw [readKind_linkBytes 0x84 hk [] (show (0 : Nat) ≤ 146 by decide)]
  simp only [State.answersLock_iff hq]

/-- The payload of a LOCKED message (R91). -/
def Timing.payload (t : Timing) : List Byte := bytes16 t.width ++ bytes16 t.height ++ bytes16 t.refresh

theorem timing_of_payload (kind : Byte) (k : Nat) {t : Timing} (hw : t.width < 65536) (hh : t.height < 65536) (hf : t.refresh < 65536) :
    ({ kind := kind, num := k, payload := t.payload } : LinkMsg).timing = t := by
  have h : (bytes16 t.refresh).length = 2 := rfl
  have hword : ∀ {n : Nat} (a b c d : Byte), n < 65536 → wordAt (a :: b :: bytes16 n ++ [c, d]) 2 = n ∧ wordAt (a :: b :: c :: d :: bytes16 n) 4 = n := by
    intro n a b c d hn
    exact ⟨wordAt_bytes16 hn [c, d], wordAt_bytes16 hn []⟩
  unfold LinkMsg.timing Timing.payload
  dsimp only
  rw [List.append_assoc, wordAt_bytes16 hw]
  have h2 : wordAt (bytes16 t.width ++ (bytes16 t.height ++ bytes16 t.refresh)) 2 = t.height := (hword _ _ _ _ hh).1
  have h4 : wordAt (bytes16 t.width ++ (bytes16 t.height ++ bytes16 t.refresh)) 4 = t.refresh := (hword _ _ _ _ hf).2
  rw [h2, h4]

theorem exec_locked {s : State} {q : LockRequest} (hq : s.engine.lockReq = some q) {k : Nat} (hk : k < 256) {t : Timing}
    (hw : t.width < 65536) (hh : t.height < 65536) (hf : t.refresh < 65536) :
    exec (.locked (linkBytes 0x83 k t.payload)) s = .next (if q.num = k then (s.lockAnswered t).finish else s) := by
  change Host.Outcome.next (match readKind 0x83 t.payload.length (linkBytes 0x83 k t.payload) with
    | some m => if s.answersLock m.num then (s.lockAnswered m.timing).finish else s
    | none => s) = _
  rw [readKind_linkBytes 0x83 hk t.payload (show (6 : Nat) ≤ 146 by decide)]
  simp only [State.answersLock_iff hq, timing_of_payload 0x83 k hw hh hf]

/-! ## The entry to APPLYING (R96, R98, R116) -/

/-- A forced recompute on a powered scaler: the table is last computed, and sent, or pending behind the one in transfer (R116, R118). -/
theorem State.recompute_forced {s : State} (hp : s.engine.powered = true) :
    LinkOnly s (s.recompute true) ∧ (s.recompute true).geo.last = s.computed
      ∧ (if s.geo.inTransfer = none then
          (s.recompute true).geo.inTransfer = some { num := s.engine.linkNext, seq := s.geo.nextSeq, table := s.computed }
        else (s.recompute true).geo.pendingTable = some s.computed ∧ (s.recompute true).geo.inTransfer = s.geo.inTransfer) := by
  let x := s.setGeo { s.geo with last := s.computed }
  have hhand : s.recompute true = if x.geo.inTransfer.isNone then x.sendTable s.computed else x.setGeo { x.geo with pendingTable := some s.computed } := by
    change x.hand s.computed true = _
    unfold State.hand
    rw [show x.engine.powered = true from hp]
    exact (if_neg (by simp)).trans (if_neg (by simp))
  have hx : x.geo.inTransfer = s.geo.inTransfer := rfl
  by_cases ht : s.geo.inTransfer = none
  · rw [hhand, if_pos (by rw [hx, ht]; rfl), if_pos ht]
    exact ⟨rfl, rfl, rfl⟩
  · rw [hhand, if_neg (by rw [hx]; simpa using ht), if_neg ht]
    exact ⟨rfl, rfl, rfl, rfl⟩

/-- s with the switch w locked to this timing and in APPLYING, its table still to be handed (R96, R98). -/
def State.inApplying (s : State) (w : Switch) (t : Timing) : State :=
  { s with sources := s.sources.set w.target { s.source w.target with timing := some t, remembered := some t },
           engine := { s.engine with state := .applying, lockReq := none, inFlight := some { w with window := none, limit := none } } }

theorem State.lockAnswered_applies {s : State} {w : Switch} {t : Timing} (hst : s.engine.state = .locking) (hw : s.engine.inFlight = some w)
    (hr : t.inRange = true) (hp : (s.source w.target).present = true) (hc : s.engine.switchCond = true) (hh : s.engine.compHeld = true)
    (hpow : s.engine.powered = true) : s.lockAnswered t = (s.inApplying w t).recompute true := by
  have hlink := (State.recompute_forced (s := s.inApplying w t) hpow).1
  have hcomp : ((s.inApplying w t).recompute true).composition = true := by
    unfold State.composition
    rw [hlink.engine]
    simp [State.inApplying, hc]
  have hwatch : ((s.inApplying w t).recompute true).watchBlank = (s.inApplying w t).recompute true :=
    if_pos (by rw [hcomp, hlink.engine]; exact hh.symm)
  unfold State.lockAnswered
  rw [hst, hw]
  exact (if_pos ⟨hr, hp⟩).trans hwatch

theorem State.lockAnswered_fails {s : State} {w : Switch} {t : Timing} (hst : s.engine.state = .locking) (hw : s.engine.inFlight = some w)
    (h : t.inRange = false ∨ (s.source w.target).present = false) : s.lockAnswered t = s.lockFails := by
  unfold State.lockAnswered
  rw [hst, hw]
  exact if_neg fun hc => h.elim (fun h => absurd (hc.1.symm.trans h) (by decide)) fun h => absurd (hc.2.symm.trans h) (by decide)

/-! ## Failed attempts (R96) -/

theorem State.lockFails_quick {s : State} {w : Switch} (hst : s.engine.state = .locking) (hw : s.engine.inFlight = some w)
    (hm : w.lockMode = some .quick) : s.lockFails = (s.forget w.target).attempt w .full := by
  unfold State.lockFails
  rw [hst, hw]
  exact if_pos hm

theorem State.lockFails_full {s : State} {w : Switch} (hst : s.engine.state = .locking) (hw : s.engine.inFlight = some w)
    (hm : w.lockMode = some .full) : s.lockFails = s.completeSwitch .noLock := by
  unfold State.lockFails
  rw [hst, hw]
  exact if_neg (by rw [hm]; decide)

theorem exec_lockWindowExpiry {s : State} {w : Switch} {q : LockRequest} (hself : s.finish = s) (hq : s.engine.lockReq = some q)
    (hw : s.engine.inFlight = some w) (k : Nat) :
    exec (.lockWindowExpiry k) s = .next (if w.window ≠ none ∧ q.num = k then s.lockFails.finish else s) := by
  refine congrArg Host.Outcome.next ?_
  have hends : s.windowEnds k = if w.window ≠ none ∧ q.num = k then s.lockFails else s := by
    unfold State.windowEnds
    rw [hw]
    simp only [Option.isSome_iff_ne_none, State.answersLock_iff hq]
  change (s.windowEnds k).finish = _
  rw [hends, apply_ite State.finish, hself]

theorem exec_overallLockLimitExpiry {s : State} {w : Switch} (hself : s.finish = s) (hst : s.engine.state = .locking)
    (hw : s.engine.inFlight = some w) (k : Nat) :
    exec (.overallLockLimitExpiry k) s = .next (if w.limit = some k then (s.completeSwitch .noLock).finish else s) := by
  refine congrArg Host.Outcome.next ?_
  have hends : s.limitEnds k = if w.limit = some k then s.completeSwitch .noLock else s := by
    unfold State.limitEnds
    rw [hw]
    simp only [hst, true_and]
  change (s.limitEnds k).finish = _
  rw [hends, apply_ite State.finish, hself]

/-! ## The end NO_LOCK (R96, R97, R99) -/

/-- With the switch condition held and no timing at the routed input, the IDLE engine's picture is blanked as it is. -/
theorem State.idling_tidy {s y : State} {w : Switch} {l : List Notice} (hy : y.Telling (s.idling w) l) (hor : s.engine.owedRelock = false)
    (hc : s.engine.switchCond = true) (hh : s.engine.compHeld = true) (ht : s.routedSource.timing = none) : Tidy (some true) y := by
  have hye : y.engine = (s.idling w).engine := hy.read State.engine fun _ _ => rfl
  have hsrc : y.routedSource = s.routedSource := hy.read State.routedSource fun _ _ => rfl
  have hun : y.engine.unheld = true := unheld_of_none (by rw [hye]; rfl)
  refine ⟨by rw [hye]; exact fun h => not_unmuting_of_idle h.symm, fun _ _ => by rw [hye]; exact hor,
    fun _ _ h => absurd (hun.symm.trans h) (by decide), fun b hb _ => ?_, fun b hb _ => ?_, fun _ _ => by rw [hsrc]; exact ht⟩
  · obtain rfl : true = b := Option.some.inj hb
    rw [hye]
    exact hc
  · have hoff : y.compositionOff = true := by
      have : (y.setEngine { y.engine with switchCond := false }).routedSource = y.routedSource := rfl
      unfold State.compositionOff State.composition
      rw [this, hsrc, ht]
      simp
    rw [hoff, hye]
    exact hh

theorem Tidy.switchCond {s : State} (h : Tidy (some true) s) : s.engine.switchCond = true := by
  cases hu : s.engine.unheld with
  | true => exact h.cond _ rfl hu
  | false => exact h.held _ rfl hu

/-- The end of a switch NO_LOCK with no pending target and no relock owed (R99): the condition goes unless a switch holds it. -/
theorem State.completeSwitch_noLock {u v : State} {pre : List Notice} (hv : v.Telling u pre) {w : Switch} (hw : u.engine.inFlight = some w)
    (hp : u.engine.pendingTarget = none) (hor : u.engine.owedRelock = false) (hc : u.engine.switchCond = true)
    (hh : u.engine.compHeld = true) (ht : u.routedSource.timing = none) :
    ∃ y : State, y.Telling (u.idling w) (pre ++ [w.ended 0xA1]) ∧ Tidy (some true) y.chainEnds
      ∧ v.completeSwitch .noLock = y.chainEnds.setEngine
          { y.chainEnds.engine with switchCond := y.chainEnds.engine.inFlight.any fun w => w.kind != .apply } := by
  obtain ⟨y, hy, hend⟩ := State.completeSwitch_idling hv hw hp .noLock
  have htidy := (State.idling_tidy hy hor hc hh ht).chainEnds
  exact ⟨y, hy, htidy, hend.trans htidy.last_held⟩

/-- What the action's end does, with that condition or with the one before it. -/
theorem Tidy.closed_cond {y : State} (h : Tidy (some true) y) (tell : List Notice → Ports) :
    let t := (y.setEngine { y.engine with switchCond := y.engine.inFlight.any fun w => w.kind != .apply }).closed tell
    t.engine.switchCond = t.engine.inFlight.any (fun w => w.kind != .apply)
      ∧ ({ t with engine := { t.engine with switchCond := true } } : State) = y.closed tell := by
  have hc := h.switchCond
  generalize hb : (y.engine.inFlight.any fun w => w.kind != .apply) = b
  let z := y.setEngine { y.engine with switchCond := b }
  have hy : y.endUnmuting = y := if_neg fun hu => h.state hu.1
  have hz : z.endUnmuting = z := if_neg fun hu => h.state hu.1
  intro t
  have ht : t = { z.takePowerUp with ports := tell z.takePowerUp.raised, raised := [] } := by
    change z.closed tell = _
    unfold State.closed State.settle
    rw [hz]
  have hyc : y.closed tell = { y.takePowerUp with ports := tell y.takePowerUp.raised, raised := [] } := by
    unfold State.closed State.settle
    rw [hy]
  rw [ht, hyc]
  cases ho : y.engine.powerUpOwed with
  | false =>
    have h1 : y.takePowerUp = y := if_neg (by simp [ho])
    have h2 : z.takePowerUp = z := if_neg (by rw [show z.engine.powerUpOwed = false from ho]; simp)
    rw [h1, h2]
    refine ⟨hb.symm, ?_⟩
    rw [← hc]
    rfl
  | true =>
    have h1 : y.takePowerUp = y.powerUp := if_pos ho
    have h2 : z.takePowerUp = z.powerUp := if_pos ho
    have hsame : z.powerUp = y.powerUp := rfl
    have hbegun := (y.setEngine { y.engine with powered := true, blank := .blanked, powerUpOwed := false }).startSwitch_begun
      y.engine.selected none (kind := .powerUp) (by decide)
    have hcond : y.powerUp.engine.switchCond = true := hbegun.cond
    have hany : (y.powerUp.engine.inFlight.any fun w => w.kind != .apply) = true := by
      have hcar : y.powerUp.engine.inFlight.map (fun w => (w.kind, w.target, w.requester)) = some (.powerUp, y.engine.selected, none) :=
        hbegun.carries
      cases hf : y.powerUp.engine.inFlight with
      | none => rw [hf] at hcar; exact absurd hcar (by simp)
      | some x =>
        rw [hf] at hcar
        have hx : x.kind = .powerUp := congrArg Prod.fst (Option.some.inj hcar)
        simp [hx]
    rw [h1, h2, hsame]
    refine ⟨hcond.trans hany.symm, ?_⟩
    rw [← hcond]

end Sys2Proof.Machine

end

