-- ==== Sys2Proof/Proofs/LockReplies.lean ====
section
/-! SUPPORT. What the answers to LOCK leave (R96, R97, R99). -/

namespace Sys2Proof.Machine

/-- A switch in LOCKING over its powered, blanked target (R95, R96). -/
structure LockingOn (s : State) (w : Switch) : Prop where
  state : s.engine.state = .locking
  flight : s.engine.inFlight = some w
  power : s.engine.powered = true
  cond : s.engine.switchCond = true
  held : s.engine.compHeld = true
  routed : s.engine.routed = w.target

/-- s with its quick lock of w forgotten, and a full attempt begun (R96). -/
def State.fullAttempt (s : State) (w : Switch) : State :=
  { s with
    sources := s.sources.set w.target { s.source w.target with remembered := none },
    engine := { s.engine with inFlight := some { w with lockMode := some .full, window := some 3000 },
                              lockReq := some { num := s.engine.linkNext, mode := .full, timing := none },
                              linkNext := nextLink s.engine.linkNext } }

/-- s with the switch w ended NO_LOCK, the floor and the ports as given (R97, R99). -/
def State.lockLost (s : State) (w : Switch) (ps : Ports) (f : Floor) : State :=
  { s with ports := ps, floor := f, recallNow := s.recallNow.filter fun c => !Decidable.decide (c.input = w.target),
           engine := { s.engine with state := .idle, inFlight := none, lockReq := none, switchCond := false } }

/-- u with the switch condition of R92 standing. -/
def State.condHeld (u : State) : State := { u with engine := { u.engine with switchCond := true } }

theorem LockingOn.timing {s : State} {w : Switch} (h : LockingOn s w) (ht : (s.source w.target).timing = none) : s.routedSource.timing = none := by
  unfold State.routedSource
  rw [h.routed]
  exact ht

/-- A failed quick attempt gives way to a full one (R96). -/
theorem LockingOn.retries {s : State} {w : Switch} (h : LockingOn s w) (hq : Quiet s) (hm : w.lockMode = some .quick) :
    s.lockFails.finish = s.fullAttempt w := by
  rw [State.lockFails_quick h.state h.flight hm]
  exact State.finish_of_quiet ⟨hq.1, hq.2.1, fun hu => absurd (hu.1.symm.trans h.state) not_unmuting_of_locking⟩

/-- The end NO_LOCK with nothing to follow (R97, R99). -/
theorem LockingOn.noLock_last {s : State} {w : Switch} (h : LockingOn s w) (hq : Quiet s) (hlast : ChainLast s)
    (hor : s.engine.owedRelock = false) (ht : (s.source w.target).timing = none) :
    (s.completeSwitch .noLock).finish = s.lockLost w (s.ports.offerAll [w.ended 0xA1]) { s.floor with marker := false } := by
  rw [State.completeSwitch_finish rfl, State.completeSwitch_idles hq.telling h.flight hq.2.1 hlast hor]
  refine State.watched_same ?_
  have hc : ({ s.idled w with ports := s.ports.offerAll [w.ended 0xA1] } : State).composition = true := by
    have : ({ s.idled w with ports := s.ports.offerAll [w.ended 0xA1] } : State).routedSource = s.routedSource := rfl
    unfold State.composition
    rw [this, h.timing ht]
    simp
  exact h.held.trans hc.symm

/-- The end NO_LOCK with no pending target and no relock owed: the unit's end decides what follows, and the switch condition stands only
for a switch that holds it (R92, R97, R99). -/
theorem LockingOn.noLock_ends {s : State} {w : Switch} (h : LockingOn s w) (hq : Quiet s) (hp : s.engine.pendingTarget = none)
    (hor : s.engine.owedRelock = false) (ht : (s.source w.target).timing = none) :
    let t := (s.completeSwitch .noLock).finish
    t.engine.switchCond = t.engine.inFlight.any (fun x => x.kind != .apply)
      ∧ ∃ y : State, y.Telling (s.idling w) [w.ended 0xA1] ∧ t.condHeld = y.chainEnds.closed s.ports.offerAll := by
  obtain ⟨y, hy, htidy, hend⟩ := State.completeSwitch_noLock hq.telling h.flight hp hor h.cond h.held (h.timing ht)
  obtain ⟨hcond, hsame⟩ := htidy.closed_cond s.ports.offerAll
  intro t
  have hfin : t = (y.chainEnds.setEngine
      { y.chainEnds.engine with switchCond := y.chainEnds.engine.inFlight.any fun w => w.kind != .apply }).closed s.ports.offerAll := by
    change (s.completeSwitch .noLock).finish = _
    rw [State.completeSwitch_finish rfl, hend]
  rw [hfin]
  exact ⟨hcond, y, hy, hsame⟩

/-- What stands once no switch holds the condition. -/
theorem State.eq_of_condHeld {t x : State} (hc : t.engine.switchCond = t.engine.inFlight.any fun y => y.kind != .apply)
    (h : t.condHeld = x.condHeld) (hx : x.engine.inFlight = none) (hf : x.engine.switchCond = false) : t = x := by
  have hin : t.engine.inFlight = none := (congrArg (fun y => y.engine.inFlight) h).trans hx
  have ht : t.engine.switchCond = false := by rw [hc, hin]; rfl
  have back : ∀ y : State, y.engine.switchCond = false → ({ y.condHeld with engine := { y.condHeld.engine with switchCond := false } } : State) = y := by
    intro y hy
    rw [← hy]
    rfl
  rw [← back t ht, ← back x hf, h]

/-- The unit's end after a switch that ended NO_LOCK: a barred holder is freed (R33, R99). -/
theorem LockingOn.noLock_frees {s : State} {w : Switch} (h : LockingOn s w) (hq : Quiet s) (hp : s.engine.pendingTarget = none)
    (hor : s.engine.owedRelock = false) (ht : (s.source w.target).timing = none) (he : s.floor.elect = none) (hb : s.holderBarred = true)
    (hm : s.floor.marker = true) :
    (s.completeSwitch .noLock).finish = s.lockLost w (s.ports.offerAll [w.ended 0xA1, Floor.free.notice]) Floor.free := by
  obtain ⟨hc, y, hy, hend⟩ := h.noLock_ends hq hp hor ht
  refine State.eq_of_condHeld hc ?_ rfl rfl
  have hz := (State.chainEnds_alone hy (show (s.idling w).floor.elect = none from he)).2 hb hm
  rw [hend, hz.closed (.of_idle rfl hq.2.1)]
  unfold State.condHeld State.lockLost
  rw [← h.cond]
  rfl

/-- The unit's end after a switch that ended NO_LOCK: the elect's command is tried (R33, R34, R99). -/
theorem LockingOn.noLock_elect {s : State} {w : Switch} (h : LockingOn s w) (hq : Quiet s) (hp : s.engine.pendingTarget = none)
    (hor : s.engine.owedRelock = false) (ht : (s.source w.target).timing = none) {e : Requester} {c : Cmd}
    (he : s.floor.elect = some (e, c)) (hne : s.floor.holder ≠ some e) (hm : s.floor.marker = true) (i : InputIdx) (p : ProfileIdx)
    (z : SceneIdx) (x : Keystone) (d : Direction) (m : Bool) :
    ElectActs (s.lockLost w (s.ports.offerAll [w.ended 0xA1]) { s.floor with marker := false }).condHeld
      (s.completeSwitch .noLock).finish.condHeld (fun l => s.ports.offerAll (w.ended 0xA1 :: l)) e c i p z x d m := by
  obtain ⟨-, y, hy, hend⟩ := h.noLock_ends hq hp hor ht
  have hy' : y.Telling { s.idling w with ports := s.ports.offerAll [w.ended 0xA1] } [w.ended 0xA1] := by
    obtain ⟨hr, ps, rfl⟩ := hy
    exact ⟨hr, ps, rfl⟩
  have hu : (s.lockLost w (s.ports.offerAll [w.ended 0xA1]) { s.floor with marker := false }).condHeld
      = { ({ s.idling w with ports := s.ports.offerAll [w.ended 0xA1] } : State) with floor := { s.floor with marker := false } } := by
    unfold State.condHeld State.lockLost
    rw [← h.cond]
    rfl
  have hset : ({ s.idling w with ports := s.ports.offerAll [w.ended 0xA1] } : State).Settled := .of_idle rfl hq.2.1
  rw [hend, hu]
  exact State.chainEnds_elect hy' hset hm he hne i p z x d m s.ports.offerAll

/-- HOLD_FLOOR is refused at a hand-over for a lockout alone (R34). -/
theorem State.handOverRefusal_holdFloor {s : State} {e : Requester} (h : s.lockedOut6 e .holdFloor = false) :
    s.handOverRefusal e .holdFloor = none := by
  unfold State.handOverRefusal
  exact if_neg (by rw [show cmdCode .holdFloor = Code.holdFloor from rfl, h]; simp)

/-- The unit's end after a switch that ended NO_LOCK: an elect's HOLD_FLOOR holds the floor (R32, R33). -/
theorem LockingOn.noLock_holds {s : State} {w : Switch} (h : LockingOn s w) (hq : Quiet s) (hp : s.engine.pendingTarget = none)
    (hor : s.engine.owedRelock = false) (ht : (s.source w.target).timing = none) {e : Requester}
    (he : s.floor.elect = some (e, .holdFloor)) (hne : s.floor.holder ≠ some e) (hm : s.floor.marker = true)
    (hl : s.lockedOut6 e .holdFloor = false) :
    let held : Floor := { holder := some e, hold := true, elect := none, marker := false }
    (s.completeSwitch .noLock).finish = s.lockLost w (s.ports.offerAll [w.ended 0xA1, held.notice]) held := by
  have hact := h.noLock_elect hq hp hor ht he hne hm 0 0 0 zeroPair .vUp false
  have hok : (s.lockLost w (s.ports.offerAll [w.ended 0xA1]) { s.floor with marker := false }).condHeld.handOverRefusal e .holdFloor = none :=
    State.handOverRefusal_holdFloor hl
  have hend := (hact.2 hok).2 hok |>.1 rfl
  exact State.eq_of_condHeld (h.noLock_ends hq hp hor ht).1 hend rfl rfl

/-- LOCKED in range over a present input: the timing is recorded and remembered, APPLYING entered and its table handed (R96, R98, R116). -/
theorem LockingOn.locks {s : State} {w : Switch} (h : LockingOn s w) (hq : Quiet s) {l : Timing} (hr : l.inRange = true)
    (hp : (s.source w.target).present = true) :
    let t := (s.lockAnswered l).finish
    LinkOnly (s.inApplying w l) t ∧ t.geo.last = bandTable (s.effectivePair s.profiles.active) t.routedAspect
      ∧ (if s.geo.inTransfer = none then
          t.geo.inTransfer = some { num := s.engine.linkNext, seq := s.geo.nextSeq, table := t.geo.last }
        else t.geo.pendingTable = some t.geo.last ∧ t.geo.inTransfer = s.geo.inTransfer) := by
  obtain ⟨hlink, hlast, hsent⟩ := State.recompute_forced (s := s.inApplying w l) h.power
  have hfin : (s.lockAnswered l).finish = (s.inApplying w l).recompute true := by
    rw [State.lockAnswered_applies h.state h.flight hr hp h.cond h.held h.power]
    refine State.finish_of_quiet ⟨?_, ?_, fun hu => ?_⟩
    · rw [show (s.inApplying w l).recompute true = _ from hlink]
      exact hq.1
    · rw [hlink.engine]
      exact hq.2.1
    · exact absurd (hu.1.symm.trans ((congrArg Engine.state hlink.engine).trans rfl)) (show EngineState.unmuting ≠ .applying by decide)
  intro t
  have ht : t = (s.inApplying w l).recompute true := hfin
  have haspect : ((s.inApplying w l).recompute true).routedAspect = (s.inApplying w l).routedAspect := by
    unfold State.routedAspect State.routedSource State.source
    rw [hlink.sources, hlink.engine]
  rw [ht, hlast, haspect]
  exact ⟨hlink, rfl, hsent⟩

end Sys2Proof.Machine

open Sys2Proof Sys2Proof.Machine

/-- Settles O55, by the answer, the mode of the attempt, and what stands behind the switch. -/
theorem lockReplies : Obligations.LockReplies := by
  unfold Obligations.LockReplies
  intro s k w h f sw q e c i p z x d m hq hk hw hh hf hst hfl hreq hpow hcond hheld hrouted
  have on : LockingOn s sw := ⟨hst, hfl, hpow, hcond, hheld, hrouted⟩
  have hself : s.finish = s := State.finish_of_quiet hq
  let t : Timing := { width := w, height := h, refresh := f }
  have locked : exec (.locked (linkBytes 0x83 k (bytes16 w ++ bytes16 h ++ bytes16 f))) s
      = .next (if q.num = k then (s.lockAnswered t).finish else s) := exec_locked (t := t) hreq hk hw hh hf
  have failed := exec_lockFailed hreq hk
  have window := exec_lockWindowExpiry hself hreq hfl
  have limit := exec_overallLockLimitExpiry hself hst hfl
  refine ⟨fun hn => ⟨?_, ?_, ?_⟩, fun hn => ?_, fun hn hr hp => ?_, fun hn hbad hm => ?_, fun hn hbad hm hl => ?_,
    fun hm => ⟨fun hn => ?_, fun hwin => ?_⟩, fun hm hl => ⟨fun hn => ?_, fun hwin => ?_⟩, fun n hn hl => ?_,
    fun n hn ha hmark => ⟨fun he hb => ?_, fun e he hne hlock => ?_, fun he hne => ?_⟩, fun n hn x hx => ?_⟩
  · rw [locked, if_neg hn]
  · rw [failed, if_neg hn]
  · rw [window, if_neg fun hc => hn hc.2]
  · rw [limit, if_neg hn]
  · obtain ⟨hlink, hlast, hsent⟩ := on.locks hq hr hp
    exact ⟨_, by rw [locked, if_pos hn], hlink, hlast, hsent⟩
  · rw [locked, if_pos hn, State.lockAnswered_fails hst hfl hbad, on.retries hq hm]
    rfl
  · obtain ⟨⟨hpt, hor, ht⟩, he, hb⟩ := hl
    rw [locked, if_pos hn, State.lockAnswered_fails hst hfl hbad, State.lockFails_full hst hfl hm, on.noLock_last hq ⟨hpt, he, hb⟩ hor ht]
    rfl
  · rw [failed, if_pos hn, on.retries hq hm]
    rfl
  · rw [window, if_pos ⟨hwin, rfl⟩, on.retries hq hm]
    rfl
  · obtain ⟨⟨hpt, hor, ht⟩, he, hb⟩ := hl
    rw [failed, if_pos hn, State.lockFails_full hst hfl hm, on.noLock_last hq ⟨hpt, he, hb⟩ hor ht]
    rfl
  · obtain ⟨⟨hpt, hor, ht⟩, he, hb⟩ := hl
    rw [window, if_pos ⟨hwin, rfl⟩, State.lockFails_full hst hfl hm, on.noLock_last hq ⟨hpt, he, hb⟩ hor ht]
    rfl
  · obtain ⟨⟨hpt, hor, ht⟩, he, hb⟩ := hl
    rw [limit, if_pos hn, on.noLock_last hq ⟨hpt, he, hb⟩ hor ht]
    rfl
  · obtain ⟨hpt, hor, ht⟩ := ha
    rw [limit, if_pos hn, on.noLock_frees hq hpt hor ht he hb hmark]
    rfl
  · obtain ⟨hpt, hor, ht⟩ := ha
    rw [limit, if_pos hn, on.noLock_holds hq hpt hor ht he hne hmark hlock]
    rfl
  · obtain ⟨hpt, hor, ht⟩ := ha
    refine ⟨_, by rw [limit, if_pos hn], (on.noLock_ends hq hpt hor ht).1, ?_⟩
    exact on.noLock_elect hq hpt hor ht he hne hmark i p z x d m
  · obtain ⟨hall, hpend, hcarry, _⟩ := (State.completeSwitch_completes hq.telling hfl hq.2.1
      (fun hp => absurd (hp.symm.trans hx) (by simp)) .noLock s.ports.offerAll).2.2 x hx
    refine ⟨_, by rw [limit, if_pos hn, State.completeSwitch_finish rfl], hpend, hcarry, ?_, ?_⟩
    · exact (congrArg State.floor hall).trans rfl
    · exact (congrArg State.ports hall).trans rfl

end

