-- ==== Sys2Proof/Proofs/EntryEntered.lean ====
section
/-! SUPPORT. What an entry that begins does to the lockouts, the deferral and the floor before the lamp is asked for (R146 to R150, R155,
R160, R161). -/

namespace Sys2Proof.Machine

/-! ## An entry that begins, in the words of the statements -/

/-- The schedule's record is carried over to x (R150). -/
def State.entryCarried (u : State) (x : Effective) : Bool :=
  Decidable.decide (kindOf u.schedule.remembered = some x.kind ∧ x.kind ≠ .session)

/-- The record of u's remembered entry is removed (R147). -/
def State.entryRemoves (u : State) (x : Effective) : Bool :=
  !u.entryCarried x
    && Decidable.decide (kindOf u.schedule.remembered = some .exam ∨ kindOf u.schedule.remembered = some .closed)

/-- What u's remembered entry leaves of the lockouts (R147). -/
def State.entryLeft (u : State) (x : Effective) : List Lockout :=
  if u.entryRemoves x then u.lockouts.filter fun l => !l.ofSchedule else u.lockouts

/-- The notices up to the end of a deferral (R146, R155, R160). -/
def State.entryEntered (u : State) (x : Effective) : List Notice :=
  { cls := .schedule, kind := 1, subject := x.index.val, result := 0, extra := entryKindCode x.kind }
    :: lostNotices u.lockouts (u.entryLeft x)
    ++ (if u.schedule.deferral = none then [] else [{ cls := .schedule, kind := 3, subject := 0, result := 2, extra := 0 }])

/-- The kind that an EXAM or CLOSED entry holds in force (R148, R149). -/
def Effective.lock (x : Effective) : LockKind := if x.kind = .closed then .roomClosed else .panelHold

/-- The kind of x comes into force (R160). -/
def State.entryComes (u : State) (x : Effective) : Bool :=
  !u.entryCarried x && Decidable.decide (x.kind ≠ .session) && !((u.entryLeft x).any fun l => l.kind == x.lock)

/-- The schedule's record of x. -/
def State.entryRecord (u : State) (x : Effective) : Lockout :=
  { kind := x.lock, origin := .schedule x.index, reason := none, setAt := u.uptime, expiry := none }

/-- The lockouts under x (R148 to R150). -/
def State.entryLocks (u : State) (x : Effective) : List Lockout :=
  if u.entryCarried x then u.lockouts.map fun l => if l.ofSchedule then { l with origin := .schedule x.index } else l
  else if x.kind = .session then u.entryLeft x
  else insertLockout (u.entryRecord x) (u.entryLeft x)

/-- The notices up to the kind's effects on the floor (R160, R161). -/
def State.entryNotices (u : State) (x : Effective) : List Notice :=
  u.entryEntered x
    ++ if u.entryComes x then
         { cls := .lockout, kind := 1, subject := lockKindCode x.lock, result := 0, extra := 0x10 + x.index.val } :: u.floor.underNotices x.lock
       else []

/-- u under x, the lamp not yet asked for (R146 to R150). -/
def State.entryBase (u : State) (x : Effective) : State :=
  { u with lockouts := u.entryLocks x, floor := if u.entryComes x then u.floor.under x.lock else u.floor,
           schedule := { u.schedule with remembered := some x, deferral := none } }

/-! ## What the previous entry leaves (R147, R155) -/

theorem removesRecord_eq (u : State) (x : Effective) :
    removesRecord (kindOf u.schedule.remembered) (some x.kind) = u.entryRemoves x := by
  unfold State.entryRemoves State.entryCarried
  generalize kindOf u.schedule.remembered = o
  generalize x.kind = n
  cases o with
  | none => cases n <;> decide
  | some o => cases o <;> cases n <;> decide

/-- The entry told, and the previous one's record gone (R146, R147). -/
theorem State.Telling.entryLeaves {u v : State} {pre : List Notice} (hv : v.Telling u pre) (x : Effective) :
    (((v.setSchedule { v.schedule with remembered := some x }).notify (entryNotice (some x))).leaveEntry u.schedule.remembered (some x)).Telling
      { u with lockouts := u.entryLeft x, schedule := { u.schedule with remembered := some x } }
      (pre ++ { cls := .schedule, kind := 1, subject := x.index.val, result := 0, extra := entryKindCode x.kind }
        :: lostNotices u.lockouts (u.entryLeft x)) := by
  let y := (v.setSchedule { v.schedule with remembered := some x }).notify (entryNotice (some x))
  have hy : y.Telling { u with schedule := { u.schedule with remembered := some x } } (pre ++ [entryNotice (some x)]) := by
    obtain ⟨hr, ps, rfl⟩ := hv
    exact ⟨hr, ps, rfl⟩
  have hleave : y.leaveEntry u.schedule.remembered (some x) = if u.entryRemoves x then y.removeLockouts Lockout.ofSchedule else y := by
    unfold State.leaveEntry
    rw [show kindOf (some x) = some x.kind from rfl, removesRecord_eq]
    cases u.schedule.remembered <;> rfl
  change (y.leaveEntry _ _).Telling _ _
  rw [hleave]
  cases hrem : u.entryRemoves x with
  | true =>
    rw [if_pos rfl, show u.entryLeft x = _ from if_pos hrem]
    have := hy.remove Lockout.ofSchedule
    rw [List.append_assoc] at this
    exact this
  | false =>
    rw [if_neg (by simp), show u.entryLeft x = u.lockouts from if_neg (by simp [hrem]), lostNotices_self]
    exact hy

/-- A deferral ends, if one is in progress (R155). -/
theorem State.Telling.endDeferral {u v : State} {pre : List Notice} (hv : v.Telling u pre) (n : Nat) :
    (v.endDeferral n).Telling (u.setDeferral none)
      (pre ++ if u.schedule.deferral = none then [] else [{ cls := .schedule, kind := 3, subject := 0, result := n, extra := 0 }]) := by
  have hd : v.schedule.deferral = u.schedule.deferral := by rw [hv.read State.schedule fun _ _ => rfl]
  unfold State.endDeferral
  rw [hd]
  cases hu : u.schedule.deferral with
  | none =>
    have : u.setDeferral none = u := by
      unfold State.setDeferral State.setSchedule
      rw [← hu]
    rw [if_pos rfl, List.append_nil, this]
    exact hv
  | some d =>
    rw [if_neg (by simp)]
    exact (hv.map (·.setDeferral none) (fun _ _ => rfl) rfl).notify _

/-! ## A kind that comes into force (R36, R37, R160, R161) -/

theorem barredBy_eq (k : LockKind) (r : Requester) : barredBy k r = bars k r := by
  cases k <;> cases r <;> decide

/-- A barred elect is dropped (R36). -/
theorem State.Telling.dropBarredElect {u v : State} {pre : List Notice} (hv : v.Telling u pre) (k : LockKind) :
    (v.dropBarredElect k).Telling (u.setFloor { u.floor with elect := u.floor.elect.filter fun e => !bars k e.1 })
      (pre ++ (u.floor.elect.filter fun e => bars k e.1).toList.map fun e => electDropped e.1 Verdict.lockedOut.code e.2) := by
  have hf : v.floor = u.floor := hv.read State.floor fun _ _ => rfl
  unfold State.dropBarredElect State.dropElect
  rw [hf]
  cases he : u.floor.elect with
  | none =>
    have : u.setFloor { u.floor with elect := none } = u := by
      unfold State.setFloor
      rw [← he]
    simp only [Option.filter_none, Option.toList_none, List.map_nil, List.append_nil]
    rw [this]
    exact hv
  | some e =>
    obtain ⟨e, c⟩ := e
    dsimp only
    rw [barredBy_eq]
    cases hb : bars k e with
    | true =>
      rw [if_pos rfl]
      simp only [Option.filter, hb, if_true, Option.toList_some, List.map_cons, List.map_nil, Bool.not_true, Bool.false_eq_true, if_false]
      exact (hv.map (fun y => y.setElect none) (fun _ _ => rfl) rfl).notify _
    | false =>
      have : u.setFloor { u.floor with elect := some (e, c) } = u := by
        unfold State.setFloor
        rw [← he]
      rw [if_neg (by simp)]
      simp only [Option.filter, hb, Bool.not_false, if_true, Bool.false_eq_true, if_false, Option.toList_none, List.map_nil, List.append_nil]
      rw [this]
      exact hv

/-- The floor with no barred holder, unless a unit is in flight (R37). -/
def Floor.freed (f : Floor) (k : LockKind) : Floor :=
  { f with holder := if f.marker then f.holder else f.holder.filter fun h => !bars k h,
           hold := f.hold && (f.marker || !f.holder.any (bars k)) }

theorem Floor.freed_same {f : Floor} {k : LockKind} (h : (f.holder.any (bars k) && !f.marker) = false) : f.freed k = f := by
  obtain ⟨holder, hold, elect, marker⟩ := f
  unfold Floor.freed
  cases marker with
  | true => simp
  | false =>
    cases holder with
    | none => simp
    | some r =>
      have hb : bars k r = false := by simpa using h
      simp [Option.filter, hb]

theorem Floor.freed_barred {f : Floor} {k : LockKind} (h : (f.holder.any (bars k) && !f.marker) = true) :
    f.freed k = { f with holder := none, hold := false } := by
  obtain ⟨holder, hold, elect, marker⟩ := f
  unfold Floor.freed
  cases holder with
  | none => simp at h
  | some r =>
    obtain ⟨hb, hm⟩ : bars k r = true ∧ marker = false := by simpa using h
    simp [Option.filter, hb, hm]

/-- A barred holder is freed with no unit in flight (R37). -/
theorem State.Telling.freeBarredHolder {u v : State} {pre : List Notice} (hv : v.Telling u pre) (k : LockKind) :
    (v.freeBarredHolder k).Telling (u.setFloor (u.floor.freed k))
      (pre ++ if u.floor.holder.any (bars k) && !u.floor.marker then [Floor.free.notice] else []) := by
  have hf : v.floor = u.floor := hv.read State.floor fun _ _ => rfl
  have hfree : v.freeBarredHolder k =
      if u.floor.holder.any (bars k) && !u.floor.marker then v.freeFloor.notify Floor.free.notice else v := by
    unfold State.freeBarredHolder
    rw [hf]
    cases hh : u.floor.holder with
    | none => rfl
    | some r =>
      have htell : v.freeFloor.tellHolder u.floor = v.freeFloor.notify Floor.free.notice := by
        have hfr : v.freeFloor.floor = { u.floor with holder := none, hold := false } := by rw [← hf]; rfl
        refine (if_neg fun hc => ?_).trans ?_
        · have := hc.1
          rw [hfr, hh] at this
          exact absurd this (by simp)
        · rw [hfr]
          rfl
      dsimp only
      rw [barredBy_eq, htell]
      rfl
  rw [hfree]
  cases hb : u.floor.holder.any (bars k) && !u.floor.marker with
  | true =>
    rw [if_pos rfl, if_pos rfl, Floor.freed_barred hb]
    exact (hv.map State.freeFloor (fun _ _ => rfl) rfl).notify _
  | false =>
    rw [if_neg (by simp), if_neg (by simp), Floor.freed_same hb, List.append_nil]
    exact hv

/-- The floor under a kind that has come into force: the elect first, then the holder (R36, R37). -/
theorem State.Telling.floorUnder {u v : State} {pre : List Notice} (hv : v.Telling u pre) (k : LockKind) :
    ((v.dropBarredElect k).freeBarredHolder k).Telling (u.setFloor (u.floor.under k)) (pre ++ u.floor.underNotices k) := by
  have := (hv.dropBarredElect k).freeBarredHolder k
  rw [List.append_assoc] at this
  exact this

theorem Floor.under_roomClosed (f : Floor) : f.under .roomClosed = f ∧ f.underNotices .roomClosed = [] := by
  have hb : ∀ r, bars .roomClosed r = false := fun r => by cases r <;> decide
  obtain ⟨holder, hold, elect, marker⟩ := f
  unfold Floor.under Floor.underNotices
  have hbars : (bars .roomClosed : Requester → Bool) = fun _ => false := funext hb
  have kept : ∀ {α : Type} (o : Option α), (o.filter fun _ => true) = o := fun o => by cases o <;> rfl
  simp [hbars, kept]

/-- A record placed: told when its kind was not in force, and its kind's effects follow (R160, R161). -/
theorem State.placeLockout_eq (s : State) (l : Lockout) :
    s.placeLockout l =
      if s.inForce l.kind then s.setLockouts (insertLockout l s.lockouts)
      else ((s.setLockouts (insertLockout l s.lockouts)).notify (inForceNotice l.kind l.origin)).comeIntoForce l.kind l.origin := by
  unfold State.placeLockout State.addLockout
  cases s.inForce l.kind <;> rfl

/-! ## The entry's kind (R148 to R150) -/

/-- u under x as far as its own record, the lamp-off of a CLOSED one still to come (R148 to R150). -/
theorem State.Telling.entryBooks {u v : State} {pre : List Notice} (x : Effective)
    (hv : v.Telling { u with lockouts := u.entryLeft x, schedule := { u.schedule with remembered := some x, deferral := none } }
      (pre ++ u.entryEntered x)) :
    ∃ y : State, y.Telling (u.entryBase x) (pre ++ u.entryNotices x)
      ∧ v.bookKind x u.schedule.remembered = if x.kind = .closed ∧ u.entryComes x = true then y.closureOff (.schedule x.index) else y := by
  have quiet : u.entryComes x = false → (v.setLockouts (u.entryLocks x)).Telling (u.entryBase x) (pre ++ u.entryNotices x) := by
    intro hc
    have hn : u.entryNotices x = u.entryEntered x := by
      unfold State.entryNotices
      rw [if_neg (by simp [hc]), List.append_nil]
    have hb : u.entryBase x = { u with lockouts := u.entryLocks x, schedule := { u.schedule with remembered := some x, deferral := none } } := by
      unfold State.entryBase
      rw [if_neg (by simp [hc])]
    rw [hn, hb]
    exact hv.map (·.setLockouts (u.entryLocks x)) (fun _ _ => rfl) rfl
  have hlocks : v.lockouts = u.entryLeft x := hv.read State.lockouts fun _ _ => rfl
  have hup : v.uptime = u.uptime := hv.read State.uptime fun _ _ => rfl
  by_cases hs : x.kind = .session
  · have hcar : u.entryCarried x = false := by simp [State.entryCarried, hs]
    have hcomes : u.entryComes x = false := by simp [State.entryComes, hs]
    have hkeep : v.setLockouts (u.entryLocks x) = v := by
      have : u.entryLocks x = v.lockouts := by
        unfold State.entryLocks
        rw [if_neg (by simp [hcar]), if_pos hs, hlocks]
      rw [this]
      rfl
    refine ⟨v, hkeep ▸ quiet hcomes, ?_⟩
    rw [if_neg (by simp [hs])]
    unfold State.bookKind
    rw [hs]
  · have hbook : v.bookKind x u.schedule.remembered = v.bookLockout x u.schedule.remembered x.lock := by
      unfold State.bookKind Effective.lock
      cases hk : x.kind with
      | session => exact absurd hk hs
      | exam => rfl
      | closed => rfl
    rw [hbook]
    by_cases hkind : kindOf u.schedule.remembered = some x.kind
    · have hcar : u.entryCarried x = true := by simp [State.entryCarried, hkind, hs]
      have hcomes : u.entryComes x = false := by simp [State.entryComes, hcar]
      have hleft : u.entryLeft x = u.lockouts := by simp [State.entryLeft, State.entryRemoves, hcar]
      refine ⟨_, quiet hcomes, ?_⟩
      rw [if_neg (by simp [hcomes])]
      unfold State.bookLockout
      rw [if_pos hkind]
      unfold State.renameSchedule State.entryLocks
      rw [if_pos hcar, hlocks, hleft]
    · have hcar : u.entryCarried x = false := by simp [State.entryCarried, hkind]
      have hl : u.entryLocks x = insertLockout (u.entryRecord x) (u.entryLeft x) := by
        unfold State.entryLocks
        rw [if_neg (by simp [hcar]), if_neg hs]
      have hplace : v.bookLockout x u.schedule.remembered x.lock = v.placeLockout (u.entryRecord x) := by
        unfold State.bookLockout State.entryRecord
        rw [if_neg hkind, hup]
      have hforce : v.inForce x.lock = (u.entryLeft x).any fun l => l.kind == x.lock := by rw [← hlocks]; rfl
      have hcomes : u.entryComes x = !((u.entryLeft x).any fun l => l.kind == x.lock) := by simp [State.entryComes, hcar, hs]
      rw [hplace, State.placeLockout_eq, show (u.entryRecord x).kind = x.lock from rfl, hforce, hlocks, ← hl]
      cases hin : (u.entryLeft x).any fun l => l.kind == x.lock with
      | true =>
        rw [hin] at hcomes
        exact ⟨_, quiet hcomes, by rw [if_pos rfl, if_neg (by simp [hcomes])]⟩
      | false =>
        rw [hin, Bool.not_false] at hcomes
        have hn : u.entryNotices x = u.entryEntered x ++ (inForceNotice x.lock (.schedule x.index) :: u.floor.underNotices x.lock) := by
          unfold State.entryNotices
          rw [if_pos hcomes]
          rfl
        have hb : u.entryBase x = { u with lockouts := u.entryLocks x, floor := u.floor.under x.lock, schedule := { u.schedule with remembered := some x, deferral := none } } := by
          unfold State.entryBase
          rw [if_pos hcomes]
        have hy := (hv.map (·.setLockouts (u.entryLocks x)) (fun _ _ => rfl) rfl).notify (inForceNotice x.lock (.schedule x.index))
        rw [List.append_assoc] at hy
        rw [if_neg (by simp), hn, hb]
        by_cases hclosed : x.kind = .closed
        · have hlock : x.lock = .roomClosed := if_pos hclosed
          obtain ⟨hunder, hsame⟩ := u.floor.under_roomClosed
          refine ⟨_, ?_, by rw [if_pos ⟨hclosed, hcomes⟩, hlock]; rfl⟩
          rw [hlock, hunder, hsame]
          rw [hlock] at hy
          exact hy
        · have hlock : x.lock = .panelHold := if_neg hclosed
          refine ⟨_, ?_, by rw [if_neg fun h => hclosed h.1]⟩
          rw [hlock] at hy ⊢
          have := hy.floorUnder .panelHold
          simp only [List.append_assoc] at this
          exact this

end Sys2Proof.Machine

end

