-- ==== Sys2Proof/Proofs/BookingBegins.lean ====
section
/-! SUPPORT. SCHEDULE's LAMP_ON and recall as an entry begins, and the entry's beginning as a whole (R40, R47, R54, R61, R132 to R135, R146
to R151). -/

namespace Sys2Proof.Machine

/-! ## SCHEDULE's commands (R6, R19, R40, R151) -/

/-- SCHEDULE's LAMP_ON is let through (R19, R151). -/
def State.scheduleLights (s : State) : Bool := s.resetWait.isNone && (s.innerRefusal .schedule .lampOn).isNone

/-- SCHEDULE's recall of k is refused before the floor (R19, R151). -/
def State.scheduleRefuses (s : State) (k : SceneIdx) : Bool :=
  s.resetWait.isSome || (s.innerRefusal .schedule (.recallScene k)).isSome

/-- A command formed inside the part: refused, or run. -/
theorem State.innerIntake_eq (s : State) (r : Requester) (c : Cmd) (rest : State → State × Reply) :
    (s.innerIntake r c rest).1 = if s.resetWait.isSome || (s.innerRefusal r c).isSome then s else (rest s).1 := by
  unfold State.innerIntake
  cases s.resetWait with
  | some x => rfl
  | none => cases s.innerRefusal r c <;> rfl

theorem State.scheduleLampOn (s : State) :
    (s.innerLampOn .schedule).1 = if s.scheduleLights then (s.lampOn .schedule).1 else s := by
  have hrun : (s.runLampOn .schedule).1 = (s.lampOn .schedule).1 := rfl
  unfold State.innerLampOn State.scheduleLights
  rw [State.innerIntake_eq, hrun]
  cases s.resetWait with
  | some x => rfl
  | none => cases s.innerRefusal .schedule .lampOn <;> rfl

theorem State.scheduleRecall (s : State) (k : SceneIdx) :
    (s.innerFloor .schedule (.recallScene k)).1 =
      if s.scheduleRefuses k then s else (s.floorIntake .schedule (.recallScene k)).1 := s.innerIntake_eq _ _ _

/-! ## A recall of SCHEDULE at the floor (R28 to R31, R40) -/

theorem floorHeld_congr {s t : State} (h : t.floor = s.floor) (r : Requester) : FloorHeld t r = FloorHeld s r := by
  unfold FloorHeld
  rw [h]

theorem floorBusy_congr {s t : State} (h : t.floor = s.floor) (r : Requester) : FloorBusy t r = FloorBusy s r := by
  unfold FloorBusy
  rw [floorHeld_congr h, h]

theorem floorWaits_congr {s t : State} (h : t.floor = s.floor) (r : Requester) : FloorWaits t r = FloorWaits s r := by
  unfold FloorWaits
  rw [floorHeld_congr h, h]

theorem floorOpens_congr {s t : State} (h : t.floor = s.floor) (r : Requester) : FloorOpens t r = FloorOpens s r := by
  unfold FloorOpens
  rw [h]

theorem State.lateRefusal_recallScene (s : State) (r : Requester) (k : SceneIdx) : s.lateRefusal r (.recallScene k) = none := rfl

/-- s with the floor passed to r, and that told (R31, R39). -/
def State.taking (s : State) (r : Requester) : State :=
  { s with floor := s.floor.taken r, raised := s.raised ++ s.floor.takenNotice r }

theorem State.floorIntake_refused {s : State} (k : SceneIdx) (h : FloorHeld s .schedule ∨ FloorBusy s .schedule) :
    (s.floorIntake .schedule (.recallScene k)).1 = s := by
  unfold State.floorIntake
  rcases h with h | h
  · rw [State.decide_of_held h]
  · rw [State.decide_of_busy h]

theorem State.floorIntake_opens {s : State} (k : SceneIdx) (h : FloorOpens s .schedule) :
    (s.floorIntake .schedule (.recallScene k)).1 = (s.taking .schedule).acted .schedule (.recallScene k) := by
  have hd := State.decide_of_opens h
  unfold State.floorIntake
  by_cases hh : s.floor.holder = some .schedule
  · rw [if_pos hh] at hd
    have htake : s.taking .schedule = s := by
      unfold State.taking Floor.taken Floor.takenNotice
      rw [if_pos hh, if_pos hh, List.append_nil]
    rw [hd, State.lateRefusal_recallScene, htake]
    have htell : (s.touch .schedule).tellHolder s.floor = s := if_pos ⟨rfl, rfl⟩
    exact (State.proceed_acted _ _ _ (by simp)).trans (congrArg (·.acted .schedule (.recallScene k)) htell)
  · rw [if_neg hh] at hd
    have htake : s.taking .schedule = (s.passFloor .schedule).notify (s.floor.taken .schedule).notice := by
      unfold State.taking Floor.takenNotice
      rw [if_neg hh]
      unfold Floor.taken
      rw [if_neg hh]
      rfl
    rw [hd, State.lateRefusal_recallScene, htake]
    have htell : ((s.touch .schedule).passFloor .schedule).tellHolder s.floor
        = (s.passFloor .schedule).notify (s.passFloor .schedule).floor.notice :=
      State.tellHolder_changed (s := s.passFloor .schedule) (f := s.floor) fun hc => hh hc.symm
    have hf : (s.floor.taken .schedule).notice = (s.passFloor .schedule).floor.notice := by
      unfold Floor.taken
      rw [if_neg hh]
      rfl
    rw [hf]
    exact (State.proceed_acted _ _ _ (by simp)).trans (congrArg (·.acted .schedule (.recallScene k)) htell)

theorem State.floorIntake_waits {s : State} (k : SceneIdx) (h : FloorWaits s .schedule) :
    (s.floorIntake .schedule (.recallScene k)).1 =
      { s with floor := { s.floor with elect := some (.schedule, .recallScene k) }, raised := s.raised ++ s.floor.displacedNotice } := by
  unfold State.floorIntake
  rw [State.decide_of_waits h, State.lateRefusal_recallScene]
  change s.becomeElect .schedule (.recallScene k) = _
  unfold State.becomeElect Floor.displacedNotice
  cases s.floor.elect with
  | none =>
    simp only [Option.toList_none, List.map_nil, List.append_nil]
    rfl
  | some e => rfl

/-! ## The recall after the lamp (R133, R151) -/

/-- u with the lamp as SCHEDULE's LAMP_ON leaves it where no strike begins (R54). -/
def State.scheduleLit (u : State) : State :=
  { u with lamp :=
      if u.scheduleLights = true ∧ u.lamp.state = .cooldown then { u.lamp with pendingOn := some (.requester .schedule) }
      else if u.scheduleLights = true ∧ u.lamp.state = .warmup then { u.lamp with heldOff := false } else u.lamp }

theorem State.scheduleLit_state (u : State) : u.scheduleLit.lamp.state = u.lamp.state := by
  unfold State.scheduleLit
  dsimp only
  split
  · rfl
  · split <;> rfl

/-- SCHEDULE's LAMP_ON where no strike begins. -/
theorem State.Telling.scheduleLit {u v : State} {pre : List Notice} (hv : v.Telling u pre)
    (h : u.scheduleLights = false ∨ u.lamp.state ≠ .off) : (v.innerLampOn .schedule).1.Telling u.scheduleLit pre := by
  have hl : v.lamp = u.lamp := hv.read State.lamp fun _ _ => rfl
  have hon : v.scheduleLights = u.scheduleLights := hv.read State.scheduleLights fun _ _ => rfl
  rw [State.scheduleLampOn, hon]
  unfold State.scheduleLit
  cases hc : u.scheduleLights with
  | false => simpa using hv
  | true =>
    have hne := h.resolve_left (by simp [hc])
    unfold State.lampOn
    rw [hl]
    cases hs : u.lamp.state with
    | off => exact absurd hs hne
    | warmup => exact hv.map (·.setLamp { u.lamp with heldOff := false }) (fun _ _ => rfl) rfl
    | cooldown => exact hv.map (·.setLamp { u.lamp with pendingOn := some (.requester .schedule) }) (fun _ _ => rfl) rfl
    | striking => simpa using hv
    | retryPause => simpa using hv
    | lit => simpa using hv
    | fault => simpa using hv

theorem insertLockout_any (l : Lockout) (ls : List Lockout) (p : Lockout → Bool) : (insertLockout l ls).any p = (p l || ls.any p) := by
  induction ls with
  | nil => rfl
  | cons x r ih =>
    unfold insertLockout
    split
    · rfl
    · rw [List.any_cons, ih, List.any_cons, Bool.or_left_comm]

/-- A change of the wear state brings no SERVICE_LOCK (R166). -/
theorem State.rebanded_serviceLock (s : State) : s.rebanded.inForce .serviceLock = s.inForce .serviceLock := by
  unfold State.rebanded State.inForce
  dsimp only
  split
  · split
    · rw [insertLockout_any]
      rfl
    · rw [List.any_map]
      congr 1
      funext l
      simp only [Function.comp]
      split <;> rfl
  · rfl

/-- What SCHEDULE's recall meets before the floor: SERVICE_LOCK, and a disabled input (R13, R132). -/
theorem State.innerRefusal_schedule_recall (s : State) (k : SceneIdx) :
    s.innerRefusal .schedule (.recallScene k) =
      if s.inForce .serviceLock then some .lockedOut else if s.enabled s.scenes[k].input then none else some .badValue := by
  have hmay : s.mayUse .schedule .recallScene = true := by
    change scheduleClasses.getLsbD (classBit (codeClass .recallScene)) = true
    decide
  have h6 : s.lockedOut6 .schedule .recallScene = false := by
    unfold State.lockedOut6
    rw [show atLectern .schedule = false from rfl, show (Code.recallScene == .lampOn) = false from by decide]
    simp
  have h5 : s.lockedOut5 .schedule .recallScene = s.inForce .serviceLock := by
    unfold State.lockedOut5
    cases s.inForce .serviceLock <;> rfl
  unfold State.innerRefusal
  simp only [cmdCode, hmay, h5, h6]
  cases s.inForce .serviceLock
  · unfold State.ownerRefusal
    change (if (!s.enabled s.scenes[k].input) = true then _ else _) = _
    cases s.enabled s.scenes[k].input <;> rfl
  · rfl

/-- The strike changes nothing that SCHEDULE's recall meets. -/
theorem Struck.floor {u S : State} (h : Struck u S) : S.floor = u.floor := by rw [h.saved.1]; rfl

theorem Struck.scheduleRefuses {u S : State} (h : Struck u S) (k : SceneIdx) :
    S.scheduleRefuses k = u.scheduleRefuses k := by
  have hlock : S.inForce .serviceLock = u.inForce .serviceLock := by
    have : S.inForce .serviceLock = (u.struck 1).rebanded.inForce .serviceLock := by rw [h.saved.1]; rfl
    rw [this, State.rebanded_serviceLock]
    rfl
  have hscenes : S.scenes = u.scenes := by rw [h.saved.1]; rfl
  have hw : S.resetWait.isSome = u.resetWait.isSome := by
    rcases h.saved.2.2.1 with h | ⟨hu, hS⟩
    · rw [h]
      rfl
    · have hu' : u.resetWait = some .toBegin := hu
      rw [hS, hu']
      rfl
  unfold State.scheduleRefuses
  rw [hw, State.innerRefusal_schedule_recall, State.innerRefusal_schedule_recall, hlock, hscenes]
  unfold State.enabled State.source
  rw [h.sources]

/-- The floor may pass once the strike has begun. -/
theorem Struck.taking {u S : State} (h : Struck u S) (r : Requester) : Struck { u with floor := u.floor.taken r } (S.taking r) := by
  obtain ⟨⟨he, hw, hr, ho⟩, hlock, him, heng⟩ := h
  have hf : S.floor = u.floor := by rw [he]; rfl
  refine ⟨⟨?_, hw, hr, ho⟩, hlock, him, heng⟩
  unfold State.taking
  rw [hf]
  conv_lhs => rw [he]
  rfl

/-! ## The beginning of an entry (R146 to R151) -/

/-- The evaluation that finds entry x, up to the lamp. -/
theorem State.evaluate_begun {u v : State} {pre : List Notice} (hv : v.Telling u pre) {x : Effective} (he : u.effective = some x)
    (hr : u.schedule.remembered ≠ some x) :
    ∃ y : State, y.Telling (u.entryBase x) (pre ++ u.entryNotices x)
      ∧ v.evaluate =
        (let b := if x.kind = .closed ∧ u.entryComes x = true then y.closureOff (.schedule x.index) else y
         if x.kind = .closed then b else ((b.innerLampOn .schedule).1).bookScene x u.schedule.remembered) := by
  have hleft := (hv.entryLeaves x).endDeferral 2
  rw [List.append_assoc] at hleft
  have hrem : v.schedule.remembered = u.schedule.remembered := by rw [hv.read State.schedule fun _ _ => rfl]
  have heff : v.effective = some x := by rw [hv.read State.effective fun _ _ => rfl, he]
  obtain ⟨y, hy, hbook⟩ := State.Telling.entryBooks (u := u) x hleft
  refine ⟨y, hy, ?_⟩
  dsimp only
  rw [← hbook]
  unfold State.evaluate State.enterEntry
  rw [heff, hrem]
  exact (if_neg fun h => hr h.symm).trans rfl

/-- The scene recalled unless the entry before had it (R148). -/
theorem State.bookScene_eq (s : State) {x : Effective} {k : SceneIdx} (hk : x.scene = some k) (old : Option Effective) :
    s.bookScene x old =
      if (kindOf old = some .session ∨ kindOf old = some .exam) ∧ old.bind Effective.scene = some k then s
      else (s.innerFloor .schedule (.recallScene k)).1 := by
  have ht : teaching (kindOf old) = true ↔ kindOf old = some .session ∨ kindOf old = some .exam := by
    cases kindOf old with
    | none => simp [teaching]
    | some o => cases o <;> simp [teaching]
  unfold State.bookScene
  rw [hk]
  simp only [ht]

/-- SCHEDULE's LAMP_ON and recall where no strike begins, as told. -/
theorem State.Telling.scheduleScene {u v : State} {pre : List Notice} (hv : v.Telling u pre) (hs : u.Settled) (k : SceneIdx)
    (h : u.scheduleLights = false ∨ u.lamp.state ≠ .off) (tell : List Notice → Ports) :
    let t := (((v.innerLampOn .schedule).1.innerFloor .schedule (.recallScene k)).1).closed tell
    (u.scheduleRefuses k = true ∨ FloorHeld u .schedule ∨ FloorBusy u .schedule → t = { u.scheduleLit with ports := tell pre })
      ∧ (u.scheduleRefuses k = false → FloorOpens u .schedule → u.recallLights .schedule k = false ∨ u.lamp.state ≠ .off →
        Recalls { u.scheduleLit with floor := u.floor.taken .schedule } t
          (fun _ l => tell (pre ++ u.floor.takenNotice .schedule ++ l)) .schedule k)
      ∧ (u.scheduleRefuses k = false → FloorWaits u .schedule →
        t = { u.scheduleLit with ports := tell (pre ++ u.floor.displacedNotice),
                                 floor := { u.floor with elect := some (.schedule, .recallScene k) } }) := by
  have hlit := hv.scheduleLit h
  have hset : u.scheduleLit.Settled := hs.congr rfl rfl
  have href : (v.innerLampOn .schedule).1.scheduleRefuses k = u.scheduleRefuses k := hlit.read (·.scheduleRefuses k) fun _ _ => rfl
  have hfloor : (v.innerLampOn .schedule).1.floor = u.floor := hlit.read State.floor fun _ _ => rfl
  generalize (v.innerLampOn .schedule).1 = y at hlit href hfloor
  rw [State.scheduleRecall, href]
  refine ⟨fun hbad => ?_, fun hr ho hl => ?_, fun hr hw => ?_⟩
  · have : (if u.scheduleRefuses k = true then y else (y.floorIntake .schedule (.recallScene k)).1) = y := by
      rcases hbad with hr | hf
      · rw [if_pos hr]
      · rw [State.floorIntake_refused k (by rw [floorHeld_congr hfloor, floorBusy_congr hfloor]; exact hf), ite_self]
    rw [this, hlit.closed hset]
  · rw [hr, if_neg (by simp), State.floorIntake_opens k (by rw [floorOpens_congr hfloor]; exact ho)]
    have htake : (y.taking .schedule).Telling { u.scheduleLit with floor := u.floor.taken .schedule } (pre ++ u.floor.takenNotice .schedule) := by
      unfold State.taking
      rw [hfloor]
      obtain ⟨hr, ps, rfl⟩ := hlit
      exact ⟨hr, ps, rfl⟩
    refine State.acted_recalls htake (hset.congr rfl rfl) .schedule k ?_ tell
    exact hl.imp (fun h => h) fun h => by rw [show ({ u.scheduleLit with floor := u.floor.taken .schedule } : State).lamp.state = _ from u.scheduleLit_state]; exact h
  · rw [hr, if_neg (by simp), State.floorIntake_waits k (by rw [floorWaits_congr hfloor]; exact hw), hfloor]
    have hwait : ({ y with floor := { u.floor with elect := some (.schedule, .recallScene k) }, raised := y.raised ++ u.floor.displacedNotice } : State).Telling
        { u.scheduleLit with floor := { u.floor with elect := some (.schedule, .recallScene k) } } (pre ++ u.floor.displacedNotice) := by
      obtain ⟨hr, ps, rfl⟩ := hlit
      exact ⟨hr, ps, rfl⟩
    rw [hwait.closed (hset.congr rfl rfl)]

/-- SCHEDULE's LAMP_ON that strikes, and its recall in the same action, as told. -/
theorem State.Telling.scheduleStrikes {u v : State} {pre : List Notice} (hv : v.Telling u pre) (hs : u.Settled) (k : SceneIdx)
    (hon : u.scheduleLights = true) (hl : u.lamp.state = .off) (tell : List Notice → Ports) :
    let t := (((v.innerLampOn .schedule).1.innerFloor .schedule (.recallScene k)).1).closed tell
    (u.scheduleRefuses k = true ∨ FloorHeld u .schedule ∨ FloorBusy u .schedule → Lights u t (fun _ l => tell (pre ++ l)) .schedule)
      ∧ (EngineSound u → u.engine.powered = false → u.engine.blankReq = none → u.scheduleRefuses k = false → FloorOpens u .schedule →
        Relights { u with floor := u.floor.taken .schedule } t
          (tell (pre ++ lampNotice 1 1 :: (u.struck 1).bandNotices ++ u.floor.takenNotice .schedule)) .schedule k) := by
  obtain ⟨hst, hraised⟩ := State.strike_struck hv hl
  have hlamp : (v.innerLampOn .schedule).1 = (v.lampOn .schedule).1 := by
    rw [State.scheduleLampOn, hv.read State.scheduleLights fun _ _ => rfl, if_pos hon]
  have hstrike : (v.lampOn .schedule).1 = v.strike := by
    unfold State.lampOn
    rw [hv.read State.lamp fun _ _ => rfl, hl]
  have href := hst.scheduleRefuses k
  have hfloor := hst.floor
  have hlights := State.lampOn_lights hv hs .schedule tell
  rw [hlamp]
  rw [hstrike] at hlights ⊢
  rw [State.scheduleRecall, href]
  refine ⟨fun hbad => ?_, fun hsound hp hb hr ho => ?_⟩
  · have : (if u.scheduleRefuses k = true then v.strike else (v.strike.floorIntake .schedule (.recallScene k)).1) = v.strike := by
      rcases hbad with hr | hf
      · rw [if_pos hr]
      · rw [State.floorIntake_refused k (by rw [floorHeld_congr hfloor, floorBusy_congr hfloor]; exact hf), ite_self]
    rw [this]
    exact hlights
  · rw [hr, if_neg (by simp), State.floorIntake_opens k (by rw [floorOpens_congr hfloor]; exact ho)]
    have htold : (v.strike.taking .schedule).raised = pre ++ lampNotice 1 1 :: (u.struck 1).bandNotices ++ u.floor.takenNotice .schedule := by
      rw [← hraised, ← hfloor]
      rfl
    rw [← htold]
    exact (hst.taking .schedule).relit hv.1 hsound hp hb .schedule k tell

/-- An entry's beginning, as told (R146 to R151). -/
theorem State.evaluate_begins {u v : State} {pre : List Notice} (hv : v.Telling u pre) (hs : u.Settled) {x : Effective}
    (he : u.effective = some x) (hr : u.schedule.remembered ≠ some x) (tell : List Notice → Ports) :
    EntryBegins u (v.evaluate.closed tell) (fun l => tell (pre ++ l)) x := by
  obtain ⟨y, hy, heq⟩ := State.evaluate_begun hv he hr
  have hset : (u.entryBase x).Settled := hs.congr rfl rfl
  dsimp only at heq
  refine ⟨fun hk => ⟨fun hc => ?_, fun hc => ?_⟩, fun k hsc hk => ⟨fun hsame => ⟨fun hon => ?_, fun hon => ?_⟩,
    fun hsame => ⟨fun h => ?_, fun hon hl => ?_⟩⟩⟩
  · have hc' : u.entryComes x = false := hc
    rw [if_pos hk, if_neg (by simp [hc'])] at heq
    rw [heq, hy.closed hset]
    rfl
  · rw [if_pos hk, if_pos ⟨hk, hc⟩] at heq
    rw [heq]
    have := State.lampOff_darkens hy hset tell
    simp only [List.append_assoc] at this
    exact this
  all_goals rw [if_neg hk, if_neg fun h => hk h.1, State.bookScene_eq _ hsc] at heq
  · rw [if_pos (of_decide_eq_true hsame), State.scheduleLampOn, hy.read State.scheduleLights fun _ _ => rfl] at heq
    rw [if_neg (by rw [show (u.entryBase x).scheduleLights = false from hon]; simp)] at heq
    rw [heq, hy.closed hset]
    rfl
  · rw [if_pos (of_decide_eq_true hsame), State.scheduleLampOn, hy.read State.scheduleLights fun _ _ => rfl] at heq
    rw [if_pos (show (u.entryBase x).scheduleLights = true from hon)] at heq
    rw [heq]
    have := State.lampOn_lights hy hset .schedule tell
    simp only [List.append_assoc] at this
    exact this
  · rw [if_neg (of_decide_eq_false hsame)] at heq
    rw [heq]
    obtain ⟨hno, hpass, hwait⟩ := hy.scheduleScene hset k h tell
    have htold : (fun (_ : Reply) l => tell (pre ++ u.entryNotices x ++ (u.entryBase x).floor.takenNotice .schedule ++ l))
        = fun _ l => tell (pre ++ (u.entryNotices x ++ (u.entryBase x).floor.takenNotice .schedule ++ l)) := by
      simp only [List.append_assoc]
    rw [htold] at hpass
    rw [List.append_assoc] at hwait
    exact ⟨hno, hpass, hwait⟩
  · rw [if_neg (of_decide_eq_false hsame)] at heq
    rw [heq]
    obtain ⟨hno, hpass⟩ := hy.scheduleStrikes hset k hon hl tell
    have htold : (fun (_ : Verdict) l => tell (pre ++ u.entryNotices x ++ l)) = fun _ l => tell (pre ++ (u.entryNotices x ++ l)) := by
      simp only [List.append_assoc]
    have hall : ∀ l m : List Notice, pre ++ u.entryNotices x ++ l ++ m = pre ++ (u.entryNotices x ++ l ++ m) := by
      simp only [List.append_assoc, implies_true]
    rw [htold] at hno
    rw [hall] at hpass
    exact ⟨hno, hpass⟩

end Sys2Proof.Machine

open Sys2Proof Sys2Proof.Machine

/-- Settles O39: the clock set or advanced, and the evaluation that finds an entry. -/
theorem bookingBegins : Obligations.BookingBegins := by
  unfold Obligations.BookingBegins
  intro s x p tag m w k hq hr
  have hset := hq.settled
  refine ⟨fun hc he => ?_, fun hm hw hk h he => ?_⟩
  · have tickTelling : (s.setClock s.clock.tick).Telling (s.setClock s.clock.tick) [] :=
      hq.telling.map (·.setClock s.clock.tick) (fun _ _ => rfl) rfl
    have hrow : exec (.clockMinuteTick s.clock.run) s = .next s.minuteTick.finish := congrArg Host.Outcome.next (if_pos rfl)
    have hadv : s.minuteTick = (s.setClock s.clock.tick).evaluate := if_pos hc
    have hp : (s.setClock s.clock.tick).evaluate.ports = (s.setClock s.clock.tick).ports := State.ports_of_room (State.evaluate_room _)
    have hfin : (s.setClock s.clock.tick).evaluate.finish = (s.setClock s.clock.tick).evaluate.closed s.ports.offerAll := State.finish_closed hp
    rw [hrow, hadv, hfin]
    exact ⟨_, rfl, State.evaluate_begins tickTelling (hset.congr rfl rfl) he hr _⟩
  · rw [exec_setClock hm hw hk h]
    exact ⟨_, rfl, State.evaluate_begins (hq.popped p m w k) (hset.congr rfl rfl) he hr _⟩

end

