-- ==== Sys2Proof/Proofs/StartStore.lean ====
section
/-! SUPPORT. What a start finds in the store: the lockouts it restores and the first writes (R168, R169, R182 to R185). -/

namespace Sys2Proof.Machine

/-! ## Restored lockouts (R169, R182) -/

/-- A restored SERVICE_LOCK. -/
def serviceLocked (e : Option Nat) : Lockout :=
  { kind := .serviceLock, origin := .manual .service, reason := none, setAt := 0, expiry := e }

/-- A restored LAMP_LOCK. -/
def lampLocked (r : LockReason) : Lockout := { kind := .lampLock, origin := .lamp, reason := some r, setAt := 0, expiry := none }

/-- What a start may restore: at most one record of each kind, in set order. -/
def startLocks (e : Option (Option Nat)) (r : Option LockReason) : List Lockout :=
  (e.map serviceLocked).toList ++ (r.map lampLocked).toList

theorem LockImage.valid_cases {l : LockImage} (h : l.valid = true) :
    (∃ e, l = { kind := .serviceLock, origin := .manual .service, reason := none, expiry := e })
      ∨ ∃ r, l = { kind := .lampLock, origin := .lamp, reason := some r, expiry := none } := by
  obtain ⟨kind, origin, reason, expiry⟩ := l
  unfold LockImage.valid at h
  rcases Bool.or_eq_true_iff.mp h with h | h
  · obtain ⟨⟨⟨hk, ho⟩, hr⟩, -⟩ : ((kind = .serviceLock ∧ origin = .manual .service) ∧ reason = none) ∧ expiryFits expiry = true := by
      simpa using h
    exact .inl ⟨expiry, by rw [hk, ho, hr]⟩
  · obtain ⟨⟨⟨hk, ho⟩, hr⟩, he⟩ : ((kind = .lampLock ∧ origin = .lamp) ∧ reason.isSome = true) ∧ expiry = none := by simpa using h
    obtain ⟨r, hr⟩ := Option.isSome_iff_exists.mp hr
    exact .inr ⟨r, by rw [hk, ho, hr, he]⟩

/-- The records of a valid LOCKOUT image, by kind. -/
def relock (l : List LockImage) : List Lockout :=
  ((l.filter fun x => x.kind == .serviceLock) ++ l.filter fun x => x.kind == .lampLock).map LockImage.restored

/-- A valid LOCKOUT image holds at most one record of each kind, and they are restored in set order (R159, R182). -/
theorem relock_shape {l : List LockImage} (h : lockImagesValid l = true) :
    ∃ e r, relock l = startLocks e r ∧ l.foldl (fun set x => insertLockout x.restored set) [] = startLocks e r := by
  unfold lockImagesValid at h
  obtain ⟨⟨hall, hs⟩, hl⟩ : ((∀ x ∈ l, x.valid = true) ∧ (l.filter fun x => x.kind == .serviceLock).length ≤ 1)
      ∧ (l.filter fun x => x.kind == .lampLock).length ≤ 1 := by simpa using h
  have hlen : l.length ≤ 2 := by
    have hother : (l.filter fun x => !(x.kind == .serviceLock)) = l.filter fun x => x.kind == .lampLock :=
      List.filter_congr fun x hx => by rcases LockImage.valid_cases (hall x hx) with ⟨e, rfl⟩ | ⟨r, rfl⟩ <;> rfl
    have := List.length_eq_length_filter_add (l := l) fun x => x.kind == .serviceLock
    rw [hother] at this
    omega
  match l with
  | [] => exact ⟨none, none, rfl, rfl⟩
  | [a] =>
    rcases LockImage.valid_cases (hall a (by simp)) with ⟨e, rfl⟩ | ⟨r, rfl⟩
    · exact ⟨some e, none, rfl, rfl⟩
    · exact ⟨none, some r, rfl, rfl⟩
  | [a, b] =>
    rcases LockImage.valid_cases (hall a (by simp)) with ⟨e, rfl⟩ | ⟨r, rfl⟩ <;>
      rcases LockImage.valid_cases (hall b (by simp)) with ⟨f, rfl⟩ | ⟨q, rfl⟩
    · simp at hs
    · exact ⟨some e, some q, rfl, rfl⟩
    · exact ⟨some f, some r, rfl, rfl⟩
    · simp at hl
  | a :: b :: c :: t =>
    simp only [List.length_cons] at hlen
    omega

/-- The lockouts a start restores (R169). -/
theorem Memory.relocked_shape (m : Memory) : ∃ e r, m.relocked = startLocks e r ∧ m.loadLockouts = startLocks e r := by
  have hsame : m.relocked = relock (if m.valid .lockout then m.lockouts else []) := rfl
  unfold Memory.loadLockouts Memory.take
  rw [hsame]
  cases hv : m.valid .lockout with
  | false => exact ⟨none, none, rfl, rfl⟩
  | true =>
    have hok : lockImagesValid m.lockouts = true := by
      unfold Memory.valid at hv
      exact (Bool.and_eq_true_iff.mp hv).2
    exact relock_shape hok

/-! ## Records that fail (R182) -/

theorem mem_allRecords (r : RecordId) : r ∈ allRecords := by
  cases r <;> simp [allRecords]

theorem Memory.mem_failed {m : Memory} {r : RecordId} : r ∈ m.failed ↔ m.valid r = false := by
  unfold Memory.failed
  rw [List.mem_filter, Bool.not_eq_true']
  exact and_iff_right (mem_allRecords r)

/-- A start's working values are those of the records, or the factory values (R182). -/
theorem State.load_imageOf (s : State) (sig : Vector Bool 6) {r : RecordId} (hw : r ≠ .wear) (hl : r ≠ .lockout) :
    (s.load sig).imageOf r = s.memory.started r := by
  have htake : ∀ {α : Type} (f : α → Image) (c d : α), s.memory.holds r = f c → r.factory = f d →
      f (s.memory.take r c d) = s.memory.started r := by
    intro α f c d hc hd
    unfold Memory.take Memory.started
    rw [hc, hd]
    exact apply_ite f _ _ _
  cases r with
  | authority => exact htake .authority _ _ rfl rfl
  | wear => exact absurd rfl hw
  | lockout => exact absurd rfl hl
  | profile p =>
    have : (s.load sig).profiles.stored[p] = s.memory.take (.profile p) s.memory.profiles[p] zeroPair := by
      change s.memory.loadProfiles[p] = _
      simp [Memory.loadProfiles]
    exact (congrArg (Image.profile p) this).trans (htake (.profile p) _ _ rfl rfl)
  | scene k =>
    have : (s.load sig).scenes[k] = s.memory.take (.scene k) s.memory.scenes[k] (Scene.factory k) := by
      change s.memory.loadScenes[k] = _
      simp [Memory.loadScenes]
    exact (congrArg (Image.scene k) this).trans (htake (.scene k) _ _ rfl rfl)
  | entry e =>
    have : (s.load sig).schedule.entries[e] = s.memory.take (.entry e) s.memory.entries[e] Entry.factory := by
      change s.memory.loadEntries[e] = _
      simp [Memory.loadEntries]
    exact (congrArg (Image.entry e) this).trans (htake (.entry e) _ _ rfl rfl)
  | source n =>
    have : ((s.load sig).source n).settings = s.memory.take (.source n) s.memory.sources[n] SourceSettings.factory := by
      change ((s.memory.loadSources sig)[n]).settings = _
      simp [Memory.loadSources]
    exact (congrArg (Image.source n) this).trans (htake (.source n) _ _ rfl rfl)
  | config => exact htake .config _ _ rfl rfl

/-- A record that fails is written back as its factory value (R182). -/
theorem State.load_imageOf_failed (s : State) (sig : Vector Bool 6) {r : RecordId} (hw : r ≠ .wear) (hv : s.memory.valid r = false) :
    (s.load sig).imageOf r = r.factory := by
  by_cases hl : r = .lockout
  · subst hl
    change Image.lockout (((s.memory.loadLockouts).filter Lockout.persistent).map Lockout.image) = _
    unfold Memory.loadLockouts Memory.take
    rw [hv]
    rfl
  · rw [s.load_imageOf sig hw hl]
    exact if_neg (by simp [hv])

/-! ## The first writes (R183 to R185) -/

/-- A start's first write: WEAR's factory value, or that of the failed record with the lowest code (R182, R185). -/
def Memory.firstWrite (m : Memory) : Option Image :=
  match m.failed with
  | r :: _ => some (if m.valid .wear then r.factory else RecordId.wear.factory)
  | [] => none

theorem Memory.firstWrite_wear {m : Memory} (h : m.valid .wear = false) : m.firstWrite = some RecordId.wear.factory := by
  have hm := Memory.mem_failed.mpr h
  unfold Memory.firstWrite
  cases hf : m.failed with
  | nil => rw [hf] at hm; exact absurd hm (by simp)
  | cons r rest => rw [h]; rfl

/-- The store's working state once a start's first write has begun (R182, R185). -/
def Memory.firstStore (m : Memory) (writes : Nat) : Store :=
  { inFlight := m.firstWrite,
    slot := none, retry := none, queue := [],
    repair := if m.valid .wear then m.failed.tail else m.failed.filter (· != .wear), fault := false,
    writes := if m.failed = [] then writes else writes + 1 }

theorem State.load_kick (s : State) (sig : Vector Bool 6) :
    (s.load sig).kick = { s.load sig with store := s.memory.firstStore s.store.writes } := by
  have hidle : ¬ ((s.load sig).store.inFlight.isSome = true ∨ (s.load sig).store.fault = true) := by
    simp [State.load, Memory.loadStore]
  unfold State.kick
  rw [if_neg hidle]
  cases hv : s.memory.valid .wear with
  | false =>
    have hslot : (s.load sig).store.slot = some WearRecord.factory := if_neg (by simp [hv])
    have hne : s.memory.failed ≠ [] := List.ne_nil_of_mem (Memory.mem_failed.mpr hv)
    rw [hslot]
    unfold Memory.firstStore
    rw [Memory.firstWrite_wear hv, hv, if_neg (by simp), if_neg hne]
    rfl
  | true =>
    have hslot : (s.load sig).store.slot = none := if_pos hv
    have hrep : (s.load sig).store.repair = s.memory.failed := by
      refine List.filter_eq_self.mpr fun r hr => ?_
      have : r ≠ .wear := fun h => by
        rw [h, Memory.mem_failed, hv] at hr
        exact absurd hr (by simp)
      simpa using this
    have hretry : (s.load sig).store.retry = none := rfl
    have hqueue : (s.load sig).store.queue = [] := rfl
    rw [hslot, hretry, hqueue, hrep]
    unfold Memory.firstStore Memory.firstWrite
    rw [hv]
    cases hf : s.memory.failed with
    | nil =>
      have hload : (s.load sig).store = { s.memory.loadStore s.store.writes with slot := none, repair := [] } := by
        rw [← hslot, ← hf, ← hrep]
        rfl
      change s.load sig = _
      conv_lhs => rw [show s.load sig = { s.load sig with store := (s.load sig).store } from rfl, hload]
      rfl
    | cons r rest =>
      have hr : s.memory.valid r = false := Memory.mem_failed.mp (by rw [hf]; simp)
      have hw : r ≠ .wear := fun h => by rw [h, hv] at hr; exact absurd hr (by simp)
      change (s.load sig).beginRepair r rest = _
      unfold State.beginRepair Store.start
      rw [s.load_imageOf_failed sig hw hr, hslot]
      rfl

end Sys2Proof.Machine

end

