-- ==== Sys2Proof/Proofs/StartSteps.lean ====
section
/-! SUPPORT. The start, step by step: the wear state, the lockouts, the lamp (R44, R59, R65, R69, R81, R117, R169). -/

namespace Sys2Proof.Machine

/-! ## The store behind the first write (R77, R184, R185) -/

/-- The store once the lockout table is saved, with nothing queued before (R184, R185). -/
def Store.locked (q : Store) (i : Image) : Store :=
  if q.inFlight.isSome then { q with queue := [.lockout], repair := q.repair.filter (· != .lockout) }
  else { q with inFlight := some i, queue := [], repair := q.repair.filter (· != .lockout), writes := q.writes + 1 }

/-- The store once a checkpoint is taken (R77, R185). -/
def Store.marked (q : Store) (r : WearRecord) : Store :=
  if q.inFlight.isSome then { q with slot := some r } else { q with inFlight := some (.wear r), slot := none, writes := q.writes + 1 }

theorem State.saveLockouts_start {s : State} (hq : s.store.queue = []) (hs : s.store.slot = none) (hr : s.store.retry = none)
    (hf : s.store.fault = false) (ho : s.saveOwed = false) :
    s.saveLockouts = { s with store := s.store.locked (s.imageOf .lockout) } := by
  have happ : s.appended .lockout
      = { s with store := { s.store with queue := [.lockout], repair := s.store.repair.filter (· != .lockout) } } := by
    unfold State.appended State.setStore
    rw [hq]
    rfl
  have hsave : s.saveLockouts = (s.appended .lockout).kick := by
    unfold State.saveLockouts
    rw [State.queueRecord_eq, hq]
    rfl
  rw [hsave]
  unfold Store.locked
  by_cases hi : s.store.inFlight.isSome = true
  · rw [State.kick_busy (s := s.appended .lockout) (.inl hi), if_pos hi]
    exact happ
  · have hidle : ¬ ((s.appended .lockout).store.inFlight.isSome = true ∨ (s.appended .lockout).store.fault = true) := by
      rw [State.appended_inFlight, show (s.appended .lockout).store.fault = false from hf]
      exact not_or.mpr ⟨hi, by simp⟩
    have hqueue : (s.appended .lockout).store.queue = [.lockout] := by rw [happ]
    have howed : (s.appended .lockout).saveOwed = false := ho
    unfold State.kick
    rw [if_neg hidle, if_neg hi, show (s.appended .lockout).store.slot = none from hs,
      show (s.appended .lockout).store.retry = none from hr, hqueue]
    change (s.appended .lockout).beginQueued .lockout [] = _
    unfold State.beginQueued
    rw [howed]
    rfl

theorem State.checkpoint_start {s : State} (hf : s.store.fault = false) (hr : s.wear.replacement = .settled) (hw : s.resetWait = none) :
    s.checkpoint = { s with wear := { s.wear with sinceCheckpoint := 0 }, store := s.store.marked s.wear.record } := by
  unfold Store.marked
  by_cases hi : s.store.inFlight.isSome = true
  · rw [if_pos hi]
    exact State.checkpoint_busy (.inl hi)
  · have hnone : s.store.inFlight = none := by simpa using hi
    have hwear : ({ s.wear with sinceCheckpoint := 0, replacement := s.wear.replacement.begun } : Wear) = { s.wear with sinceCheckpoint := 0 } := by
      rw [show s.wear.replacement.begun = s.wear.replacement from by rw [hr]; rfl]
    rw [State.checkpoint_idle hnone hf, hwear, if_neg hi]
    have hwait : s.resetWait.map SlotWait.begun = s.resetWait := by rw [hw]; rfl
    rw [hwait]

/-! ## The expired lamp and the notices (R81, R169) -/

/-- The reason under which the lamp is locked once a start has looked at the wear state (R81). -/
def startReason (b : WearBand) (r : Option LockReason) : Option LockReason := if b = .expired then some .expired else r

theorem startLocks_image (e : Option (Option Nat)) (r : Option LockReason) : (startLocks e r).any (fun l => l.origin == .thermal) = false := by
  cases e <;> cases r <;> rfl

/-- An expired lamp is locked at a start, told with the restored records (R81, R169). -/
theorem State.startExpired_eq {s : State} {e : Option (Option Nat)} {r : Option LockReason} (hl : s.lockouts = startLocks e r)
    (hu : s.uptime = 0) (hq : s.store.queue = []) (hs : s.store.slot = none) (hr : s.store.retry = none)
    (hf : s.store.fault = false) (ho : s.saveOwed = false) :
    s.startExpired =
      if s.wear.band = .expired ∧ r ≠ some .expired then
        { s with lockouts := startLocks e (some .expired),
                 store := s.store.locked (({ s with lockouts := startLocks e (some .expired) } : State).imageOf .lockout) }
      else s := by
  have hexp : s.expiredLocked = true ↔ r = some .expired := by
    unfold State.expiredLocked
    rw [hl]
    cases e <;> cases r with
    | none => simp [startLocks, serviceLocked]
    | some r => cases r <;> simp [startLocks, serviceLocked, lampLocked]
  have hcond : (s.wear.band = .expired ∧ (!s.expiredLocked) = true) ↔ (s.wear.band = .expired ∧ r ≠ some .expired) := by
    rw [Bool.not_eq_true', ← Bool.not_eq_true, hexp]
  unfold State.startExpired
  by_cases hc : s.wear.band = .expired ∧ r ≠ some .expired
  · rw [if_pos (hcond.mpr hc), if_pos hc]
    have hadd : ∃ l : List Notice, s.addLampLock .expired = ({ s with lockouts := startLocks e (some .expired), raised := l } : State).saveLockouts := by
      unfold State.addLampLock State.lampRecord
      rw [hl]
      cases r with
      | none =>
        have hfind : (startLocks e none).find? (fun l => l.origin == .lamp) = none := by cases e <;> rfl
        have hins : insertLockout { kind := .lampLock, origin := .lamp, reason := some .expired, setAt := s.uptime, expiry := none } s.lockouts
            = startLocks e (some .expired) := by
          rw [hl, hu]
          cases e <;> rfl
        rw [hfind]
        refine ⟨if s.inForce .lampLock then s.raised else s.raised ++ [inForceNotice .lampLock .lamp], ?_⟩
        dsimp only
        unfold State.addLockout
        rw [hins]
        cases s.inForce .lampLock <;> rfl
      | some r =>
        have hfind : (startLocks e (some r)).find? (fun l => l.origin == .lamp) = some (lampLocked r) := by cases e <;> rfl
        have hmap : s.lockouts.map Lockout.expire = startLocks e (some .expired) := by
          rw [hl]
          cases e <;> rfl
        have hre : LockReason.expired = .expired ∧ (lampLocked r).reason ≠ some .expired := ⟨rfl, hc.2⟩
        rw [hfind]
        refine ⟨s.raised, ?_⟩
        rw [← hmap]
        exact (if_pos hre).trans (by rw [hl]; rfl)
    obtain ⟨l, hadd⟩ := hadd
    rw [hadd, State.saveLockouts_start (s := { s with lockouts := startLocks e (some .expired), raised := l }) hq hs hr hf ho]
    rfl
  · rw [if_neg (fun h => hc (hcond.mp h)), if_neg hc]

/-- The IN_FORCE notices of a start (R169). -/
def startNotes (e : Option (Option Nat)) (r : Option LockReason) : List Notice :=
  (if e.isSome then [{ cls := .lockout, kind := 1, subject := 2, result := 0, extra := 0 }] else [])
    ++ (if r.isSome then [{ cls := .lockout, kind := 1, subject := 3, result := 0, extra := 0x40 }] else [])

theorem State.startNotices_eq {s : State} {e : Option (Option Nat)} {r : Option LockReason} (hl : s.lockouts = startLocks e r) :
    s.startNotices = { s with raised := s.raised ++ startNotes e r } := by
  have hfind : ∀ k : LockKind, (startLocks e r).find? (fun l => l.kind == k)
      = match k with
        | .serviceLock => e.map serviceLocked
        | .lampLock => r.map lampLocked
        | _ => none := by
    intro k
    cases e <;> cases r <;> cases k <;> rfl
  unfold State.startNotices allKinds startNotes
  conv_lhs => simp only [hl, hfind, List.foldl_cons, List.foldl_nil]
  cases e with
  | none =>
    cases r with
    | none => simp
    | some r => rfl
  | some e =>
    cases r with
    | none => rfl
    | some r =>
      change ({ s with raised := (s.raised ++ [_]) ++ [_] } : State) = _
      rw [List.append_assoc]
      rfl

end Sys2Proof.Machine

end

