-- ==== Sys2Proof/Proofs/StartState.lean ====
section
/-! SUPPORT. The start's lamp and its whole state before the schedule is evaluated (R44, R59, R65, R69, R81, R117, R169, R182). -/

namespace Sys2Proof.Machine

/-! ## The lamp (R44, R65, R69) -/

/-- The level at a start: ECO for a worn lamp (R44, R65). -/
def startLevel (b : WearBand) : Level := if worn b then .eco else .normal

theorem spent_eq (b : WearBand) : spent b = worn b := by cases b <;> rfl

theorem State.startLamp_level (s : State) : s.startLamp =
    (let x := s.setLamp { s.lamp with level := startLevel s.wear.band }
     if x.lines.lampSense ∨ x.wear.record.litMarker then x.startCooling
     else if x.inForce .lampLock then x.enterLamp .fault none else x.enterLamp .off none) := by
  unfold State.startLamp startLevel
  rw [spent_eq]

/-- A start that finds the arc alight, or the marker of one: COOLDOWN, an unclean-off counted, and a checkpoint (R65, R69, R76). -/
theorem State.startLamp_cold {s : State} {n : Nat} (hc : (s.lines.lampSense || s.wear.record.litMarker) = true) (hd : s.lamp = Lamp.dark n)
    (hf : s.store.fault = false) (hr : s.wear.replacement = .settled) (hw : s.resetWait = none) :
    s.startLamp =
      { s with
        lamp := { Lamp.dark n with level := startLevel s.wear.band, state := .cooldown, timer := some 90, run := n + 1,
                                   faultPending := s.inForce .lampLock, startUp := true },
        wear := { s.wear with running := false, sinceCheckpoint := 0, record := s.wear.record.restarted true },
        store := s.store.marked (s.wear.record.restarted true), raised := s.raised ++ [lampNotice 5 0] } := by
  let x := s.setLamp { s.lamp with level := startLevel s.wear.band }
  have hcool : s.startLamp = x.startCooling := by
    rw [State.startLamp_level]
    exact if_pos (Bool.or_eq_true_iff.mp hc)
  let record : WearRecord :=
    if s.wear.record.litMarker then { s.wear.record with uncleanOffs := min 65535 (s.wear.record.uncleanOffs + 1) } else s.wear.record
  let y : State :=
    { s with
      lamp := { Lamp.dark n with level := startLevel s.wear.band, state := .cooldown, timer := some 90, run := n + 1,
                                 faultPending := s.inForce .lampLock, startUp := true },
      wear := { s.wear with record := record }, raised := s.raised ++ [lampNotice 5 0] }
  have hun : (if x.wear.record.litMarker = true then x.bookUnclean else x) = x.setRecord record := by
    by_cases hm : s.wear.record.litMarker = true
    · rw [show record = _ from if_pos hm]
      exact if_pos hm
    · rw [show record = _ from if_neg hm]
      exact if_neg hm
  have hy : x.startCooling = y.bookCooldown := by
    have hx : x = { s with lamp := { Lamp.dark n with level := startLevel s.wear.band } } := by
      change s.setLamp { s.lamp with level := startLevel s.wear.band } = _
      rw [hd]
      rfl
    unfold State.startCooling
    rw [hun, hx]
    rfl
  have hrestart : ({ record with litMarker := false } : WearRecord) = s.wear.record.restarted true := by
    unfold WearRecord.restarted
    rw [if_pos rfl]
    by_cases hm : s.wear.record.litMarker = true
    · rw [show record = _ from if_pos hm, if_pos hm]
    · rw [show record = _ from if_neg hm, if_neg hm]
  have hbook : y.bookCooldown = (y.setWear { s.wear with running := false, record := s.wear.record.restarted true }).checkpoint := by
    rw [← hrestart]
    rfl
  rw [hcool, hy, hbook]
  exact (State.checkpoint_start (s := y.setWear { s.wear with running := false, record := s.wear.record.restarted true }) hf hr hw).trans rfl

/-- A start that finds the arc out: FAULT under a LAMP_LOCK, else OFF (R65). -/
theorem State.startLamp_dark {s : State} {n : Nat} (hc : (s.lines.lampSense || s.wear.record.litMarker) = false) (hd : s.lamp = Lamp.dark n) :
    s.startLamp =
      { s with
        lamp := { Lamp.dark n with level := startLevel s.wear.band, state := if s.inForce .lampLock then .fault else .off },
        raised := s.raised ++ [lampNotice (if s.inForce .lampLock then 6 else 0) 0] } := by
  rw [State.startLamp_level, hd]
  have hneg : ¬ (s.lines.lampSense = true ∨ s.wear.record.litMarker = true) := by
    rw [← Bool.or_eq_true_iff, hc]
    simp
  refine (if_neg hneg).trans ?_
  have hforce : (s.setLamp { Lamp.dark n with level := startLevel s.wear.band }).inForce .lampLock = s.inForce .lampLock := rfl
  dsimp only
  rw [hforce]
  cases s.inForce .lampLock <;> rfl

/-! ## An asserted THERM_HOT (R59, R65) -/

/-- The record of an overheat at a start. -/
def thermalLocked : Lockout := { kind := .thermalLock, origin := .thermal, reason := none, setAt := 0, expiry := none }

/-- Its notice. -/
def thermalNote : Notice := { cls := .lockout, kind := 1, subject := 4, result := 0, extra := 0x41 }

/-- The lamp after an overheat in the start state (R59). -/
def Lamp.heated (l : Lamp) (hot : Bool) : Lamp :=
  if hot = true ∧ l.state = .cooldown then { l with timer := some 180, run := l.run + 1, pendingOn := none } else l

theorem State.heatLamp_cooldown {s : State} (h : s.lamp.state = .cooldown) :
    s.heatLamp = s.setLamp { s.lamp with timer := some 180, run := s.lamp.run + 1, pendingOn := none } := by
  unfold State.heatLamp
  conv_lhs => rw [h]
  rfl

theorem State.startHeat_eq {s : State} {e : Option (Option Nat)} {r : Option LockReason} (hl : s.lockouts = startLocks e r)
    (hu : s.uptime = 0) (hs : s.lamp.state = .off ∨ s.lamp.state = .fault ∨ s.lamp.state = .cooldown) :
    s.startHeat =
      { s with lamp := s.lamp.heated s.lines.thermHot,
               lockouts := startLocks e r ++ (if s.lines.thermHot then [thermalLocked] else []),
               raised := s.raised ++ (if s.lines.thermHot then [thermalNote] else []) } := by
  unfold State.startHeat
  cases hh : s.lines.thermHot with
  | false =>
    have hsame : s.lamp.heated false = s.lamp := if_neg fun h => absurd h.1 (by decide)
    simp only [Bool.false_eq_true, if_false, hsame, List.append_nil]
    rw [← hl]
  | true =>
    have hlamp : s.heatLamp = s.setLamp (s.lamp.heated true) := by
      unfold Lamp.heated
      by_cases h : s.lamp.state = .cooldown
      · rw [if_pos ⟨rfl, h⟩]
        exact State.heatLamp_cooldown h
      · rw [if_neg fun hc => h hc.2]
        unfold State.heatLamp
        rcases hs with hs | hs | hs
        · rw [hs]
          rfl
        · rw [hs]
          rfl
        · exact absurd hs h
    have hadd : ∀ x : State, x.lockouts = startLocks e r → x.uptime = 0 →
        x.addThermal = { x with lockouts := startLocks e r ++ [thermalLocked], raised := x.raised ++ [thermalNote] } := by
      intro x hx hux
      have hpres : x.thermalPresent = false := by
        unfold State.thermalPresent
        rw [hx, startLocks_image]
      have hforce : x.inForce .thermalLock = false := by
        unfold State.inForce
        rw [hx]
        cases e <;> cases r <;> rfl
      have hins : insertLockout { kind := .thermalLock, origin := .thermal, reason := none, setAt := x.uptime, expiry := none } x.lockouts
          = startLocks e r ++ [thermalLocked] := by
        rw [hx, hux]
        cases e <;> cases r <;> rfl
      unfold State.addThermal State.addLockout
      rw [hpres, hforce, hins]
      rfl
    rw [if_pos rfl]
    unfold State.heat
    rw [hlamp]
    exact (hadd (s.setLamp (s.lamp.heated true)) hl hu).trans rfl

/-! ## The whole start (R65, R81, R117, R169, R182) -/

/-- The wear record a start takes (R182). -/
def Memory.foundWear (m : Memory) : WearRecord := if m.valid .wear then m.wear else .factory

/-- The wear state a start finds (R71, R81). -/
def Memory.foundBand (m : Memory) : WearBand := bandOfRatio (wearRatio m.foundWear.wu m.loadConfig.ratedLife)

/-- A start that finds the lamp expired, and not yet locked for it (R81). -/
def Memory.expires (m : Memory) (r : Option LockReason) : Bool := Decidable.decide (m.foundBand = .expired ∧ r ≠ some .expired)

/-- The reason of the LAMP_LOCK in force after a start (R81). -/
def Memory.lockReason (m : Memory) (r : Option LockReason) : Option LockReason := if m.expires r then some .expired else r

/-- The start is one in COOLDOWN (R65). -/
def State.startCold (s : State) : Bool := s.lines.lampSense || s.memory.foundWear.litMarker

/-- The store at the end of a start (R77, R168, R185). -/
def State.startStore (s : State) (e : Option (Option Nat)) (r : Option LockReason) : Store :=
  let first := s.memory.firstStore s.store.writes
  let saved := if s.memory.expires r then
      first.locked (.lockout (((startLocks e (s.memory.lockReason r)).filter Lockout.persistent).map Lockout.image))
    else first
  if s.startCold then saved.marked (s.memory.foundWear.restarted true) else saved

/-- The lamp at the end of a start (R44, R65). -/
def State.startedLamp (s : State) (r : Option LockReason) : Lamp :=
  let dark := { Lamp.dark s.lamp.run with level := startLevel s.memory.foundBand }
  let locked := (s.memory.lockReason r).isSome
  Lamp.heated
    (if s.startCold then
      { dark with state := .cooldown, timer := some 90, run := s.lamp.run + 1, faultPending := locked, startUp := true }
    else { dark with state := if locked then .fault else .off }) s.lines.thermHot

/-- The notices of a start (R41, R160, R169, R182). -/
def State.startRaised (s : State) (e : Option (Option Nat)) (r : Option LockReason) : List Notice :=
  s.memory.failed.map defaultedNotice ++ startNotes e (s.memory.lockReason r)
    ++ [lampNotice (if s.startCold then 5 else if (s.memory.lockReason r).isSome then 6 else 0) 0]
    ++ (if s.lines.thermHot then [thermalNote] else [])

/-- The start but for the schedule's evaluation, with e and r the lockouts that the store holds. -/
def State.started (s : State) (sig : Vector Bool 6) (e : Option (Option Nat)) (r : Option LockReason) : State :=
  { s.load sig with
    geo := { (s.load sig).geo with last := (s.load sig).computed },
    wear := { (s.load sig).wear with band := s.memory.foundBand, warnReported := s.memory.foundBand != .good,
                                     record := s.memory.foundWear.restarted s.startCold },
    lockouts := startLocks e (s.memory.lockReason r) ++ (if s.lines.thermHot then [thermalLocked] else []),
    lamp := s.startedLamp r, store := s.startStore e r, raised := s.startRaised e r }

theorem Store.locked_fault (q : Store) (i : Image) : (q.locked i).fault = q.fault := by
  unfold Store.locked
  split <;> rfl

theorem startLocks_lampLock (e : Option (Option Nat)) (r : Option LockReason) :
    ((startLocks e r).any fun l => l.kind == .lampLock) = r.isSome := by cases e <;> cases r <;> rfl

/-- The start up to the lockouts: load, first write, table, wear state, and the lock of an expired lamp (R81, R117, R182). -/
def State.startSaved (s : State) (sig : Vector Bool 6) (e : Option (Option Nat)) (r : Option LockReason) : State :=
  { s.load sig with
    geo := { (s.load sig).geo with last := (s.load sig).computed },
    wear := { (s.load sig).wear with band := s.memory.foundBand, warnReported := s.memory.foundBand != .good },
    lockouts := startLocks e (s.memory.lockReason r),
    store := if s.memory.expires r then
        (s.memory.firstStore s.store.writes).locked
          (.lockout (((startLocks e (s.memory.lockReason r)).filter Lockout.persistent).map Lockout.image))
      else s.memory.firstStore s.store.writes }

theorem State.startSaved_eq {s : State} (sig : Vector Bool 6) {e : Option (Option Nat)} {r : Option LockReason}
    (hl : s.memory.loadLockouts = startLocks e r) :
    (s.load sig).kick.startTable.startBand.startExpired = s.startSaved sig e r := by
  let x : State := { s.load sig with
    geo := { (s.load sig).geo with last := (s.load sig).computed },
    wear := { (s.load sig).wear with band := s.memory.foundBand, warnReported := s.memory.foundBand != .good },
    store := s.memory.firstStore s.store.writes }
  have hx : (s.load sig).kick.startTable.startBand = x := by rw [State.load_kick]; rfl
  rw [hx, State.startExpired_eq (s := x) hl rfl rfl rfl rfl rfl rfl]
  unfold State.startSaved Memory.lockReason
  by_cases hc : s.memory.foundBand = .expired ∧ r ≠ some .expired
  · have he : s.memory.expires r = true := decide_eq_true hc
    rw [if_pos hc, he]
    rfl
  · have he : s.memory.expires r = false := decide_eq_false hc
    rw [if_neg hc, he]
    change x = { x with lockouts := startLocks e r }
    rw [← hl]
    rfl

theorem State.started_eq {s : State} (sig : Vector Bool 6) {e : Option (Option Nat)} {r : Option LockReason}
    (hl : s.memory.loadLockouts = startLocks e r) :
    (s.load sig).kick.startTable.startBand.startExpired.startNotices.startLamp.startHeat = s.started sig e r := by
  rw [State.startSaved_eq sig hl, State.startNotices_eq (s := s.startSaved sig e r) (e := e) (r := s.memory.lockReason r) rfl]
  let y : State := { s.startSaved sig e r with raised := s.memory.failed.map defaultedNotice ++ startNotes e (s.memory.lockReason r) }
  change y.startLamp.startHeat = _
  have hforce : y.inForce .lampLock = (s.memory.lockReason r).isSome := startLocks_lampLock e _
  have hfault : y.store.fault = false := by
    change (if s.memory.expires r then _ else _ : Store).fault = false
    split
    · exact Store.locked_fault _ _
    · rfl
  cases hc : s.startCold with
  | true =>
    rw [State.startLamp_cold (s := y) (n := s.lamp.run) hc rfl hfault rfl rfl, State.startHeat_eq (e := e) (r := s.memory.lockReason r) rfl rfl (.inr (.inr rfl))]
    unfold State.started State.startedLamp State.startStore State.startRaised
    rw [hc, ← hforce]
    rfl
  | false =>
    have hs : ∀ b : Bool, (if b then LampState.fault else .off) = .off ∨ (if b then LampState.fault else .off) = .fault
        ∨ (if b then LampState.fault else .off) = .cooldown := by decide
    rw [State.startLamp_dark (s := y) (n := s.lamp.run) hc rfl, State.startHeat_eq (e := e) (r := s.memory.lockReason r) rfl rfl (hs (y.inForce .lampLock))]
    unfold State.started State.startedLamp State.startStore State.startRaised
    rw [hc, ← hforce]
    rfl

end Sys2Proof.Machine

end

