-- ==== Sys2Proof/Proofs/RoomRebuilt.lean ====
section
/-! SUPPORT. A start with no entry to govern, in the words of the statements (R25, R46, R59, R65, R67, R69, R76, R81, R90, R117, R123, R130,
R156, R168, R169, R172, R173, R182 to R185, R188). -/

namespace Sys2Proof.Machine

/-! ## The store at the end of a start (R77, R183 to R185) -/

/-- The store at the end of a start, as the statements have it. -/
theorem State.startStore_eq (s : State) (e : Option (Option Nat)) (r : Option LockReason) :
    let m := s.memory
    let q := s.startStore e r
    let record := m.foundWear.restarted true
    q.fault = false ∧ q.retry = none
      ∧ q.inFlight =
        (match m.failed with
         | r :: _ => some (if m.valid .wear then r.factory else RecordId.wear.factory)
         | [] => if m.expires r then some (.lockout (((startLocks e (m.lockReason r)).filter Lockout.persistent).map Lockout.image))
             else if s.startCold then some (.wear record) else none)
      ∧ q.slot = (if s.startCold && (m.expires r || !m.failed.isEmpty) then some record else none)
      ∧ q.queue = (if m.expires r && !m.failed.isEmpty then [.lockout] else [])
      ∧ q.repair = ((if m.valid .wear then m.failed.tail else m.failed.filter (· != .wear)).filter fun x => !(m.expires r && x == .lockout)) := by
  dsimp only
  generalize hi : Image.lockout (((startLocks e (s.memory.lockReason r)).filter Lockout.persistent).map Lockout.image) = i
  have hkeep : ∀ l : List RecordId, (l.filter fun x => !(false && x == .lockout)) = l := fun l => List.filter_eq_self.mpr fun _ _ => rfl
  unfold State.startStore Memory.firstStore Memory.firstWrite
  rw [hi]
  cases hf : s.memory.failed with
  | nil =>
    cases s.memory.expires r <;> cases s.startCold <;> cases s.memory.valid .wear <;> simp [Store.locked, Store.marked]
  | cons x rest =>
    generalize (if s.memory.valid .wear = true then x.factory else RecordId.wear.factory) = first
    generalize (if s.memory.valid .wear = true then (x :: rest).tail else (x :: rest).filter (· != .wear)) = repair
    cases s.memory.expires r <;> cases s.startCold <;> simp [Store.locked, Store.marked, bne]

/-! ## The whole state (R182) -/

/-- The state after a start with no entry to govern, the ports as given. -/
def State.startedWith (s : State) (sig : Vector Bool 6) (e : Option (Option Nat)) (r : Option LockReason) (ps : Ports) : State :=
  { s.started sig e r with ports := ps, raised := [] }

/-- The lamp's unclean-offs do not enter the wear ratio (R71). -/
theorem WearRecord.restarted_wu (r : WearRecord) (b : Bool) : (r.restarted b).wu = r.wu := by
  unfold WearRecord.restarted
  split <;> rfl

theorem State.startedWith_ratio (s : State) (sig : Vector Bool 6) (e : Option (Option Nat)) (r : Option LockReason) (ps : Ports) :
    bandOfRatio (s.startedWith sig e r ps).ratio = s.memory.foundBand := by
  change bandOfRatio (wearRatio (s.memory.foundWear.restarted s.startCold).wu s.memory.loadConfig.ratedLife) = _
  rw [WearRecord.restarted_wu]
  rfl

/-- The lockouts after a start, as the statements have them (R81, R169). -/
theorem startLocks_expired (e : Option (Option Nat)) (r : Option LockReason) :
    ((startLocks e r).filter fun l => l.kind != .lampLock)
      ++ [{ kind := .lampLock, origin := .lamp, reason := some .expired, setAt := 0, expiry := none }] = startLocks e (some .expired) := by
  cases e <;> cases r <;> rfl

theorem startLocks_reason (e : Option (Option Nat)) (r : Option LockReason) :
    ((startLocks e r).any fun l => l.reason == some .expired) = Decidable.decide (r = some .expired) := by
  cases e <;> cases r with
  | none => rfl
  | some r => cases r <;> rfl

theorem startLocks_serviceLock (e : Option (Option Nat)) (r : Option LockReason) :
    ((startLocks e r).any fun l => l.kind == .serviceLock) = e.isSome := by cases e <;> cases r <;> rfl

/-- The effective pair of a profile without trials is its stored one (R126). -/
theorem State.started_effectivePair (s : State) (sig : Vector Bool 6) (p : ProfileIdx) :
    (s.load sig).effectivePair p = (s.load sig).profiles.stored[p] := by
  have hslot : ∀ t : SlotIdx, (s.load sig).slot t = none := fun t => by
    change (Vector.replicate 2 (none : Option Trial))[t] = none
    simp
  have hw : (s.load sig).winner p = none := by
    unfold State.winner State.overlays
    rw [hslot, hslot]
    rfl
  unfold State.effectivePair
  rw [hw]

/-- The lamp at the end of a start, as the statements have it (R44, R65). -/
theorem State.startedLamp_eq (s : State) (r : Option LockReason) :
    let cold := s.startCold
    let hot := s.lines.thermHot
    let locked := (s.memory.lockReason r).isSome
    s.startedLamp r =
      { state := if cold then .cooldown else if locked then .fault else .off,
        timer := if cold then some (if hot then 180 else 90) else none, level := if worn s.memory.foundBand then .eco else .normal,
        attempts := 0, pendingOn := none, heldOff := false, heldLevel := none, restrikeUsed := false,
        faultPending := cold && locked, startUp := cold, run := s.lamp.run + (if cold then (if hot then 2 else 1) else 0) } := by
  unfold State.startedLamp Lamp.heated startLevel
  cases s.startCold <;> cases s.lines.thermHot <;> cases (s.memory.lockReason r).isSome <;> rfl

/-- A start with no entry to govern rebuilds the room. -/
theorem State.startedWith_rebuilt {s u : State} (sig : Vector Bool 6) {e : Option (Option Nat)} {r : Option LockReason}
    (hrel : s.memory.relocked = startLocks e r) (hrun : s.lamp.run = u.lamp.run) (clean : Ports) :
    Rebuilt u (s.startedWith sig e r (clean.offerAll (s.startRaised e r))) clean := by
  let t := s.startedWith sig e r (clean.offerAll (s.startRaised e r))
  have hband : bandOfRatio t.ratio = s.memory.foundBand := s.startedWith_ratio sig e r _
  have hexp : (Decidable.decide (bandOfRatio t.ratio = .expired) && !(s.memory.relocked.any fun l => l.reason == some .expired)) = s.memory.expires r := by
    rw [hband, hrel, startLocks_reason]
    unfold Memory.expires
    simp
  have hheld : (if s.memory.expires r = true then
      (s.memory.relocked.filter fun l => l.kind != .lampLock)
        ++ [{ kind := .lampLock, origin := .lamp, reason := some .expired, setAt := 0, expiry := none }]
      else s.memory.relocked) = startLocks e (s.memory.lockReason r) := by
    rw [hrel]
    unfold Memory.lockReason
    cases s.memory.expires r with
    | true => exact startLocks_expired e r
    | false => rfl
  have hlocked := startLocks_lampLock e (s.memory.lockReason r)
  have hservice := startLocks_serviceLock e (s.memory.lockReason r)
  change Rebuilt u t clean
  unfold Rebuilt
  intro m c failed found cold hot expires held locked forced
  have hexpires : expires = s.memory.expires r := hexp
  have hheld' : held = startLocks e (s.memory.lockReason r) := by
    change (if expires = true then _ else _) = _
    rw [hexpires]
    exact hheld
  have hlocked' : locked = (s.memory.lockReason r).isSome := by
    change (held.any fun l => l.kind == .lampLock) = _
    rw [hheld', hlocked]
  have hcold : cold = s.startCold := rfl
  have hservice' : (held.any fun l => l.kind == .serviceLock) = e.isSome := by rw [hheld', hservice]
  have himage : t.imageOf .lockout = .lockout (((startLocks e (s.memory.lockReason r)).filter Lockout.persistent).map Lockout.image) := by
    change Image.lockout (((startLocks e _ ++ _).filter Lockout.persistent).map Lockout.image) = _
    rw [List.filter_append]
    have : ∀ b : Bool, (if b = true then [thermalLocked] else []).filter Lockout.persistent = [] := by decide
    rw [this, List.append_nil]
  rw [hservice']
  clear_value expires locked
  subst hexpires hlocked'
  rw [hheld']
  refine ⟨⟨fun x hw hx => ?_, rfl⟩, ⟨rfl, rfl, rfl, rfl, rfl, rfl, rfl, rfl⟩, ⟨rfl, rfl⟩, rfl, ⟨rfl, rfl, ?_, fun n => ?_⟩, ?_,
    ⟨rfl, rfl, rfl, ?_, ?_⟩, ?_, ?_, ?_⟩
  · have hload : t.imageOf x = (s.load sig).imageOf x := by
      cases x
      case wear => exact absurd rfl hw
      case lockout => exact absurd rfl hx
      all_goals rfl
    exact hload.trans (s.load_imageOf sig hw hx)
  · have hcomp : (s.load sig).computed = bandTable (s.load sig).profiles.stored[(s.load sig).profiles.active] (s.load sig).routedAspect := by
      unfold State.computed
      rw [State.started_effectivePair]
    exact congrArg (fun b => ({ last := b, inTransfer := none, pendingTable := none, scalerTable := none, nextSeq := 0 } : Geometry)) hcomp
  · change ((s.memory.loadSources sig)[n]).timing = none ∧ ((s.memory.loadSources sig)[n]).remembered = none
    simp [Memory.loadSources]
  · rfl
  · exact hband.symm
  · rw [hband]
    change (s.memory.foundBand != .good) = _
    cases s.memory.foundBand <;> rfl
  · rw [hband, ← hrun]
    change s.startedLamp r = _
    exact s.startedLamp_eq r
  · obtain ⟨hf, hr, hi, hs, hq, hp⟩ := s.startStore_eq e r
    have hwrite : (if s.startCold = true then some (Image.wear (s.memory.foundWear.restarted true)) else none)
        = if s.startCold = true then some (Image.wear (s.memory.foundWear.restarted s.startCold)) else none := by
      cases s.startCold <;> rfl
    have hslot : ∀ b : Bool, (if (s.startCold && b) = true then some (s.memory.foundWear.restarted true) else none)
        = if (s.startCold && b) = true then some (s.memory.foundWear.restarted s.startCold) else none := by
      intro b
      cases s.startCold <;> rfl
    rw [hwrite] at hi
    rw [hslot] at hs
    rw [himage]
    exact ⟨hf, hr, hi, hs, hq, hp⟩
  · change clean.offerAll (s.startRaised e r) = _
    unfold State.startRaised startNotes
    rw [← List.append_assoc]
    rfl

end Sys2Proof.Machine

end

