-- ==== Sys2Proof/Proofs/ResetsRebuild.lean ====
section
/-! SUPPORT. What an entry that begins leaves of the inputs' presence (R84, R95), and the resets (R5, R19, R138, R182, R188). -/

namespace Sys2Proof.Machine

/-! ## Presence through an entry's beginning (R84) -/

/-- From s to t no input's presence has changed, and t is not in UNMUTING. -/
structure Calm (s t : State) : Prop where
  present : ∀ n : InputIdx, (t.source n).present = (s.source n).present
  state : t.engine.state ≠ .unmuting

theorem Calm.of_eq {s t u : State} (h : Calm s t) (hs : u.sources = t.sources) (he : u.engine.state = t.engine.state) : Calm s u :=
  ⟨fun n => by rw [← h.present n]; unfold State.source; rw [hs], by rw [he]; exact h.state⟩

theorem Calm.linkOnly {s t u : State} (h : Calm s t) (hl : LinkOnly t u) : Calm s u := h.of_eq hl.sources (by rw [hl.engine])

theorem Calm.engine {s t u : State} (h : Calm s t) (hs : u.sources = t.sources) (he : ∃ o, u.engine = { t.engine with powerUpOwed := o }) :
    Calm s u := by
  obtain ⟨o, he⟩ := he
  exact h.of_eq hs (by rw [he])

/-- A table handed out changes the geometry and the link number alone (R116). -/
theorem State.recompute_link (s : State) (forced : Bool) : LinkOnly s (s.recompute forced) := by
  unfold State.recompute State.hand
  split
  · rfl
  · split
    · rfl
    · split <;> rfl

/-- Routing takes timings away, not presence (R95). -/
theorem Calm.startSwitch {s t : State} (h : Calm s t) (kind : SwitchKind) (n : InputIdx) (r : Option Requester) :
    Calm s (t.startSwitch kind n r) := by
  by_cases hk : kind = .apply
  · let x : State := { t with engine := { t.engine with
      inFlight := some (.fresh kind n r), owedRelock := false, state := .applying, lockReq := none } }
    have hx : LinkOnly x (t.startSwitch kind n r) := by
      subst hk
      exact x.recompute_link true
    exact Calm.linkOnly (t := x) ⟨h.present, show EngineState.applying ≠ .unmuting by decide⟩ hx
  · have hstate := (t.startSwitch_begun n r hk).state
    refine ⟨fun m => ?_, hstate⟩
    rw [← h.present m]
    by_cases hb : t.engine.blankReq = none
    · by_cases hr : t.engine.blank = .blanked
      · obtain ⟨k, _, hsrc⟩ := State.route_routed (s := t.inMuting (.fresh kind n r)) (w := .fresh kind n r) rfl
        rw [State.startSwitch_routes n r hk hb hr, hsrc]
        split <;> rfl
      · cases hp : t.engine.powered
        · rw [State.startSwitch_unpowered n r hk hp hr]
          rfl
        · rw [State.startSwitch_blanks n r hk hp hb hr]
          rfl
    · rw [State.startSwitch_waits n r hk hb]
      rfl

theorem Calm.recallInput {s t : State} (h : Calm s t) (r : Requester) (n : InputIdx) (b : Bool) : Calm s (t.recallInput r n b).1 := by
  unfold State.recallInput
  split
  · exact h.of_eq rfl rfl
  · split
    · rename_i w hf
      obtain ⟨⟨p, he⟩, hs⟩ := t.askBusy_engine w r n
      have hask : Calm s (t.askBusy w r n).1 := h.of_eq hs (by rw [he])
      unfold State.joinRecall
      split
      · exact hask.of_eq rfl rfl
      · exact hask
    · split
      · exact h.startSwitch .select n (some r)
      · split
        · exact h.startSwitch .apply n (some r)
        · exact h

theorem Calm.runRecall {s t : State} (h : Calm s t) (r : Requester) (k : SceneIdx) : Calm s (t.runRecall r k).1 := by
  obtain ⟨he, hs⟩ := t.recallPower_engine r t.scenes[k].power
  obtain ⟨he', hs'⟩ := (t.recallPower r t.scenes[k].power).recallLevel_engine r t.scenes[k].level
  have h1 : Calm s ((t.recallPower r t.scenes[k].power).recallLevel r t.scenes[k].level).1 :=
    (h.engine hs he).of_eq hs' (by rw [he'])
  have h2 : Calm s (((t.recallPower r t.scenes[k].power).recallLevel r t.scenes[k].level).1.mute t.scenes[k].mute) := by
    unfold State.mute
    rw [State.watchBlank_eq]
    exact h1.of_eq rfl rfl
  have h3 : ∀ x : State, Calm s x → Calm s (x.selectProfile t.scenes[k].profile) := by
    intro x hx
    rw [State.selectProfile_eq]
    split
    · exact hx
    · exact Calm.linkOnly (hx.of_eq (u := { x with profiles := { x.profiles with active := t.scenes[k].profile } }) rfl rfl) (State.tabled_link _ _)
  have h4 := (h3 _ h2).recallInput r t.scenes[k].input
  unfold State.runRecall State.takeRecall
  dsimp only
  split
  · exact (h4 _).of_eq rfl rfl
  · exact h4 _

theorem Calm.lampOff {s t : State} (h : Calm s t) : Calm s t.lampOff.1 := by
  have cooled : Calm s (t.enterCooldown Config.coolSeconds false) :=
    h.of_eq (State.checkpoint_sources _) (by rw [State.enterCooldown_eq, State.checkpoint_engine]; rfl)
  unfold State.lampOff
  cases t.lamp.state with
  | off | fault => exact h
  | striking | retryPause | lit => exact cooled
  | warmup | cooldown => exact h.of_eq rfl rfl

theorem Calm.lampOn {s t : State} (h : Calm s t) (r : Requester) : Calm s (t.lampOn r).1 :=
  h.engine (t.lampOn_engine r).2 (t.lampOn_engine r).1

theorem Calm.proceed {s t : State} (h : Calm s t) (before : Floor) (r : Requester) (k : SceneIdx) :
    Calm s (t.proceed before r (.recallScene k)).1 := by
  have htell : Calm s (t.tellHolder before) := by
    unfold State.tellHolder
    split
    · exact h
    · exact h.of_eq rfl rfl
  have hrun := htell.runRecall r k
  change Calm s ((((t.tellHolder before).runRecall r k).1).mark _ _)
  unfold State.mark
  split
  · exact hrun.of_eq rfl rfl
  · exact hrun

/-- SCHEDULE's recall at the floor, whatever the floor makes of it. -/
theorem Calm.floorIntake {s t : State} (h : Calm s t) (k : SceneIdx) : Calm s (t.floorIntake .schedule (.recallScene k)).1 := by
  unfold State.floorIntake
  rw [State.lateRefusal_recallScene]
  cases t.decide .schedule with
  | held => exact h
  | busy => exact h
  | wait =>
    change Calm s (t.becomeElect .schedule (.recallScene k))
    unfold State.becomeElect
    split
    · exact h.of_eq rfl rfl
    · exact h.of_eq rfl rfl
  | pass => exact Calm.proceed (t := t.passFloor .schedule) (h.of_eq rfl rfl) _ _ _
  | own => exact h.proceed _ _ _

theorem Calm.bookScene {s t : State} (h : Calm s t) (x : Effective) (old : Option Effective) : Calm s (t.bookScene x old) := by
  unfold State.bookScene
  split
  · split
    · exact h
    · rw [State.scheduleRecall]
      split
      · exact h
      · exact h.floorIntake _
  · exact h

/-- An entry that begins changes no input's presence. -/
theorem Calm.evaluate {u v : State} {pre : List Notice} (hv : v.Telling u pre) (hu : u.engine.state ≠ .unmuting) {x : Effective}
    (he : u.effective = some x) (hr : u.schedule.remembered ≠ some x) : Calm u v.evaluate := by
  obtain ⟨y, hy, heq⟩ := State.evaluate_begun hv he hr
  have hcalm : Calm u y :=
    ⟨fun n => by rw [hy.read (fun t => t.source n) fun _ _ => rfl]; rfl, by rw [hy.read (fun t => t.engine) fun _ _ => rfl]; exact hu⟩
  have hclose : Calm u (y.closureOff (.schedule x.index)) := Calm.lampOff hcalm
  have hbase : Calm u (if x.kind = .closed ∧ u.entryComes x = true then y.closureOff (.schedule x.index) else y) := by
    split
    · exact hclose
    · exact hcalm
  dsimp only at heq
  rw [heq]
  generalize (if x.kind = .closed ∧ u.entryComes x = true then y.closureOff (.schedule x.index) else y) = b at hbase
  split
  · exact hbase
  · refine Calm.bookScene ?_ _ _
    rw [State.scheduleLampOn]
    split
    · exact hbase.lampOn _
    · exact hbase

/-- The end of the action starts a power-up's switch at most (R135). -/
theorem Calm.settle {s t : State} (h : Calm s t) : Calm s t.settle := by
  have hmute : t.endUnmuting = t := if_neg fun hu => h.state hu.1
  unfold State.settle State.takePowerUp
  rw [hmute]
  split
  · exact Calm.startSwitch (t := t.setEngine { t.engine with powered := true, blank := .blanked, powerUpOwed := false })
      (h.of_eq rfl rfl) .powerUp t.engine.selected none
  · exact h

/-! ## The start, evaluated (R146, R156) -/

theorem Ports.offerAll_append (ps : Ports) (l m : List Notice) : ps.offerAll (l ++ m) = (ps.offerAll l).offerAll m := by
  simp only [Ports.offerAll, Ports.each, List.foldl_append]

/-- The start but for the evaluation, its notices told to the ports. -/
def State.restarted (s : State) (sig : Vector Bool 6) (e : Option (Option Nat)) (r : Option LockReason) : State :=
  s.startedWith sig e r (s.ports.offerAll (s.startRaised e r))

theorem State.started_telling (s : State) (sig : Vector Bool 6) (e : Option (Option Nat)) (r : Option LockReason) :
    (s.started sig e r).Telling (s.restarted sig e r) (s.startRaised e r) := ⟨rfl, s.ports, rfl⟩

theorem State.restarted_settled (s : State) (sig : Vector Bool 6) (e : Option (Option Nat)) (r : Option LockReason) :
    (s.restarted sig e r).Settled := ⟨fun h => not_unmuting_of_idle h.1.symm, rfl⟩

/-- What a start makes of a store that holds the lockouts e and r. -/
theorem State.start_started {s : State} (sig : Vector Bool 6) {e : Option (Option Nat)} {r : Option LockReason}
    (hl : s.memory.loadLockouts = startLocks e r) : s.start sig = ((s.started sig e r).evaluate).closed s.ports.offerAll := by
  rw [State.start_eq, State.finish_closed (State.ports_of_room (s.begun_room sig))]
  unfold State.begun
  rw [State.started_eq sig hl]
  rfl

/-- With no entry to govern the start is over. -/
theorem State.start_ungoverned {s : State} (sig : Vector Bool 6) {e : Option (Option Nat)} {r : Option LockReason}
    (hl : s.memory.loadLockouts = startLocks e r) (hn : (s.restarted sig e r).effective = none) :
    s.start sig = s.restarted sig e r := by
  rw [State.start_started sig hl, State.evaluate_same (s := s.started sig e r) hn,
    (s.started_telling sig e r).closed (s.restarted_settled sig e r)]
  rfl

/-- An entry that governs begins, and no input's presence changes. -/
theorem State.start_governed {s : State} (sig : Vector Bool 6) {e : Option (Option Nat)} {r : Option LockReason}
    (hl : s.memory.loadLockouts = startLocks e r) {y : Effective} (hy : (s.restarted sig e r).effective = some y) :
    EntryBegins (s.restarted sig e r) (s.start sig) (s.restarted sig e r).ports.offerAll y
      ∧ ∀ n : InputIdx, ((s.start sig).source n).present = ((s.restarted sig e r).source n).present := by
  have hv := s.started_telling sig e r
  have hr : (s.restarted sig e r).schedule.remembered ≠ some y := nofun
  have hcalm := (Calm.evaluate hv (show EngineState.idle ≠ .unmuting by decide) hy hr).settle
  have hbegins := State.evaluate_begins hv (s.restarted_settled sig e r) hy hr s.ports.offerAll
  have htell : (fun l => s.ports.offerAll (s.startRaised e r ++ l)) = (s.restarted sig e r).ports.offerAll :=
    funext fun l => s.ports.offerAll_append _ l
  rw [htell] at hbegins
  rw [State.start_started sig hl]
  exact ⟨hbegins, hcalm.present⟩

/-! ## What the resets keep (R5, R138, R182, R188) -/

theorem State.restarted_present (s : State) (sig : Vector Bool 6) (e : Option (Option Nat)) (r : Option LockReason) (n : InputIdx) :
    ((s.restarted sig e r).source n).present = sig[n] := by
  change (s.memory.loadSources sig)[n].present = _
  simp [Memory.loadSources]

theorem State.sigLines_get (s : State) (n : InputIdx) : s.sigLines[n] = (s.source n).present := by
  simp [State.sigLines, State.source]

/-- s with its ports as a reset leaves them (R5, R188). -/
def State.portsCleared (s : State) : State := s.setPorts (s.ports.each fun b => .cleared b.rate)

theorem exec_resetN (s : State) : exec .resetN s = .next (s.portsCleared.start s.sigLines) := rfl

theorem State.effective_unset {s : State} (h : s.clock.isSet = false) : s.effective = none := by
  unfold State.effective
  rw [h]
  rfl

/-- A start reads the clock in its evaluation alone (R156). -/
theorem State.restarted_clock (s : State) (sig : Vector Bool 6) (e : Option (Option Nat)) (r : Option LockReason) :
    ({ ({ s with clock := { s.clock with isSet := false } } : State).portsCleared.restarted sig e r with clock := s.clock } : State)
      = s.portsCleared.restarted sig e r := rfl

/-- s as a power-on reset finds it: ports, lines and strapped rates as found, the clock unset, the spoiled records bad (R138, R182). -/
def State.poweredOn (s : State) (x : PowerOn) : State :=
  { s with ports := { service := .cleared x.serviceRate, campus := .cleared x.campusRate, panel := .cleared x.panelRate },
           lines := { lampSense := x.lampSense, thermHot := x.thermHot }, clock := s.clock.unset, memory := s.memory.spoil x.spoiled }

theorem exec_powerOnReset (x : PowerOn) (s : State) : exec (.powerOnReset x) s = .next ((s.poweredOn x).start x.sig) := rfl

theorem Memory.spoil_valid (m : Memory) (codes : List Nat) (r : RecordId) :
    (m.spoil codes).valid r = (m.valid r && !codes.contains (recordCode r)) := by
  have hcontent : (m.spoil codes).contentOk r = m.contentOk r := by cases r <;> rfl
  have hbad : (m.spoil codes).bad.contains r = (m.bad.contains r || codes.contains (recordCode r)) := by
    unfold Memory.spoil
    rw [Bool.eq_iff_iff]
    simp only [List.mem_append, List.mem_filter, mem_allRecords, true_and, Bool.and_eq_true, Bool.or_eq_true,
      Bool.not_eq_true', List.contains_eq_mem, decide_eq_true_eq, decide_eq_false_iff_not]
    tauto
  unfold Memory.valid
  rw [hcontent, hbad]
  cases m.bad.contains r <;> cases codes.contains (recordCode r) <;> simp

end Sys2Proof.Machine

open Sys2Proof Sys2Proof.Machine

/-- Settles O59: each reset is a start over cleared ports; the start rebuilds the room, and its evaluation begins the entry that governs. -/
theorem resetsRebuild : Obligations.ResetsRebuild := by
  intro s x clean kept found unset stays evaluated
  obtain ⟨e, r, hrel, hl⟩ := s.memory.relocked_shape
  have hpresent (n : InputIdx) : ((s.portsCleared.restarted s.sigLines e r).source n).present = (s.source n).present :=
    (State.restarted_present _ _ _ _ n).trans (s.sigLines_get n)
  refine ⟨fun hclock => ?_, fun _ => ?_, ?_, ?_⟩
  · have hstart := State.start_ungoverned (s := s.portsCleared) s.sigLines hl (State.effective_unset hclock)
    refine ⟨_, exec_resetN s, ?_⟩
    rw [hstart]
    exact ⟨⟨rfl, rfl, rfl, hpresent⟩, State.startedWith_rebuilt (s := s.portsCleared) s.sigLines hrel rfl kept⟩
  · have hunset := State.start_ungoverned (s := unset.portsCleared) s.sigLines (e := e) (r := r) hl (State.effective_unset rfl)
    refine ⟨_, exec_resetN s, ⟨?_, _, (exec_resetN unset).trans (congrArg Host.Outcome.next hunset), ?_⟩⟩
    · have howned := State.start_owned s.portsCleared s.sigLines
      simp only [State.owned, Prod.mk.injEq] at howned
      obtain ⟨-, hlines, -, hclock, -, hmemory, -⟩ := howned
      refine ⟨hclock, hlines, hmemory, fun n => ?_⟩
      cases he : (s.portsCleared.restarted s.sigLines e r).effective with
      | none => rw [State.start_ungoverned (s := s.portsCleared) s.sigLines hl he, hpresent]
      | some y => rw [(State.start_governed (s := s.portsCleared) s.sigLines hl he).2, hpresent]
    · rw [s.restarted_clock s.sigLines e r]
      exact ⟨State.start_ungoverned (s := s.portsCleared) s.sigLines hl, fun y he => (State.start_governed (s := s.portsCleared) s.sigLines hl he).1⟩
  · cases hready : s.resetReady with
    | true => exact congrArg Host.Outcome.next (if_pos hready)
    | false => exact congrArg Host.Outcome.next (if_neg (by simp [hready]))
  · obtain ⟨e', r', hrel', hl'⟩ := (s.poweredOn x).memory.relocked_shape
    have hstart := State.start_ungoverned (s := s.poweredOn x) x.sig hl' (State.effective_unset rfl)
    refine ⟨_, exec_powerOnReset x s, ?_⟩
    rw [hstart]
    exact ⟨State.startedWith_rebuilt (s := s.poweredOn x) x.sig hrel' rfl found, rfl, rfl, State.restarted_present _ _ _ _, rfl,
      s.memory.spoil_valid x.spoiled⟩

end

