-- ==== Sys2Proof/Proofs/FloorFrame.lean ====
section
/-! SUPPORT. What leaves the presentation floor alone: the store, the lamp, the wear counter, the lockout records, the switch engine, the
profiles and the deferral. One lemma for each operation says so. -/

namespace Sys2Proof.Machine

/-! ## Notices, the store, the lockout records -/

@[simp] theorem State.notify_floor (s : State) (n : Notice) : (s.notify n).floor = s.floor := rfl
@[simp] theorem State.kick_floor (s : State) : s.kick.floor = s.floor := by rw [s.kick_onlySaved.1]
@[simp] theorem State.queueRecord_floor (s : State) (r : RecordId) : (s.queueRecord r).floor = s.floor := by
  rw [(s.queueRecord_onlySaved r).1]
@[simp] theorem State.checkpoint_floor (s : State) : s.checkpoint.floor = s.floor := by rw [s.checkpoint_onlySaved.1]; rfl
@[simp] theorem State.completeWrite_floor (s : State) : s.completeWrite.floor = s.floor := by
  unfold State.completeWrite
  split
  · rfl
  · rw [State.kick_floor]; split <;> rfl
@[simp] theorem State.failWrite_floor (s : State) : s.failWrite.floor = s.floor := by
  unfold State.failWrite
  split
  · rfl
  · dsimp only; split <;> rfl
@[simp] theorem State.clearFault_floor (s : State) : s.clearFault.floor = s.floor := by unfold State.clearFault; split <;> simp
@[simp] theorem State.saveLockouts_floor (s : State) : s.saveLockouts.floor = s.floor := State.queueRecord_floor _ _
@[simp] theorem State.addLockout_floor (s : State) (l : Lockout) : (s.addLockout l).floor = s.floor := by
  unfold State.addLockout; split <;> rfl
@[simp] theorem State.removeLockouts_floor (s : State) (gone : Lockout → Bool) : (s.removeLockouts gone).floor = s.floor := by
  rw [State.removeLockouts_eq]; rfl
@[simp] theorem State.addLampLock_floor (s : State) (reason : LockReason) : (s.addLampLock reason).floor = s.floor := by
  unfold State.addLampLock; (repeat' split) <;> simp
@[simp] theorem State.removeLampLock_floor (s : State) (which : Lockout → Bool) : (s.removeLampLock which).floor = s.floor := by
  unfold State.removeLampLock; split <;> simp
@[simp] theorem State.addThermal_floor (s : State) : s.addThermal.floor = s.floor := by unfold State.addThermal; split <;> simp
@[simp] theorem State.examineThermal_floor (s : State) : s.examineThermal.floor = s.floor := by
  unfold State.examineThermal; split <;> simp
@[simp] theorem State.renameSchedule_floor (s : State) (e : EntryIdx) : (s.renameSchedule e).floor = s.floor := rfl

/-! ## The wear counter, the deferral, the lamp -/

@[simp] theorem State.testThresholds_floor (s : State) : s.testThresholds.floor = s.floor := by
  rw [State.testThresholds_eq]; split <;> simp [State.rebandedRaised, State.rebanded]
@[simp] theorem State.litSecond_floor (s : State) : s.litSecond.floor = s.floor := by
  have minute : ∀ u : State, u.countMinute.floor = u.floor := fun u => by unfold State.countMinute; split <;> simp
  unfold State.litSecond
  split
  · rfl
  · split
    · rfl
    · unfold State.litMinute; rw [State.testThresholds_floor, minute]; rfl
@[simp] theorem State.endDeferral_floor (s : State) (n : Nat) : (s.endDeferral n).floor = s.floor := by
  unfold State.endDeferral; split <;> rfl
@[simp] theorem State.noteActivity_floor (s : State) : s.noteActivity.floor = s.floor := by
  unfold State.noteActivity; split <;> rfl
@[simp] theorem State.touch_floor (s : State) (r : Requester) : (s.touch r).floor = s.floor := by
  unfold State.touch; split <;> simp
@[simp] theorem State.lampOffEndsDeferral_floor (s : State) (r : Requester) : (s.lampOffEndsDeferral r).floor = s.floor := by
  unfold State.lampOffEndsDeferral; split <;> simp
@[simp] theorem State.examineDeferral_floor (s : State) : s.examineDeferral.floor = s.floor := by
  unfold State.examineDeferral; split <;> rfl
@[simp] theorem State.enterLamp_floor (s : State) (l : LampState) (t : Option Nat) : (s.enterLamp l t).floor = s.floor := rfl
@[simp] theorem State.strike_floor (s : State) : s.strike.floor = s.floor := by
  rw [State.strike_eq, State.testThresholds_floor, State.checkpoint_floor]; rfl
@[simp] theorem State.enterCooldown_floor (s : State) (n : Nat) (f : Bool) : (s.enterCooldown n f).floor = s.floor := by
  unfold State.enterCooldown State.bookCooldown; simp
@[simp] theorem State.enterRest_floor (s : State) (l : LampState) : (s.enterRest l).floor = s.floor := rfl
@[simp] theorem State.lampOn_floor (s : State) (r : Requester) : (s.lampOn r).1.floor = s.floor := by
  unfold State.lampOn; split <;> simp
@[simp] theorem State.lampOff_floor (s : State) : s.lampOff.1.floor = s.floor := by unfold State.lampOff; split <;> simp
@[simp] theorem State.lampLevel_floor (s : State) (l : Level) : (s.lampLevel l).1.floor = s.floor := by
  unfold State.lampLevel; split <;> rfl
@[simp] theorem State.dropPendingOn_floor (s : State) : s.dropPendingOn.floor = s.floor := by
  unfold State.dropPendingOn; (repeat' split) <;> rfl
@[simp] theorem State.senseRise_floor (s : State) : s.senseRise.floor = s.floor := by unfold State.senseRise; split <;> rfl
@[simp] theorem State.strikeFails_floor (s : State) : s.strikeFails.floor = s.floor := by
  unfold State.strikeFails; (repeat' split) <;> simp
@[simp] theorem State.retryEnds_floor (s : State) : s.retryEnds.floor = s.floor := by
  unfold State.retryEnds; (repeat' split) <;> simp
@[simp] theorem State.warmupEnds_floor (s : State) : s.warmupEnds.floor = s.floor := by
  unfold State.warmupEnds
  split
  · rfl
  · dsimp only; split <;> simp
@[simp] theorem State.senseFall_floor (s : State) : s.senseFall.floor = s.floor := by
  have decided : ∀ (u : State) (b : Bool), (u.decideRestrike b).floor = u.floor := fun u b => by
    unfold State.decideRestrike; (repeat' split) <;> rfl
  unfold State.senseFall
  split <;> simp [decided, State.bookDropOut, State.setRecord]
@[simp] theorem State.heat_floor (s : State) : s.heat.floor = s.floor := by
  have cooled : s.heatLamp.floor = s.floor := by unfold State.heatLamp; split <;> simp
  exact (State.addThermal_floor _).trans cooled
@[simp] theorem State.runLampOn_floor (s : State) (r : Requester) : (s.runLampOn r).1.floor = s.floor := by simp [State.runLampOn]
@[simp] theorem State.runLampOff_floor (s : State) (r : Requester) : (s.runLampOff r).1.floor = s.floor := by simp [State.runLampOff]
@[simp] theorem State.runLampLevel_floor (s : State) (r : Requester) (l : Level) : (s.runLampLevel r l).1.floor = s.floor := by
  simp [State.runLampLevel]
@[simp] theorem State.dropNotice_floor (s : State) (a : Option LampAsker) : (s.dropNotice a).floor = s.floor := by
  unfold State.dropNotice; split <;> rfl

/-! ## The engine and the owners -/

@[simp] theorem State.endRecall_floor (s : State) (n : InputIdx) : (s.endRecall n).floor = s.floor := by rw [State.endRecall_eq]
@[simp] theorem State.selectInput_floor (s : State) (r : Requester) (n : InputIdx) : (s.selectInput r n).1.floor = s.floor := by
  unfold State.selectInput
  split
  · rfl
  · split
    · rw [State.askBusy_eq]
    · split
      · rfl
      · exact (EngineOnly.startSwitch _ _ _ _).floor
@[simp] theorem State.recallInput_floor (s : State) (r : Requester) (n : InputIdx) (b : Bool) :
    (s.recallInput r n b).1.floor = s.floor := by
  unfold State.recallInput
  split
  · rfl
  · split
    · unfold State.joinRecall
      split
      · rw [State.setInFlight, State.setEngine_floor, State.askBusy_eq]
      · rw [State.askBusy_eq]
    · split
      · exact (EngineOnly.startSwitch _ _ _ _).floor
      · split
        · exact (EngineOnly.startSwitch _ _ _ _).floor
        · rfl
@[simp] theorem State.selectProfile_floor (s : State) (p : ProfileIdx) : (s.selectProfile p).floor = s.floor := by
  unfold State.selectProfile
  split
  · rfl
  · exact (EngineOnly.recompute _ _).floor
@[simp] theorem State.writePair_floor (s : State) (p : ProfileIdx) (k : Keystone) : (s.writePair p k).floor = s.floor := by
  unfold State.writePair
  dsimp only
  split
  · exact (EngineOnly.tellPair _ _).floor
  · rw [(EngineOnly.tellPair _ _).floor, State.queueRecord_floor]; rfl
@[simp] theorem State.mute_floor (s : State) (m : Bool) : (s.mute m).floor = s.floor := (EngineOnly.mute s m).floor
@[simp] theorem State.recallPower_floor (s : State) (r : Requester) (p : ScenePower) : (s.recallPower r p).floor = s.floor := by
  unfold State.recallPower; (repeat' split) <;> simp
@[simp] theorem State.recallLevel_floor (s : State) (r : Requester) (l : SceneLevel) : (s.recallLevel r l).1.floor = s.floor := by
  unfold State.recallLevel; (repeat' split) <;> simp
@[simp] theorem State.takeRecall_floor (s : State) (k : SceneIdx) (r : Requester) (n : InputIdx) (v : Verdict) :
    (s.takeRecall k r n v).floor = s.floor := by unfold State.takeRecall; split <;> rfl
/-- No owner of a floor command touches the floor; its marker is set behind the owner's back (R27). -/
@[simp] theorem State.ownerActs_floor (s : State) (r : Requester) (c : Cmd) : (s.ownerActs r c).1.floor = s.floor := by
  cases c <;> simp [State.ownerActs, State.runRecall, State.nudgePair]
@[simp] theorem State.recompute_floor (s : State) (b : Bool) : (s.recompute b).floor = s.floor := (EngineOnly.recompute s b).floor
@[simp] theorem State.discardTrial_floor (s : State) (t : SlotIdx) : (s.discardTrial t).floor = s.floor := by
  unfold State.discardTrial; (repeat' split) <;> simp [State.setSlot]
@[simp] theorem State.openTrial_floor (s : State) (t : SlotIdx) (p : ProfileIdx) : (s.openTrial t p).floor = s.floor := by
  unfold State.openTrial State.enableTrial; dsimp only; split <;> simp [State.setSlot]
@[simp] theorem State.commitTrial_floor (s : State) (t : SlotIdx) : (s.commitTrial t).floor = s.floor := by
  unfold State.commitTrial; (repeat' split) <;> simp [State.setSlot, State.setStored]
@[simp] theorem State.setAspect_floor (s : State) (n : InputIdx) (o : AspectOverride) : (s.setAspect n o).floor = s.floor := by
  unfold State.setAspect; rw [State.queueRecord_floor, (EngineOnly.tellAspect _ _).floor]; rfl

/-! ## The other owners -/

@[simp] theorem State.replaceNew_floor (s : State) (i : Vector Byte 8) : (s.replaceNew i).floor = s.floor := by
  unfold State.replaceNew State.endReplacement State.leaveFault; dsimp only; split <;> simp
@[simp] theorem State.replaceOld_floor (s : State) : s.replaceOld.floor = s.floor := by
  unfold State.replaceOld State.endReplacement State.leaveFault; dsimp only; split <;> simp
@[simp] theorem State.clearByHand_floor (s : State) (r : Requester) (k : LockKind) : (s.clearByHand r k).1.floor = s.floor := by
  unfold State.clearByHand State.saveIfService; (repeat' split) <;> simp
@[simp] theorem State.expireLockouts_floor (s : State) : s.expireLockouts.floor = s.floor := by
  unfold State.expireLockouts; dsimp only; split <;> simp
@[simp] theorem State.askReset_floor (s : State) : s.askReset.floor = s.floor := by unfold State.askReset; split <;> simp

end Sys2Proof.Machine
end

