-- ==== Sys2Proof/Proofs/FloorKept.lean ====
section
/-! SUPPORT. The floor's consistency through every operation that moves it, and through every row (R25 to R38). -/

namespace Sys2Proof.Machine

/-- HOLD needs a holder; an elect stands with the marker, is not the holder, and under HOLD is stronger than it (R25, R32). -/
def Floor.Sound (f : Floor) : Prop :=
  (f.holder = none → f.hold = false) ∧ (∀ e ∈ f.elect, f.marker = true ∧ f.holder ≠ some e.1)
    ∧ ∀ e ∈ f.elect, ∀ h ∈ f.holder, f.hold = true → stronger e.1 h = true

theorem floorSound_iff (s : State) : FloorSound s ↔ s.floor.Sound := Iff.rfl

/-- With nobody waiting only HOLD is left to ask for. -/
theorem Floor.Sound.of_alone {f : Floor} (he : f.elect = none) (hh : f.holder = none → f.hold = false) : f.Sound :=
  ⟨hh, by simp [he], by simp [he]⟩

theorem Floor.Sound.marked {f : Floor} (h : f.Sound) : Floor.Sound { f with marker := true } :=
  ⟨h.1, fun e he => ⟨rfl, (h.2.1 e he).2⟩, h.2.2⟩

theorem Floor.Sound.dropped {f : Floor} (h : f.Sound) : Floor.Sound { f with elect := none } := .of_alone rfl h.1

/-- No elect waits once the marker is clear. -/
theorem Floor.Sound.elect_none {f : Floor} (h : f.Sound) (hm : f.marker = false) : f.elect = none := by
  cases he : f.elect with
  | none => rfl
  | some e => have := (h.2.1 e he).1; simp [hm] at this

/-- Two requesters are the same or one is the stronger (R6). -/
theorem stronger_of_not {a b : Requester} (hne : a ≠ b) (h : stronger a b = false) : stronger b a = true := by
  revert hne h; cases a <;> cases b <;> decide

/-! ## The floor's own operations -/

@[simp] theorem State.tellHolder_floor (s : State) (f : Floor) : (s.tellHolder f).floor = s.floor := by
  unfold State.tellHolder; split <;> rfl

theorem State.dropElect_floor (s : State) (n : Nat) : (s.dropElect n).floor = { s.floor with elect := none } := by
  unfold State.dropElect
  split
  · rfl
  · rename_i h; rw [← h]

theorem State.mark_floorSound {s : State} (h : s.floor.Sound) (c : Cmd) (v : Verdict) : (s.mark c v).floor.Sound := by
  unfold State.mark
  split
  · exact h.marked
  · exact h

/-- HOLD set by the holder is consistent once a weaker elect has been dropped (R32). -/
theorem State.holdDropsElect_floorSound {s : State} {r : Requester} (h : s.floor.Sound) (hr : s.floor.holder = some r) :
    (s.setFloor { s.floor with hold := true }).holdDropsElect.floor.Sound := by
  unfold State.holdDropsElect
  simp only [State.setFloor_floor, hr]
  cases he : s.floor.elect with
  | none => exact .of_alone rfl (by simp)
  | some e =>
    obtain ⟨e, c⟩ := e
    obtain ⟨hm, hne⟩ := h.2.1 _ he
    dsimp only
    split
    · rw [State.dropElect_floor]
      exact .of_alone rfl (by simp)
    · rename_i hw
      have hst : stronger e r = true := stronger_of_not (fun e => hne (by rw [hr, e])) (by simpa using hw)
      refine ⟨by simp, ?_, ?_⟩
      · simpa [he] using ⟨hm, fun e => hne (by rw [hr, e])⟩
      · simpa [he] using hst

/-- A floor command that proceeds for the holder keeps the floor consistent (R27, R32). -/
theorem State.proceed_floorSound {s : State} {r : Requester} (h : s.floor.Sound) (hr : s.floor.holder = some r) (before : Floor) (c : Cmd) :
    (s.proceed before r c).1.floor.Sound := by
  unfold State.proceed
  split
  · dsimp only
    split
    · rename_i hh
      rw [State.tellHolder_floor, State.setFloor_floor, ← hh]
      exact h
    · have told : ∀ u : State, (u.tellHolder before).holdDropsElect.floor = u.holdDropsElect.floor := fun u => by
        unfold State.holdDropsElect
        rw [State.tellHolder_floor]
        split
        · split
          · rw [State.dropElect_floor, State.dropElect_floor, State.tellHolder_floor]
          · exact State.tellHolder_floor _ _
        · exact State.tellHolder_floor _ _
      rw [told]
      exact State.holdDropsElect_floorSound h hr
  · exact State.mark_floorSound (by simpa using h) _ _

/-- A passage with no elect behind it (R31). -/
theorem State.passFloor_sound {s : State} (he : s.floor.elect = none) (r : Requester) : (s.passFloor r).floor.Sound :=
  .of_alone he fun _ => rfl

/-- A hand-over leaves no elect but what its own command makes of the floor (R33, R34). -/
theorem State.handOver_floorSound {s : State} (h : s.floor.holder = none → s.floor.hold = false) (before : Floor) :
    (s.handOver before).floor.Sound := by
  unfold State.handOver
  split
  · rename_i he
    rw [State.tellHolder_floor]
    exact .of_alone he h
  · split
    · rw [State.tellHolder_floor]
      exact .of_alone rfl h
    · exact State.proceed_floorSound (State.passFloor_sound rfl _) rfl _ _

theorem State.chainEnds_floorSound {s : State} (h : s.floor.Sound) : s.chainEnds.floor.Sound := by
  unfold State.chainEnds
  split
  · unfold State.unitEnd
    split
    · exact State.handOver_floorSound (fun _ => rfl) _
    · exact State.handOver_floorSound (by exact h.1) _
  · exact h

theorem State.releaseBy_floorSound {s : State} (h : s.floor.Sound) (r : Requester) : (s.releaseBy r).floor.Sound := by
  unfold State.releaseBy
  split
  · exact State.handOver_floorSound (fun _ => rfl) _
  · exact h

theorem State.loseStanding_floorSound {s : State} (h : s.floor.Sound) (r : Requester) : (s.loseStanding r).floor.Sound := by
  unfold State.loseStanding
  split
  · exact State.handOver_floorSound (fun _ => rfl) _
  · split
    · split
      · rw [State.dropElect_floor]; exact h.dropped
      · exact h
    · exact h

/-- A passage at step 9 meets no elect: one would stand with the marker, against which the command competes (R28, R29). -/
theorem State.decide_pass {s : State} {r : Requester} (h : s.floor.Sound) (hd : s.decide r = .pass) : s.floor.elect = none := by
  have competes : s.compete r ≠ .pass := by
    unfold State.compete
    split
    · simp
    · split <;> simp
  refine h.elect_none ?_
  by_contra hm
  have hm : s.floor.marker = true := by simpa using hm
  unfold State.decide at hd
  rw [hm] at hd
  repeat' split at hd
  all_goals simp_all

/-- A command that waits as elect is another's than the holder, under HOLD a stronger one's (R28 to R30). -/
theorem State.decide_wait {s : State} {r : Requester} (hd : s.decide r = .wait) (c : Cmd) (h : s.floor.Sound) :
    Floor.Sound { s.floor with elect := some (r, c) } := by
  have waits : s.floor.marker = true ∧ s.floor.holder ≠ some r
      ∧ ∀ x ∈ s.floor.holder, s.floor.hold = true → stronger r x = true := by
    unfold State.decide at hd
    cases hh : s.floor.holder with
    | none =>
      rw [hh] at hd
      refine ⟨?_, by simp, by simp⟩
      by_contra hm
      simp [hm] at hd
    | some x =>
      rw [hh] at hd
      dsimp only at hd
      by_cases hx : x = r
      · simp [hx] at hd
      · rw [if_neg hx] at hd
        by_cases hs : s.floor.hold = true ∧ stronger x r = true
        · simp [hs] at hd
        · rw [if_neg hs] at hd
          refine ⟨?_, by simpa using hx, ?_⟩
          · by_contra hm
            simp [hm] at hd
          · intro y hy hhold
            obtain rfl : x = y := by simpa using hy
            exact stronger_of_not hx (by simpa [hhold] using hs)
  obtain ⟨hm, hne, hst⟩ := waits
  refine ⟨h.1, ?_, ?_⟩
  · intro e he
    obtain rfl : (r, c) = e := by simpa using he
    exact ⟨hm, hne⟩
  · intro e he
    obtain rfl : (r, c) = e := by simpa using he
    exact hst

/-- Step 9 and what it makes of a floor command (R28 to R32). -/
theorem State.floorIntake_floorSound {s : State} (h : s.floor.Sound) (r : Requester) (c : Cmd) : (s.floorIntake r c).1.floor.Sound := by
  unfold State.floorIntake
  split
  · exact h
  · exact h
  · rename_i d hheld hbusy
    split
    · exact h
    · cases hd : s.decide r with
      | held => exact absurd hd hheld
      | busy => exact absurd hd hbusy
      | wait =>
        have hf : ((s.touch r).becomeElect r c).floor = { s.floor with elect := some (r, c) } := by
          unfold State.becomeElect
          split <;> simp [State.setElect]
        dsimp only
        rw [hf]
        exact State.decide_wait hd c h
      | pass =>
        exact State.proceed_floorSound (State.passFloor_sound (by simpa using State.decide_pass h hd) r) rfl _ _
      | own =>
        have hr : s.floor.holder = some r := by
          unfold State.decide at hd
          have competes : s.compete r ≠ .own := by unfold State.compete; split <;> (try split) <;> simp
          repeat' split at hd
          all_goals simp_all
        exact State.proceed_floorSound (by simpa using h) (by simpa using hr) _ _

/-! ## Kinds that come into force -/

theorem State.dropBarredElect_floorSound {s : State} (h : s.floor.Sound) (k : LockKind) : (s.dropBarredElect k).floor.Sound := by
  unfold State.dropBarredElect
  split
  · split
    · rw [State.dropElect_floor]; exact h.dropped
    · exact h
  · exact h

theorem State.freeBarredHolder_floorSound {s : State} (h : s.floor.Sound) (k : LockKind) : (s.freeBarredHolder k).floor.Sound := by
  unfold State.freeBarredHolder
  split
  · split
    · rename_i hb
      rw [State.tellHolder_floor]
      exact .of_alone (h.elect_none (by simpa using (Bool.and_eq_true_iff.mp hb).2)) fun _ => rfl
    · exact h
  · exact h

theorem State.comeIntoForce_floorSound {s : State} (h : s.floor.Sound) (k : LockKind) (o : Origin) :
    (s.comeIntoForce k o).floor.Sound := by
  have barred : ∀ k, ((s.dropBarredElect k).freeBarredHolder k).floor.Sound := fun k =>
    State.freeBarredHolder_floorSound (State.dropBarredElect_floorSound h k) k
  cases k with
  | panelHold => exact barred _
  | serviceLock => exact (State.dropPendingOn_floor _).symm ▸ barred _
  | roomClosed => simpa [State.comeIntoForce, State.closureOff] using h
  | lampLock | thermalLock => exact h

theorem State.placeLockout_floorSound {s : State} (h : s.floor.Sound) (l : Lockout) : (s.placeLockout l).floor.Sound := by
  unfold State.placeLockout
  dsimp only
  split
  · simpa using h
  · exact State.comeIntoForce_floorSound (by simpa using h) _ _

theorem State.setByHand_floorSound {s : State} (h : s.floor.Sound) (r : Requester) (k : LockKind) (e : Option Nat) :
    (s.setByHand r k e).floor.Sound := by
  have saved : ∀ u : State, (u.saveIfService k).floor = u.floor := fun u => by unfold State.saveIfService; split <;> simp
  unfold State.setByHand
  dsimp only
  rw [saved]
  split
  · exact h
  · exact State.placeLockout_floorSound h _

/-! ## The end of a switch, and the power -/

theorem State.completeSwitch_floorSound {s : State} (h : s.floor.Sound) (r : SwitchResult) : (s.completeSwitch r).floor.Sound := by
  unfold State.completeSwitch
  split
  · exact h
  · dsimp only
    unfold State.nextSwitch
    split
    · rw [(EngineOnly.startSwitch _ _ _ _).floor]
      simpa using h
    · unfold State.goIdle
      rw [(EngineOnly.endSwitchCond _).floor, (EngineOnly.payRelock _).floor]
      exact State.chainEnds_floorSound (by simpa using h)

theorem State.settle_floorSound {s : State} (h : s.floor.Sound) : s.settle.floor.Sound := by
  unfold State.settle
  rw [(EngineOnly.takePowerUp _).floor]
  unfold State.endUnmuting
  split
  · exact State.completeSwitch_floorSound h _
  · exact h

theorem State.finish_floorSound {s : State} (h : s.floor.Sound) : s.finish.floor.Sound := State.settle_floorSound h

theorem State.endApplying_floorSound {s : State} (h : s.floor.Sound) : s.endApplying.floor.Sound := by
  unfold State.endApplying
  split
  · split
    · split
      · exact State.completeSwitch_floorSound h _
      · rw [(EngineOnly.enterUnmuting _).floor]; exact h
    · exact h
  · exact h

theorem State.lockFails_floorSound {s : State} (h : s.floor.Sound) : s.lockFails.floor.Sound := by
  unfold State.lockFails
  split
  · split
    · exact h
    · exact State.completeSwitch_floorSound h _
  all_goals exact h

theorem State.powerDown_floorSound {s : State} (h : s.floor.Sound) : s.powerDown.floor.Sound := by
  have pending : ∀ u : State, u.abortPending.floor = u.floor := fun u => by unfold State.abortPending; split <;> rfl
  have hc : s.cutPower.floor.Sound := by rw [(EngineOnly.cutPower _).floor]; exact h
  unfold State.powerDown
  rw [(EngineOnly.watchBlank _).floor]
  unfold State.abortSwitch
  split
  · exact hc
  · exact State.chainEnds_floorSound (by simpa [pending] using hc)

theorem State.coolEnds_floorSound {s : State} (h : s.floor.Sound) : s.coolEnds.floor.Sound := by
  have supply : ∀ (u : State) (b : Bool), u.floor.Sound → (u.loseSupply b).floor.Sound := fun u b hu => by
    unfold State.loseSupply
    split
    · exact State.powerDown_floorSound hu
    · exact hu
  have off : s.restInOff.floor.Sound := by simpa [State.restInOff] using supply (s.enterRest .off) s.scalerSupplied h
  have fault : s.restInFault.floor.Sound := by simpa [State.restInFault] using supply (s.enterRest .fault) s.scalerSupplied h
  unfold State.coolEnds
  (repeat' split)
  · exact h
  · exact fault
  · simpa using h
  · exact off
  · exact off

/-! ## Commands formed inside the part -/

theorem State.innerIntake_floorSound {s : State} (h : s.floor.Sound) (r : Requester) (c : Cmd) {rest : State → State × Reply}
    (hr : (rest s).1.floor.Sound) : (s.innerIntake r c rest).1.floor.Sound := by
  rw [State.innerIntake_eq]
  split
  · exact h
  · exact hr

theorem State.innerLampOn_floorSound {s : State} (h : s.floor.Sound) (r : Requester) : (s.innerLampOn r).1.floor.Sound :=
  State.innerIntake_floorSound h _ _ (by simpa using h)

theorem State.innerLampOff_floorSound {s : State} (h : s.floor.Sound) (r : Requester) : (s.innerLampOff r).1.floor.Sound :=
  State.innerIntake_floorSound h _ _ (by simpa using h)

theorem State.innerLevel_floorSound {s : State} (h : s.floor.Sound) (r : Requester) (l : Level) : (s.innerLevel r l).1.floor.Sound :=
  State.innerIntake_floorSound h _ _ (by simpa using h)

theorem State.innerFloor_floorSound {s : State} (h : s.floor.Sound) (r : Requester) (c : Cmd) : (s.innerFloor r c).1.floor.Sound :=
  State.innerIntake_floorSound h _ _ (State.floorIntake_floorSound h r c)

/-! ## The schedule -/

theorem State.fireDeferral_floorSound {s : State} (h : s.floor.Sound) : s.fireDeferral.floor.Sound :=
  State.innerLampOff_floorSound (by simpa using h) _

theorem State.leaveEntry_floorSound {s : State} (h : s.floor.Sound) (old new : Option Effective) : (s.leaveEntry old new).floor.Sound := by
  have gone : (if removesRecord (kindOf old) (kindOf new) then s.removeLockouts Lockout.ofSchedule else s).floor.Sound := by
    split
    · simpa using h
    · exact h
  have deferred : ∀ (u : State) (e : EntryIdx), u.floor.Sound → (u.startDeferral e).floor.Sound := fun u e hu => by
    unfold State.startDeferral
    dsimp only
    split
    · exact State.fireDeferral_floorSound hu
    · exact hu
  unfold State.leaveEntry
  dsimp only
  split
  · split
    · exact deferred _ _ gone
    · exact gone
  · exact gone
  · exact gone

theorem State.enterEntry_floorSound {s : State} (h : s.floor.Sound) (e : Effective) (old : Option Effective) :
    (s.enterEntry e old).floor.Sound := by
  have booked : ∀ k, ((s.endDeferral 2).bookLockout e old k).floor.Sound := fun k => by
    unfold State.bookLockout
    split
    · simpa using h
    · exact State.placeLockout_floorSound (by simpa using h) _
  have kind : ((s.endDeferral 2).bookKind e old).floor.Sound := by
    unfold State.bookKind
    split
    · simpa using h
    · exact booked _
    · exact booked _
  unfold State.enterEntry
  dsimp only
  split
  · exact kind
  · unfold State.bookScene
    split
    · split
      · exact State.innerLampOn_floorSound kind _
      · exact State.innerFloor_floorSound (State.innerLampOn_floorSound kind _) _ _
    · exact State.innerLampOn_floorSound kind _

theorem State.evaluate_floorSound {s : State} (h : s.floor.Sound) : s.evaluate.floor.Sound := by
  unfold State.evaluate
  dsimp only
  split
  · exact h
  · split
    · exact State.enterEntry_floorSound (State.leaveEntry_floorSound (by exact h) _ _) _ _
    · exact State.leaveEntry_floorSound (by exact h) _ _

theorem State.changeEntry_floorSound {s : State} (h : s.floor.Sound) (e : EntryIdx) (c : Entry) : (s.changeEntry e c).floor.Sound :=
  State.evaluate_floorSound (by simpa using h)

/-! ## Commands of a port -/

/-- The owner's action on any command that is no floor command (R35, R161). -/
theorem State.act_floorSound {s : State} (h : s.floor.Sound) (p : Port) (c : Cmd) : (s.act p c).1.floor.Sound := by
  cases c
  case releaseFloor => exact State.releaseBy_floorSound h _
  case setLockout k e => exact State.setByHand_floorSound h _ _ _
  case setClock m w k => exact State.evaluate_floorSound (by exact h)
  case writeEntry e f | eraseEntry e | protectEntry e f => exact State.changeEntry_floorSound h _ _
  case replaceLamp m i => cases m <;> simpa [State.act] using h
  all_goals simpa [State.act, answer, done, State.zeroCounts, State.setMask, State.setPort, State.storeScene, State.setEnable, State.setGrace,
    State.setRoom, State.setRatedLife, State.writeAuthority, State.setSource] using h

theorem takeCommand_floorSound {s : State} (h : s.floor.Sound) (c : Code) (p : Port) : (takeCommand c p s).floor.Sound := by
  have accepted : ∀ (u : State) (x : Cmd), u.floor.Sound → (u.accept p x).1.floor.Sound := fun u x hu => by
    unfold State.accept
    split
    · exact State.floorIntake_floorSound hu _ _
    · split
      · exact hu
      · exact State.act_floorSound hu _ _
  have framed : ∀ (u : State) (pl : List Byte), u.floor.Sound → (u.intakeFrame p c pl).1.floor.Sound := fun u pl hu => by
    unfold State.intakeFrame
    (repeat' split)
    · exact hu
    · exact hu
    · exact hu
    · exact accepted _ _ hu
  unfold takeCommand
  split
  · split
    · exact State.settle_floorSound (framed (s.popInbox p) _ h)
    · exact h
  all_goals exact h

end Sys2Proof.Machine
end

