-- ==== Sys2Proof/Proofs/FloorRows.lean ====
section
/-! SUPPORT. The floor's consistency through the rows of the console, the scaler and the resets, and so through every step (R25, R32). -/

namespace Sys2Proof.Machine

/-! ## The console's rows -/

theorem State.takeKey_floorSound {s : State} (h : s.floor.Sound) (k : Key) : (s.takeKey k).floor.Sound := by
  have taken : ∀ (u : State) (c : Cmd), u.floor.Sound → (u.runLocal c).1.floor.Sound := fun u c hu => by
    unfold State.runLocal
    split
    · exact State.innerLampOn_floorSound hu _
    · exact State.innerLampOff_floorSound hu _
    · exact State.innerLevel_floorSound hu _ _
    · exact State.innerFloor_floorSound hu _ _
  unfold State.takeKey
  split
  · exact h
  · exact State.settle_floorSound (taken (s.setRaised []) _ h)

theorem State.sample_floorSound {s : State} (h : s.floor.Sound) (v : Byte) : (s.sample v).floor.Sound := by
  unfold State.sample
  dsimp only
  split
  · exact State.takeKey_floorSound (by exact h) _
  · exact h

theorem State.takeElement_floorSound {s : State} (h : s.floor.Sound) (e : IrElement) : (s.takeElement e).floor.Sound := by
  unfold State.takeElement State.takeFrame
  dsimp only
  split
  · split
    · split
      · exact State.takeKey_floorSound (by exact h) _
      · exact h
    · exact h
  · exact h

theorem State.takeElements_floorSound {s : State} (h : s.floor.Sound) (l : List IrElement) : (s.takeElements l).floor.Sound := by
  induction l generalizing s with
  | nil => exact h
  | cons e l ih => exact ih (State.takeElement_floorSound h e)

/-! ## The scaler's rows -/

theorem State.sigRises_floor (s : State) (n : InputIdx) : (s.sigRises n).floor = s.floor := by
  unfold State.sigRises
  dsimp only
  split
  · rw [(EngineOnly.wantRelock _).floor]
    split
    · rw [(EngineOnly.forget _ _).floor, (EngineOnly.watchBlank _).floor]; rfl
    · rw [(EngineOnly.watchBlank _).floor]; rfl
  · rw [(EngineOnly.watchBlank _).floor]; rfl

theorem State.sigFalls_floor (s : State) (n : InputIdx) : (s.sigFalls n).floor = s.floor := by
  unfold State.sigFalls
  rw [(EngineOnly.watchBlank _).floor, (EngineOnly.tellAspect _ _).floor]
  rfl

theorem State.blankAnswered_floor (s : State) (k : BlankKind) (n : Nat) (b : BlankRecord) : (s.blankAnswered k n b).floor = s.floor := by
  unfold State.blankAnswered
  split
  · rw [(EngineOnly.endMuting _).floor, (EngineOnly.compareBlank _).floor]; rfl
  · rfl

theorem State.blankLost_floorSound {s : State} (h : s.floor.Sound) (n : Nat) : (s.blankLost n).floor.Sound := by
  unfold State.blankLost
  split
  · exact h
  · split
    · exact h
    · dsimp only
      split
      · exact State.completeSwitch_floorSound (by exact h) _
      · exact h

theorem State.lockAnswered_floorSound {s : State} (h : s.floor.Sound) (t : Timing) : (s.lockAnswered t).floor.Sound := by
  unfold State.lockAnswered
  split
  · split
    · rw [(EngineOnly.watchBlank _).floor, (EngineOnly.enterApplying _ _).floor]; exact h
    · exact State.lockFails_floorSound h
  all_goals exact h

theorem State.windowEnds_floorSound {s : State} (h : s.floor.Sound) (n : Nat) : (s.windowEnds n).floor.Sound := by
  unfold State.windowEnds
  split
  · split
    · exact State.lockFails_floorSound h
    · exact h
  · exact h

theorem State.limitEnds_floorSound {s : State} (h : s.floor.Sound) (n : Nat) : (s.limitEnds n).floor.Sound := by
  unfold State.limitEnds
  split
  · split
    · exact State.completeSwitch_floorSound h _
    · exact h
  · exact h

theorem State.tableAnswered_floorSound {s : State} (h : s.floor.Sound) (n q : Nat) : (s.tableAnswered n q).floor.Sound := by
  unfold State.tableAnswered
  split
  · split
    · apply State.endApplying_floorSound
      unfold State.tableApplied
      dsimp only
      split <;> exact h
    · exact h
  · exact h

theorem State.tableLate_floorSound {s : State} (h : s.floor.Sound) (n : Nat) : (s.tableLate n).floor.Sound := by
  unfold State.tableLate
  (repeat' split)
  · exact h
  · exact State.completeSwitch_floorSound (by exact h) _
  · exact h
  · exact h

theorem State.timingChanges_floor (s : State) : s.timingChanges.floor = s.floor := by
  unfold State.timingChanges
  split
  · rw [(EngineOnly.wantRelock _).floor, (EngineOnly.watchBlank _).floor, (EngineOnly.tellAspect _ _).floor]; rfl
  · rfl

/-! ## The resets -/

theorem State.startNotices_floor (s : State) : s.startNotices.floor = s.floor := by
  have h : ∀ (l : List LockKind) (t : State), (l.foldl (fun t k =>
      match s.lockouts.find? fun l => l.kind == k with
      | some l => t.notify (inForceNotice k l.origin)
      | none => t) t).floor = t.floor := by
    intro l
    induction l with
    | nil => intro t; rfl
    | cons k l ih =>
      intro t
      rw [List.foldl_cons, ih]
      split <;> rfl
  exact h allKinds s

/-- A start begins with an empty floor (R25). -/
theorem State.start_floorSound (s : State) (sig : Vector Bool 6) : (s.start sig).floor.Sound := by
  have expired : ∀ u : State, u.startExpired.floor = u.floor := fun u => by unfold State.startExpired; split <;> simp
  have lit : ∀ u : State, u.startLamp.floor = u.floor := fun u => by
    unfold State.startLamp State.startCooling State.bookCooldown State.bookUnclean
    dsimp only
    (repeat' split) <;> simp [State.setRecord]
  have hot : ∀ u : State, u.startHeat.floor = u.floor := fun u => by unfold State.startHeat; split <;> simp
  have loaded : (s.load sig).floor.Sound := .of_alone rfl fun _ => rfl
  refine State.finish_floorSound (State.evaluate_floorSound ?_)
  rw [hot, lit, State.startNotices_floor, expired]
  exact (State.kick_floor (s.load sig)).symm ▸ loaded

/-! ## Every row -/

/-- The end of a row that leaves the floor alone. -/
theorem State.finish_of_floor {s x : State} (h : s.floor.Sound) (hx : x.floor = s.floor) : x.finish.floor.Sound :=
  State.finish_floorSound (hx ▸ h)

/-- Every row answers a next state, and keeps the floor consistent. -/
theorem exec_floorSound (c : Instr) (s : State) (h : s.floor.Sound) : ∃ t, exec c s = .next t ∧ t.floor.Sound := by
  have ite : ∀ {p : Prop} [Decidable p] {a b : State}, a.floor.Sound → b.floor.Sound → (if p then a else b).floor.Sound := by
    intro p _ a b ha hb
    split
    · exact ha
    · exact hb
  cases c
  case frameReceive | frameGapTimeout | frameStopBitError | frameLenOver48 | outboundFrameSent => exact ⟨_, rfl, h⟩
  case lineReturnsToMark p => exact ⟨_, rfl, ite h h⟩
  case badFrameEntry p =>
    refine ⟨_, rfl, ?_⟩
    unfold takeBadFrame
    split
    · exact ite (State.settle_floorSound (s := s.popInbox p) h) h
    all_goals exact h
  case unknownCommand p =>
    refine ⟨_, rfl, ?_⟩
    unfold takeUnknown
    split
    · exact ite (State.settle_floorSound (s := s.popInbox p) h) h
    all_goals exact h
  case portReset p => exact ⟨_, rfl, State.finish_floorSound (State.loseStanding_floorSound (by exact h) _)⟩
  case powerOnReset x => exact ⟨_, rfl, State.start_floorSound _ _⟩
  case resetN => exact ⟨_, rfl, State.start_floorSound _ _⟩
  case controllerResetBegin => exact ⟨_, rfl, ite (State.start_floorSound _ _) h⟩
  case lampSenseRise => exact ⟨_, rfl, ite h (State.finish_of_floor h (State.senseRise_floor _))⟩
  case dropOut => exact ⟨_, rfl, ite (State.finish_of_floor h (State.senseFall_floor _)) h⟩
  case overheat => exact ⟨_, rfl, ite h (State.finish_of_floor h (State.heat_floor _))⟩
  case thermHotDeassert => exact ⟨_, rfl, ite (State.finish_of_floor h (State.examineThermal_floor _)) h⟩
  case strikeWindowExpiry n => exact ⟨_, rfl, ite (State.finish_of_floor h s.strikeFails_floor) h⟩
  case retryPauseEnd n => exact ⟨_, rfl, ite (State.finish_of_floor h s.retryEnds_floor) h⟩
  case warmupEnd n => exact ⟨_, rfl, ite (State.finish_of_floor h s.warmupEnds_floor) h⟩
  case cooldownEnd n => exact ⟨_, rfl, ite (State.finish_floorSound (State.coolEnds_floorSound h)) h⟩
  case litSecond => exact ⟨_, rfl, State.finish_of_floor h s.litSecond_floor⟩
  case sigRise n => exact ⟨_, rfl, ite h (State.finish_of_floor h (s.sigRises_floor n))⟩
  case sigFall n => exact ⟨_, rfl, ite (State.finish_of_floor h (s.sigFalls_floor n)) h⟩
  case blanked m =>
    refine ⟨_, rfl, ?_⟩
    split
    · exact State.finish_of_floor h (s.blankAnswered_floor _ _ _)
    · exact h
  case unblanked m =>
    refine ⟨_, rfl, ?_⟩
    split
    · exact State.finish_of_floor h (s.blankAnswered_floor _ _ _)
    · exact h
  case locked m =>
    refine ⟨_, rfl, ?_⟩
    split
    · exact ite (State.finish_floorSound (State.lockAnswered_floorSound h _)) h
    · exact h
  case lockFailed m =>
    refine ⟨_, rfl, ?_⟩
    split
    · exact ite (State.finish_floorSound (State.lockFails_floorSound h)) h
    · exact h
  case applied m =>
    refine ⟨_, rfl, ?_⟩
    split
    · exact State.finish_floorSound (State.tableAnswered_floorSound h _ _)
    · exact h
  case timingChanged m =>
    refine ⟨_, rfl, ?_⟩
    split
    · exact ite (State.finish_of_floor h s.timingChanges_floor) h
    · exact h
  case lockWindowExpiry n => exact ⟨_, rfl, State.finish_floorSound (State.windowEnds_floorSound h n)⟩
  case overallLockLimitExpiry n => exact ⟨_, rfl, State.finish_floorSound (State.limitEnds_floorSound h n)⟩
  case blankRequestTimeout n => exact ⟨_, rfl, State.finish_floorSound (State.blankLost_floorSound h n)⟩
  case tableTimeout n => exact ⟨_, rfl, State.finish_floorSound (State.tableLate_floorSound h n)⟩
  case clockMinuteTick n =>
    refine ⟨_, rfl, ite (State.finish_floorSound ?_) h⟩
    exact ite (State.evaluate_floorSound (by exact h)) h
  case uptimeTick => exact ⟨_, rfl, State.finish_of_floor h (State.examineDeferral_floor _)⟩
  case deferralExpiry =>
    refine ⟨_, rfl, State.finish_floorSound ?_⟩
    unfold State.expireDeferral
    split
    · exact ite (State.fireDeferral_floorSound h) h
    · exact h
  case lockoutExpiry => exact ⟨_, rfl, State.finish_of_floor h s.expireLockouts_floor⟩
  case storeWriteComplete n => exact ⟨_, rfl, ite (State.finish_of_floor h s.completeWrite_floor) h⟩
  case storeWriteTimeout n => exact ⟨_, rfl, ite (State.finish_of_floor h s.failWrite_floor) h⟩
  case keypadSample v => exact ⟨_, rfl, State.finish_floorSound (State.sample_floorSound h v)⟩
  case irFrame l | irFrameDiscard l => exact ⟨_, rfl, State.finish_floorSound (State.takeElements_floorSound h l)⟩
  case irIdleGap => exact ⟨_, rfl, State.finish_floorSound (State.takeElement_floorSound h _)⟩
  all_goals exact ⟨_, rfl, takeCommand_floorSound h _ _⟩

end Sys2Proof.Machine

open Sys2Proof Sys2Proof.Machine

/-- Settles O10: the floor's consistency is kept by every row on its own, so by a step. -/
theorem floorKept : Obligations.FloorKept := by
  unfold Obligations.FloorKept
  intro s t _ _ _ hf hstep
  unfold step at hstep
  split at hstep
  · rename_i c rest _
    obtain ⟨t', ht, hs⟩ := exec_floorSound c (s.setPending rest) ((floorSound_iff s).mp hf)
    rw [ht] at hstep
    cases hstep
    exact hs
  · cases hstep
    exact hf
end

