-- ==== Sys2Proof/Proofs/FloorTaken.lean ====
section
/-! SUPPORT. A port's floor command from its row to its owner: the floor passed and told, or the command kept as elect (R28 to R32, R153). -/

namespace Sys2Proof.Machine

/-! ## Activity (R153) -/

theorem State.touch_eq (s : State) (r : Requester) : s.touch r =
    { s with schedule := { s.schedule with
        deferral := if atLectern r then s.schedule.deferral.map fun d => { d with quietFrom := s.uptime } else s.schedule.deferral } } := by
  unfold State.touch State.noteActivity
  by_cases h : atLectern r = true
  · rw [if_pos h, if_pos h]
    split
    · rename_i d hd; rw [hd]; rfl
    · rename_i hd; rw [hd, Option.map_none, ← hd]
  · rw [if_neg h, if_neg h]

theorem State.Telling.touch {v u : State} {pre : List Notice} (h : v.Telling u pre) (r : Requester) : (v.touch r).Telling (u.touch r) pre :=
  h.map (·.touch r) (fun _ _ => by rw [State.touch_eq, State.touch_eq]) (by rw [State.touch_eq])

theorem State.Settled.touch {s : State} (h : s.Settled) (r : Requester) : (s.touch r).Settled :=
  h.congr (by rw [State.touch_eq]) (by rw [State.touch_eq])

/-! ## What intake makes of a floor command -/

/-- A port's row for a floor command runs intake from step 9 on (R10, R28). -/
theorem takeCommand_floor {s : State} {p : Port} {c : Code} {tag : Byte} {pl : List Byte} {cmd : Cmd} {clamped : Bool}
    (h : Passes s p c tag pl) (hp : parseCmd c pl = some (cmd, clamped)) (ho : s.ownerRefusal cmd = none) (hf : s.isFloor cmd = true) :
    takeCommand c p s =
      ((s.popInbox p).floorIntake (portRequester p) cmd).1.answerPort p tag (codeByte c)
        (((s.popInbox p).floorIntake (portRequester p) cmd).2.withClamp clamped) := by
  rw [takeCommand_accept h hp ho]
  unfold State.accept
  rw [State.popInbox_isFloor, hf, if_pos rfl]

/-- With an elect's place won, the command waits there (R30). -/
theorem State.floorIntake_elect {s : State} {r : Requester} {c : Cmd} (h : FloorWaits s r) (hl : s.lateRefusal r c = none) :
    s.floorIntake r c = ({ s.touch r with floor := { s.floor with elect := some (r, c) }, raised := s.raised ++ s.floor.displacedNotice },
      { verdict := .waiting }) := by
  unfold State.floorIntake
  rw [State.decide_of_waits h, hl]
  dsimp only
  unfold State.becomeElect Floor.displacedNotice
  rw [State.touch_eq]
  dsimp only
  cases he : s.floor.elect with
  | none => simp [State.setElect, State.setFloor]
  | some e => rfl

/-- A command that step 9 lets through is run with its requester as holder (R31). -/
theorem State.floorIntake_proceeds {s : State} {r : Requester} {c : Cmd} (h : FloorOpens s r) (hl : s.lateRefusal r c = none) :
    s.floorIntake r c = (if s.floor.holder = some r then s.touch r else (s.touch r).passFloor r).proceed s.floor r c := by
  unfold State.floorIntake
  rw [State.decide_of_opens h]
  by_cases hh : s.floor.holder = some r
  · rw [if_pos hh, if_pos hh, hl]
  · rw [if_neg hh, if_neg hh, hl]

/-- The floor taken by r, with HOLDER at a passage (R31, R39). -/
theorem State.taking_eq (s : State) (r : Requester) :
    (if s.floor.holder = some r then s else s.passFloor r).tellHolder s.floor = s.taking r := by
  unfold State.taking Floor.taken Floor.takenNotice
  by_cases hh : s.floor.holder = some r
  · rw [if_pos hh, if_pos hh, if_pos hh, List.append_nil]
    exact if_pos ⟨rfl, rfl⟩
  · rw [if_neg hh, if_neg hh, if_neg hh, State.tellHolder_changed (by exact fun e => hh e.symm)]
    unfold Floor.taken
    rw [if_neg hh]
    rfl

/-- A floor command that proceeds is its owner's, with the floor taken first (R31). -/
theorem State.floorIntake_acts {s : State} {r : Requester} {c : Cmd} (h : FloorOpens s r) (hl : s.lateRefusal r c = none)
    (hc : c ≠ .holdFloor) :
    s.floorIntake r c = (((s.touch r).taking r).acted r c, (((s.touch r).taking r).ownerActs r c).2) := by
  rw [State.floorIntake_proceeds h hl, ← State.taking_eq, State.touch_floor]
  unfold State.proceed
  rw [if_neg hc]
  rfl

/-- The floor taken in a state with notices to tell. -/
theorem State.Telling.taking {v u : State} {pre : List Notice} (h : v.Telling u pre) (r : Requester) :
    (v.taking r).Telling { u with floor := u.floor.taken r } (pre ++ u.floor.takenNotice r) := by
  obtain ⟨hr, ps, rfl⟩ := h
  exact ⟨hr, ps, rfl⟩

theorem Quiet.popInbox {s : State} (h : Quiet s) (p : Port) : (s.popInbox p).Telling s [] := ⟨h.1, (s.popInbox p).ports, by rw [← h.1]; rfl⟩

/-- What port p's floor command finds: its entry taken, its activity noted, the floor its requester's (R3, R31, R153). -/
def State.taker (s : State) (p : Port) : State := ((s.popInbox p).touch (portRequester p)).taking (portRequester p)

theorem Quiet.taker {s : State} (h : Quiet s) (p : Port) :
    (s.taker p).Telling { s.touch (portRequester p) with floor := s.floor.taken (portRequester p) }
      (s.floor.takenNotice (portRequester p)) := by
  have ht := ((h.popInbox p).touch (portRequester p)).taking (portRequester p)
  rw [State.touch_floor, List.nil_append] at ht
  exact ht

theorem State.taker_ports (s : State) (p : Port) : (s.taker p).ports = (s.popInbox p).ports := by
  unfold State.taker State.taking
  rw [State.touch_eq]

/-- The state of the statements, with the floor taken, is as settled as the one before. -/
theorem Quiet.takenSettled {s : State} (h : Quiet s) (r : Requester) : ({ s.touch r with floor := s.floor.taken r } : State).Settled :=
  (h.settled.touch r).congr rfl rfl

theorem State.acted_room (s : State) (r : Requester) (c : Cmd) : (s.acted r c).room = s.room := by
  unfold State.acted
  rw [State.mark_room, State.ownerActs_room]

/-- A port's floor command that proceeds, from its row to its answer (R10, R31). -/
theorem exec_floor {s : State} {p : Port} {c : Code} {tag : Byte} {pl : List Byte} {cmd : Cmd} {b : Bool}
    (h : Passes s p c tag pl) (hp : parseCmd c pl = some (cmd, b)) (ho : s.ownerRefusal cmd = none) (hf : s.isFloor cmd = true)
    (hopen : FloorOpens s (portRequester p)) (hl : s.lateRefusal (portRequester p) cmd = none) (hc : cmd ≠ .holdFloor) :
    exec (rowOf c p) s = .next (((s.taker p).acted (portRequester p) cmd).closed
      (s.told p tag c (((s.taker p).ownerActs (portRequester p) cmd).2.withClamp b))) := by
  rw [exec_rowOf, takeCommand_floor h hp ho hf,
    State.floorIntake_acts (s := s.popInbox p) hopen (by rw [State.popInbox_lateRefusal]; exact hl) hc]
  exact congrArg Host.Outcome.next
    (State.answer_closed tag c _ ((State.ports_of_room (State.acted_room _ _ _)).trans (s.taker_ports p)))

end Sys2Proof.Machine
end

