-- ==== Sys2Proof/Proofs/FloorCommands.lean ====
section
/-! SUPPORT. The floor commands of a port but the recall: contention, HOLD, release, mute, input and keystone (R26 to R35, R93, R104,
R125). -/

namespace Sys2Proof.Machine

/-! ## Contention and HOLD (R28 to R32) -/

theorem Reply.withClamp_accepted {v : Verdict} (h : v.accepted = true) (b : Bool) :
    ({ verdict := v } : Reply).withClamp b = { verdict := v, clamped := b } := by simp [Reply.withClamp, h]

theorem Reply.withClamp_done (d b : Bool) :
    ({ verdict := .done, clamped := d } : Reply).withClamp b = { verdict := .done, clamped := d || b } := by
  simp [Reply.withClamp, Verdict.accepted]

/-- A floor given in a state with notices to tell, and more of them told. -/
theorem State.Telling.floored {v u : State} {pre : List Notice} (h : v.Telling u pre) (f : Floor) (l : List Notice) :
    ({ v with floor := f, raised := v.raised ++ l } : State).Telling { u with floor := f } (pre ++ l) := by
  obtain ⟨hr, ps, rfl⟩ := h
  exact ⟨hr, ps, rfl⟩

/-- A floor command that step 9 refuses is answered so, and nothing else changes (R28, R29). -/
theorem exec_floor_refused {s : State} {p : Port} {c : Code} {tag : Byte} {pl : List Byte} {cmd : Cmd} {b : Bool} {v : Verdict}
    (hq : Quiet s) (h : Passes s p c tag pl) (hp : parseCmd c pl = some (cmd, b)) (ho : s.ownerRefusal cmd = none)
    (hf : s.isFloor cmd = true) (hv : (s.popInbox p).floorIntake (portRequester p) cmd = (s.popInbox p, refusal v))
    (ha : v.accepted = false) : exec (rowOf c p) s = .next (s.answered p tag c { verdict := v }) := by
  rw [exec_rowOf, takeCommand_floor h hp ho hf, hv, Reply.withClamp_refusal ha]
  exact congrArg Host.Outcome.next (State.popInbox_answer hq p _ _ _)

/-- The elect that a HOLD of r drops: one that r is stronger than (R32). -/
def Floor.weaker (f : Floor) (r : Requester) : Option (Requester × Cmd) := f.elect.filter fun e => stronger r e.1

/-- The ELECT_DROPPED of the elect that a HOLD drops (R32, R39). -/
def Floor.weakerNotices (f : Floor) (r : Requester) : List Notice :=
  (f.weaker r).toList.map fun e =>
    { cls := .floor, kind := 3, subject := requesterCode e.1, result := 0x97, extra := (codeByte (cmdCode e.2)).toNat }

/-- The floor with HOLD newly set for r (R32). -/
def Floor.heldBy (f : Floor) (r : Requester) : Floor :=
  { holder := some r, hold := true, marker := f.marker, elect := if f.weaker r = none then f.elect else none }

/-- HOLD newly set drops a weaker elect, and keeps any other (R32). -/
theorem State.Telling.holdDropsElect {v u : State} {pre : List Notice} {r : Requester} {f : Floor}
    (h : v.Telling { u with floor := { f with holder := some r, hold := true } } pre) :
    v.holdDropsElect.Telling { u with floor := f.heldBy r } (pre ++ f.weakerNotices r) := by
  have hvf : v.floor = { f with holder := some r, hold := true } := h.read State.floor fun _ _ => rfl
  unfold State.holdDropsElect State.dropElect Floor.weakerNotices
  rw [hvf]
  dsimp only
  cases he : f.elect with
  | none =>
    have hw : f.weaker r = none := by rw [Floor.weaker, he]; rfl
    have hheld : f.heldBy r = { f with holder := some r, hold := true } := by rw [Floor.heldBy, if_pos hw]
    rw [hw, hheld]
    simpa using h
  | some e =>
    obtain ⟨e, c⟩ := e
    dsimp only
    by_cases hs : stronger r e = true
    · have hw : f.weaker r = some (e, c) := by rw [Floor.weaker, he]; simp [hs]
      have hheld : f.heldBy r = { f with holder := some r, hold := true, elect := none } := by rw [Floor.heldBy, hw]; rfl
      rw [if_pos hs, hw, hheld]
      exact (h.map (·.setElect none) (fun _ _ => rfl) rfl).notify (electDropped e Verdict.floorHeld.code c)
    · have hw : f.weaker r = none := by rw [Floor.weaker, he]; simp [hs]
      have hheld : f.heldBy r = { f with holder := some r, hold := true } := by rw [Floor.heldBy, if_pos hw]
      rw [if_neg hs, hw, hheld]
      simpa using h

/-- A HOLD_FLOOR of a holder that has HOLD is activity alone (R32). -/
theorem State.floorIntake_hold_again {s : State} {r : Requester} (hh : s.floor.holder = some r) (hhold : s.floor.hold = true) :
    (s.floorIntake r .holdFloor).1 = s.touch r := by
  have hf : (s.touch r).floor = s.floor := State.touch_floor _ _
  have hset : (s.touch r).setFloor { s.floor with hold := true } = s.touch r := by
    rw [← hhold, ← hf]
    rfl
  rw [State.floorIntake_proceeds (.inl hh) rfl, if_pos hh]
  unfold State.proceed
  rw [if_pos rfl]
  dsimp only
  rw [hf, hhold, if_pos rfl, hset]
  exact if_pos (by rw [hf]; exact ⟨rfl, rfl⟩)

/-- A HOLD_FLOOR that proceeds from another state of the floor sets HOLD, tells it, and drops a weaker elect (R31, R32, R39). -/
theorem State.Telling.holdFloor {v u : State} (hv : v.Telling u []) {r : Requester} (hopen : FloorOpens u r)
    (hnew : ¬ (u.floor.holder = some r ∧ u.floor.hold = true)) :
    (v.floorIntake r .holdFloor).1.Telling { u.touch r with floor := u.floor.heldBy r }
      ({ u.floor with holder := some r, hold := true : Floor }.notice :: u.floor.weakerNotices r) := by
  have hvf : v.floor = u.floor := hv.read State.floor fun _ _ => rfl
  let f : Floor := { u.floor with holder := some r, hold := true }
  let y : State := if v.floor.holder = some r then v.touch r else (v.touch r).passFloor r
  have hy : y.floor.hold = false ∧ y.setFloor { y.floor with hold := true } = (v.touch r).setFloor f := by
    by_cases hh : v.floor.holder = some r
    · have hhold : v.floor.hold = false := by
        rw [hvf] at hh ⊢
        simpa using fun e => hnew ⟨hh, e⟩
      simp only [y, if_pos hh, State.touch_floor]
      exact ⟨hhold, by simp only [f, ← hvf, ← hh]⟩
    · simp only [y, if_neg hh, State.passFloor]
      exact ⟨rfl, by rw [State.setFloor_floor, State.touch_floor, hvf]; rfl⟩
  have htold : ((v.touch r).setFloor f).tellHolder v.floor = ((v.touch r).setFloor f).notify f.notice := by
    rw [hvf]
    exact if_neg fun hc => hnew ⟨hc.1.symm, hc.2.symm⟩
  have hstep : (v.floorIntake r .holdFloor).1 = (((v.touch r).setFloor f).notify f.notice).holdDropsElect := by
    rw [State.floorIntake_proceeds (by unfold FloorOpens; rw [hvf]; exact hopen) rfl]
    change (y.proceed v.floor r .holdFloor).1 = _
    unfold State.proceed
    rw [if_pos rfl]
    dsimp only
    rw [hy.2, htold, if_neg (by rw [hy.1]; decide)]
  have hx := ((hv.touch r).map (·.setFloor f) (fun _ _ => rfl) rfl).notify f.notice
  rw [hstep]
  exact State.Telling.holdDropsElect (u := u.touch r) (f := u.floor) hx

/-- A HOLD_FLOOR that proceeds, from a holder with HOLD already or newly held (R31, R32). -/
theorem exec_holdFloor {s : State} {p : Port} {tag : Byte} (h : Passes s p .holdFloor tag [])
    (hopen : FloorOpens s (portRequester p)) {u : State} {l : List Notice}
    (hx : ((s.popInbox p).floorIntake (portRequester p) .holdFloor).1.Telling u l) (hu : u.Settled) :
    exec (.holdFloor p) s = .next { u with ports := s.told p tag .holdFloor { verdict := .done } l } := by
  have hopen' : FloorOpens (s.popInbox p) (portRequester p) := hopen
  have hreply : ((s.popInbox p).floorIntake (portRequester p) .holdFloor).2 = { verdict := .done } := by
    rw [State.floorIntake_proceeds hopen' rfl]
    rfl
  rw [show exec (.holdFloor p) s = .next (takeCommand .holdFloor p s) from rfl, takeCommand_floor h rfl rfl rfl, hreply,
    Reply.withClamp_false, State.answer_closed tag .holdFloor _ (State.ports_of_room (State.floorIntake_room _ _ _)), hx.closed hu]

/-! ## Release (R35) -/

/-- A RELEASE_FLOOR runs the release and is answered DONE (R35). -/
theorem exec_releaseFloor {s : State} {p : Port} {tag : Byte} (h : Passes s p .releaseFloor tag []) :
    exec (.releaseFloor p) s =
      .next (((s.popInbox p).releaseBy (portRequester p)).closed (s.told p tag .releaseFloor { verdict := .done })) := by
  rw [show exec (.releaseFloor p) s = .next (takeCommand .releaseFloor p s) from rfl, takeCommand_acts h rfl rfl rfl rfl,
    Reply.withClamp_false]
  exact congrArg Host.Outcome.next (State.answer_closed tag .releaseFloor _ (State.ports_of_room (State.releaseBy_room _ _)))

/-- The holder's release frees the floor, and what waits is handed it (R33, R35). -/
theorem State.popInbox_release {s : State} {p : Port} (h : s.floor.holder = some (portRequester p)) :
    (s.popInbox p).releaseBy (portRequester p) = (s.popInbox p).freeFloor.handOver s.floor := if_pos h

theorem Quiet.freed {s : State} (h : Quiet s) (p : Port) :
    (s.popInbox p).freeFloor.Telling { s with floor := { s.floor with holder := none, hold := false } } [] :=
  (h.popInbox p).map (·.freeFloor) (fun _ _ => rfl) rfl

/-! ## The end of UNMUTING (R99) -/

/-- An action that leaves UNMUTING over ends the switch SWITCHED, and the chain with it (R99, log 14). -/
theorem State.closed_chains {u v : State} {pre : List Notice} (hv : v.Telling u pre) {w : Switch} (hover : UnmutingOver u)
    (hw : u.engine.inFlight = some w) (ho : u.engine.powerUpOwed = false) (hc : u.engine.switchCond = false)
    (hh : u.engine.compHeld = u.composition) (e : Requester) (c : Cmd) (n : InputIdx) (q : ProfileIdx) (k : SceneIdx)
    (x : Keystone) (d : Direction) (m : Bool) (tell : List Notice → Ports) :
    Chains u (v.closed tell) (fun l => tell (pre ++ w.ended 0xA0 :: l)) w e c n q k x d m := by
  have he : v.engine = u.engine := hv.read State.engine fun _ _ => rfl
  have hcomp : v.composition = u.composition := hv.read State.composition fun _ _ => rfl
  rw [State.closed_unmuting (w := w) (by unfold UnmutingOver; rw [he, hcomp]; exact hover) (by rw [he]; exact hw)]
  exact State.completeSwitch_chains hv hw ho hc hh .switched e c n q k x d m tell

/-! ## Keystone (R109, R110, R125) -/

/-- A direction's code (R21). -/
def directionByte : Direction → Byte
  | .vUp => 0
  | .vDown => 1
  | .hUp => 2
  | .hDown => 3

theorem parse_setKeystone (q : ProfileIdx) (v h : Byte) :
    let sent : Keystone := { v := v.toInt, h := h.toInt }
    parseCmd .setKeystone [byte q.val, v, h] =
      some (.setKeystone q (clampKeystone sent), Decidable.decide (clampKeystone sent ≠ sent)) := by
  have hq : indexOf 4 (byteAt [byte q.val, v, h] 0) = some q := indexOf_profile q
  dsimp only
  simp only [parseCmd, hq]
  rfl

theorem parse_nudgeKeystone (q : ProfileIdx) (d : Direction) :
    parseCmd .nudgeKeystone [byte q.val, directionByte d] = some (plain (.nudgeKeystone q d)) := by
  have hq : indexOf 4 (byteAt [byte q.val, directionByte d] 0) = some q := indexOf_profile q
  simp only [parseCmd, hq]
  cases d <;> rfl

/-- A keystone command finds its place in the store when a slot takes the pair, or the store takes the profile's record (R16, R125). -/
theorem State.lateRefusal_pair {s : State} {r : Requester} {q : ProfileIdx} {c : Cmd}
    (hc : s.storeNeed r c = if (s.winner q).isSome then .nothing else .place (.profile q)) (hf : s.setIsFull r c = false)
    (h : s.winner q ≠ none ∨ StoreTakes s (.profile q)) : s.lateRefusal r c = none := by
  have stored : s.storeRefuses (s.storeNeed r c) = none := by
    rw [hc]
    rcases h with h | h
    · rw [if_pos (Option.isSome_iff_ne_none.mpr h)]; rfl
    · split
      · rfl
      · exact State.storeRefuses_place h
  unfold State.lateRefusal
  rw [stored, hf]
  rfl

/-- A keystone command of a profile that is not active, written without the floor (R26, R125). -/
theorem exec_pair {s : State} {p : Port} {c : Code} {tag : Byte} {pl : List Byte} {cmd : Cmd} {q : ProfileIdx} {x : Keystone}
    {b d : Bool} (hq : Quiet s) (h : Passes s p c tag pl) (hp : parseCmd c pl = some (cmd, b)) (ho : s.ownerRefusal cmd = none)
    (hf : s.isFloor cmd = false) (hl : s.lateRefusal (portRequester p) cmd = none)
    (ha : (s.popInbox p).act p cmd = ((s.popInbox p).writePair q x, { verdict := .done, clamped := d }))
    (ht : s.winner q = none → StoreTakes s (.profile q)) :
    ∃ t, exec (rowOf c p) s = .next t
      ∧ Rekeys s t (s.answered p tag c { verdict := .done, clamped := d || b }).ports q x := by
  rw [exec_rowOf, takeCommand_acts h hp ho hf hl, ha, Reply.withClamp_done,
    State.answer_closed tag c _ (State.ports_of_room (State.writePair_room _ _ _))]
  exact ⟨_, rfl, State.writePair_rekeys (hq.popInbox p) hq.settled q x ht _⟩

/-- Off the active profile a written pair leaves engine and geometry (R125). -/
theorem Rekeys.inactive {u t : State} {ps : Ports} {q : ProfileIdx} {x : Keystone} (h : Rekeys u t ps q x) (hq : u.profiles.active ≠ q) :
    (u.winner q = none →
        OnlySaved { u with ports := ps, profiles := { u.profiles with stored := u.profiles.stored.set q x } } t ∧ Saving t (.profile q))
      ∧ ∀ i, u.winner q = some i →
        t = { u with ports := ps, profiles := { u.profiles with slots := u.profiles.slots.set i (some { target := q, pair := x }) } } := by
  obtain ⟨slot, stored, same⟩ := h
  rw [if_pos (.inl hq)] at same
  obtain ⟨hg, he⟩ := same
  rw [hg, he] at slot stored
  exact ⟨stored, slot⟩

end Sys2Proof.Machine

open Sys2Proof Sys2Proof.Machine

/-- Settles O18: the decision of step 9, case by case. -/
theorem floorContention : Obligations.FloorContention := by
  unfold Obligations.FloorContention
  intro s p c tag pl cmd b hq h hp ho hf
  refine ⟨fun hh => ?_, fun hb => ?_, fun hw hl => ?_⟩
  · refine exec_floor_refused hq h hp ho hf ?_ rfl
    unfold State.floorIntake
    rw [State.decide_of_held (s := s.popInbox p) hh]
  · refine exec_floor_refused hq h hp ho hf ?_ rfl
    unfold State.floorIntake
    rw [State.decide_of_busy (s := s.popInbox p) hb]
  · have hpop := (hq.popInbox p).touch (portRequester p)
    have hwait := State.floorIntake_elect (s := s.popInbox p) (c := cmd) hw (by rw [State.popInbox_lateRefusal]; exact hl)
    have hx : ((s.popInbox p).floorIntake (portRequester p) cmd).1.Telling
        { s.touch (portRequester p) with floor := { s.floor with elect := some (portRequester p, cmd) } } s.floor.displacedNotice := by
      rw [hwait]
      have := hpop.floored { s.floor with elect := some (portRequester p, cmd) } s.floor.displacedNotice
      rw [State.touch_eq] at this ⊢
      exact this
    rw [exec_rowOf, takeCommand_floor h hp ho hf,
      State.answer_closed tag c _ (State.ports_of_room (State.floorIntake_room _ _ _)),
      hx.closed ((hq.settled.touch _).congr rfl rfl), hwait]
    dsimp only
    rw [Reply.withClamp_accepted rfl]

/-- Settles O19: HOLD newly set or found set, and a release with nobody waiting. -/
theorem holdAndRelease : Obligations.HoldAndRelease := by
  unfold Obligations.HoldAndRelease
  intro s p tag hq
  refine ⟨fun h => ⟨fun hh hhold => ?_, fun hopen hnew => ?_⟩, fun h => ⟨fun hne => ?_, fun hh he => ?_⟩⟩
  · have hopen : FloorOpens (s.popInbox p) (portRequester p) := .inl hh
    have hsame := State.floorIntake_hold_again (s := s.popInbox p) hh hhold
    rw [exec_holdFloor h hopen (by rw [hsame]; exact (hq.popInbox p).touch _) (hq.settled.touch _), State.told_nil, State.touch_eq]
    rfl
  · exact exec_holdFloor h hopen ((hq.popInbox p).holdFloor hopen hnew) ((hq.settled.touch _).congr rfl rfl)
  · have hstay : (s.popInbox p).releaseBy (portRequester p) = s.popInbox p := if_neg hne
    rw [exec_releaseFloor h, hstay, (hq.popInbox p).closed hq.settled]
    rfl
  · have hfree := hq.freed p
    have hover : (s.popInbox p).releaseBy (portRequester p)
        = (s.popInbox p).freeFloor.notify { s.floor with holder := none, hold := false : Floor }.notice := by
      rw [State.popInbox_release hh]
      unfold State.handOver
      rw [show (s.popInbox p).freeFloor.floor.elect = none from he]
      exact State.tellHolder_changed (by rw [hh]; exact fun e => by cases e)
    rw [exec_releaseFloor h, hover, (hfree.notify _).closed (hq.settled.congr rfl rfl)]
    rfl

/-- Settles O20: the freed floor handed to the elect, as a port reset hands it. -/
theorem handOver : Obligations.HandOver := by
  unfold Obligations.HandOver
  intro s p tag e c n q k x d m hq h hh he hne
  have hfree := hq.freed p
  have hset : s.Settled := hq.settled
  refine ⟨_, exec_releaseFloor h, ?_⟩
  rw [State.popInbox_release hh]
  have hother : ∀ f : Floor, f.holder ≠ some (portRequester p) → f.holder ≠ s.floor.holder := fun f h1 h2 => h1 (h2.trans hh)
  refine ⟨fun y hy => ?_, fun hok => ?_⟩
  · obtain ⟨z, hz, hzo⟩ := State.handOver_refuses hfree he hy s.floor
    have hzf := hz.read State.floor fun _ _ => rfl
    rw [hzo, State.tellHolder_changed (by rw [hzf]; exact hother _ (by simp)), hzf]
    exact (hz.notify _).closed (hset.congr rfl rfl) _
  · have := State.handOver_acts (before := s.floor) hfree hset he rfl (by rw [hh]; simpa using hne.symm) hok n q k x d m
      (s.told p tag .releaseFloor { verdict := .done })
    exact this.2 hok

/-- Settles O21: the mute's own effects, and where it ends UNMUTING the end of the switch behind them. -/
theorem muteActs : Obligations.MuteActs := by
  unfold Obligations.MuteActs
  intro s p tag m e a i q z x d b hq
  dsimp only
  intro h hopen
  let r := portRequester p
  let u : State := { s.touch r with floor := s.floor.taken r }
  let c : Cmd := if m then .setMute else .clearMute
  have hrow : exec (rowOf (if m then .setMute else .clearMute) p) s = .next (((s.taker p).mute m).closed
      (s.told p tag (if m then .setMute else .clearMute) { verdict := .done })) := by
    have := exec_floor (cmd := c) (b := false) h (by cases m <;> rfl) (by cases m <;> rfl) (by cases m <;> rfl) hopen (by cases m <;> rfl)
      (by cases m <;> decide)
    rw [this]
    cases m <;> rfl
  refine ⟨_, hrow, State.mute_muting (hq.taker p) (hq.takenSettled r) m _, fun w hstate hm hw _ => ?_⟩
  subst hm
  have hue : u.engine = s.engine := by rw [show u.engine = (s.touch r).engine from rfl, State.touch_eq]
  have hstate' : u.engine.state = .unmuting := by rw [hue]; exact hstate
  have := State.closed_chains ((hq.taker p).mute true) (w := w) ⟨hstate', .inr rfl⟩ (by rw [← hw, ← hue]; rfl) (hq.takenSettled r).2
    ((hq.takenSettled r).switchCond_unmuting hstate') rfl e a i q z x d b (s.told p tag .setMute { verdict := .done })
  exact this

/-- Settles O23: the start of the switch, with the floor taken first. -/
theorem selectStarts : Obligations.SelectStarts := by
  unfold Obligations.SelectStarts
  intro s p tag n hq h hen hopen hpow hfl hpt hst
  let r := portRequester p
  have ht := hq.taker p
  have hreply : ((s.taker p).ownerActs r (.selectInput n)).2 = { verdict := .started } := by
    change ({ verdict := ((s.taker p).selectInput r n).2 } : Reply) = _
    have he := ht.read State.engine fun _ _ => rfl
    rw [State.selectInput_idle r n (by rw [he, State.touch_eq]; exact hpow) (by rw [he, State.touch_eq]; exact hfl),
      ht.read (·.standing n) fun _ _ => rfl, State.touch_eq]
    rw [if_neg]
    exact hst ▸ by simp
  have hrow := exec_floor (cmd := .selectInput n) (b := false) h (by simp only [parseCmd, inputOf_inputCode]; rfl)
    (by simp [State.ownerRefusal, State.valuesOk, State.stateOk, hen]) rfl hopen rfl (by simp)
  rw [hreply, Reply.withClamp_false] at hrow
  exact ⟨_, hrow, State.acted_starts ht (hq.takenSettled r) r n _⟩

/-- Settles O29: a pair written off the active profile, in its slot or its store. -/
theorem keystoneWritten : Obligations.KeystoneWritten := by
  unfold Obligations.KeystoneWritten
  intro s p tag v h q d hq hact
  have off : ∀ c : Cmd, (∀ s : State, s.isFloor c = (s.profiles.active == q)) → s.isFloor c = false := fun c hc => by
    rw [hc]; simpa using hact
  have late : ∀ (c : Cmd), (s.storeNeed (portRequester p) c = if (s.winner q).isSome then .nothing else .place (.profile q)) →
      s.setIsFull (portRequester p) c = false → s.winner q ≠ none ∨ StoreTakes s (.profile q) →
      s.lateRefusal (portRequester p) c = none := fun c hc hf ht => State.lateRefusal_pair hc hf ht
  refine ⟨fun hp => ?_, fun hp => ?_⟩
  · have row : (s.winner q ≠ none ∨ StoreTakes s (.profile q)) → _ := fun ht => exec_pair (d := false) hq hp (parse_setKeystone q v h) rfl
      (off _ fun _ => rfl) (late _ rfl rfl ht) rfl fun hw => ht.resolve_left (not_not.mpr hw)
    simp only [Bool.false_or] at row
    refine ⟨fun hw ht => ?_, fun i hi => ?_⟩
    · obtain ⟨t, he, hk⟩ := row (.inr ht)
      exact ⟨t, he, (hk.inactive hact).1 hw⟩
    · obtain ⟨t, he, hk⟩ := row (.inl (by simp [hi]))
      exact he.trans (congrArg Host.Outcome.next ((hk.inactive hact).2 i hi))
  · have row : (s.winner q ≠ none ∨ StoreTakes s (.profile q)) → _ := fun ht => exec_pair (x := (nudge (s.effectivePair q) d).1)
      (d := (nudge (s.effectivePair q) d).2) hq hp (parse_nudgeKeystone q d) rfl
      (off _ fun _ => rfl) (late _ rfl rfl ht) rfl fun hw => ht.resolve_left (not_not.mpr hw)
    simp only [Bool.or_false] at row
    refine ⟨fun hw ht => ?_, fun i hi => ?_⟩
    · obtain ⟨t, he, hk⟩ := row (.inr ht)
      exact ⟨t, he, (hk.inactive hact).1 hw⟩
    · obtain ⟨t, he, hk⟩ := row (.inl (by simp [hi]))
      exact he.trans (congrArg Host.Outcome.next ((hk.inactive hact).2 i hi))

/-- Settles O30: a pair written on the active profile, with the floor taken first. -/
theorem activeKeystoneWritten : Obligations.ActiveKeystoneWritten := by
  unfold Obligations.ActiveKeystoneWritten
  intro s p tag v h d hq hopen
  dsimp only
  intro ht
  let r := portRequester p
  let q := s.profiles.active
  have htk := hq.taker p
  have hset := hq.takenSettled r
  have hpair : (s.taker p).effectivePair q = s.effectivePair q := by
    rw [htk.read (·.effectivePair q) fun _ _ => rfl, State.touch_eq]
    rfl
  have hplace : ({ s.touch r with floor := s.floor.taken r } : State).winner q = none →
      StoreTakes { s.touch r with floor := s.floor.taken r } (.profile q) := by
    rw [State.touch_eq]
    exact fun hw => ht.resolve_left (not_not.mpr hw)
  refine ⟨fun hp => ?_, fun hp => ?_⟩
  · have row := exec_floor hp (parse_setKeystone q v h) rfl (by exact beq_self_eq_true q) hopen (State.lateRefusal_pair rfl rfl ht) (by simp)
    rw [show ((s.taker p).ownerActs r (.setKeystone q (clampKeystone { v := v.toInt, h := h.toInt }))).2
      = { verdict := .done, clamped := false } from rfl, Reply.withClamp_done, Bool.false_or] at row
    exact ⟨_, row, State.writePair_rekeys htk hset q _ hplace _⟩
  · have row := exec_floor hp (parse_nudgeKeystone q d) rfl (by exact beq_self_eq_true q) hopen (State.lateRefusal_pair rfl rfl ht) (by simp)
    rw [show ((s.taker p).ownerActs r (.nudgeKeystone q d)).2
        = { verdict := .done, clamped := (nudge ((s.taker p).effectivePair q) d).2 } from rfl, Reply.withClamp_false,
      show (s.taker p).acted r (.nudgeKeystone q d)
        = (s.taker p).writePair q (nudge ((s.taker p).effectivePair q) d).1 from rfl, hpair] at row
    exact ⟨_, row, State.writePair_rekeys htk hset q _ hplace _⟩
end

