-- ==== Sys2Proof/Proofs/FloorRecall.lean ====
section
/-! SUPPORT. A port's RECALL_SCENE: the answer that step 5 gives it, and the end of UNMUTING by its mute (R99, R132 to R136). -/

namespace Sys2Proof.Machine

/-! ## The answer (R135) -/

/-- A scene with its input enabled is not refused by its owner (R15). -/
theorem State.ownerRefusal_recall {s : State} {k : SceneIdx} (h : s.enabled s.scenes[k].input = true) :
    s.ownerRefusal (.recallScene k) = none := by
  have hv : s.valuesOk (.recallScene k) = true := h
  have hs : s.stateOk (.recallScene k) = true := rfl
  exact (if_neg (by rw [hv]; decide)).trans (if_neg (by rw [hs]; decide))

/-- The verdict of a recall's step 5 (R135). -/
def State.recallVerdict (u : State) (k : SceneIdx) : Verdict :=
  if u.engine.powered = true ∧ (u.engine.inFlight ≠ none ∨ u.standing u.scenes[k].input = false
    ∨ u.profiles.active ≠ u.scenes[k].profile) then .started else .done

theorem State.recallInput_verdict (u : State) (r : Requester) (k : SceneIdx) :
    ((u.recallShown r k).recallInput r u.scenes[k].input (u.profiles.active != u.scenes[k].profile)).2 = u.recallVerdict k := by
  have he := u.recallShown_engine r k
  have hp : (u.recallShown r k).engine.powered = u.engine.powered := by rw [he]
  have hw : (u.recallShown r k).engine.inFlight = u.engine.inFlight := by rw [he]
  unfold State.recallVerdict
  cases hpow : u.engine.powered with
  | false =>
    rw [State.recallInput_unpowered _ _ _ (hp.trans hpow)]
    rfl
  | true =>
    cases hfl : u.engine.inFlight with
    | some w =>
      rw [State.recallInput_busy _ _ _ (hp.trans hpow) (hw.trans hfl)]
      simp
    | none =>
      rw [State.recallInput_idle _ _ _ (hp.trans hpow) (hw.trans hfl), State.recallShown_standing]
      generalize u.scenes[k].input = n
      generalize u.scenes[k].profile = q
      cases hst : u.standing n with
      | false => simp
      | true => by_cases ha : u.profiles.active = q <;> simp [ha]

/-- The answer of a recall where no strike begins: CLAMPED for a reduced level (R133, R135). -/
theorem State.ownerActs_recall {v : State} {r : Requester} {k : SceneIdx} (h : v.recallLights r k = false ∨ v.lamp.state ≠ .off) :
    (v.ownerActs r (.recallScene k)).2 = { verdict := v.recallVerdict k, clamped := (v.levelGiven r v.scenes[k]).2 } := by
  change (v.runRecall r k).2 = _
  unfold State.runRecall
  dsimp only
  rw [State.recall_lamp h]
  dsimp only
  rw [State.recall_profile, (EngineOnly.mute _ _).profiles]
  exact congrArg (fun x => ({ verdict := x, clamped := (v.levelGiven r v.scenes[k]).2 } : Reply)) (State.recallInput_verdict v r k)

/-- A recall whose LAMP_ON strikes answers as the recall in the struck lamp's state (R133). -/
theorem State.ownerActs_strikes {v : State} {r : Requester} {k : SceneIdx} (hon : v.recallLights r k = true) (hl : v.lamp.state = .off)
    (hs : v.strike.lamp.state = .striking) (hc : v.strike.scenes = v.scenes) :
    (v.ownerActs r (.recallScene k)).2 = (v.strike.ownerActs r (.recallScene k)).2 := by
  obtain ⟨hpow, hpass⟩ := Bool.and_eq_true_iff.mp hon
  have hpow' : v.scenes[k].power = .on := by simpa using hpow
  have lit : v.recallPower r v.scenes[k].power = v.strike := by
    unfold State.recallPower State.lampOn
    rw [hpow', hl]
    exact if_pos hpass
  have same : v.strike.recallPower r v.scenes[k].power = v.strike := by
    unfold State.recallPower
    rw [hpow', hs]
  change (v.runRecall r k).2 = (v.strike.runRecall r k).2
  unfold State.runRecall
  dsimp only
  rw [hc, lit, same]

/-- The statements of a recall hold with the answer that is given. -/
theorem Recalls.answered {u t : State} {told : Reply → List Notice → Ports} {r : Requester} {k : SceneIdx}
    (h : Recalls u t (fun _ l => told { verdict := u.recallVerdict k, clamped := (u.levelGiven r u.scenes[k]).2 } l) r k) :
    Recalls u t told r k := by
  obtain ⟨unpowered, idle, busy⟩ := h
  have done : u.engine.powered = false → u.recallVerdict k = .done := fun hp => if_neg (by simp [hp])
  have stands : u.engine.inFlight = none → u.standing u.scenes[k].input = true → u.profiles.active = u.scenes[k].profile →
      u.recallVerdict k = .done := fun hw hst ha => if_neg fun ⟨_, hc⟩ =>
    hc.elim (· hw) (·.elim (fun h => absurd (hst.symm.trans h) (by decide)) (· ha))
  have started : u.engine.powered = true → (u.engine.inFlight ≠ none ∨ u.standing u.scenes[k].input = false
      ∨ u.profiles.active ≠ u.scenes[k].profile) → u.recallVerdict k = .started := fun hp h => if_pos ⟨hp, h⟩
  refine ⟨fun hp hw hi => ?_, fun hp hw hi hpt => ?_, fun w hp hw => ?_⟩
  · have := unpowered hp hw hi
    rw [done hp] at this
    exact this
  · obtain ⟨starts, applies, standing⟩ := idle hp hw hi hpt
    refine ⟨fun hst => ?_, fun hst hne => ?_, fun hst heq => ?_⟩
    · have := starts hst
      rw [started hp (.inr (.inl hst))] at this
      exact this
    · have := applies hst hne
      rw [started hp (.inr (.inr hne))] at this
      exact this
    · have := standing hst heq
      rw [stands hw hst heq] at this
      exact this
  · have := busy w hp hw
    rw [started hp (.inl (by simp [hw]))] at this
    exact this

/-! ## A mute that ends UNMUTING (R99) -/

/-- A recall whose mute turns the composition in UNMUTING leaves that state over. -/
theorem State.recallJoined_over {u : State} (hs : u.Settled) (r : Requester) (k : SceneIdx) (w : Switch)
    (hu : u.engine.state = .unmuting) (hm : u.scenes[k].mute = true) :
    UnmutingOver (u.recallJoined r k w) ∧ (u.recallJoined r k w).engine.powerUpOwed = false
      ∧ (u.recallJoined r k w).engine.switchCond = false := by
  have hue := u.recallShown_engine r k
  have hst : (u.recallJoined r k w).engine.state = u.engine.state := by
    rw [State.recallJoined_eq]
    change (u.recallShown r k).engine.state = _
    rw [hue]
  have hmute : (u.recallJoined r k w).engine.userMute = u.scenes[k].mute := by
    rw [State.recallJoined_eq]
    change (u.recallShown r k).engine.userMute = _
    rw [hue]
  refine ⟨⟨hst.trans hu, .inr ?_⟩, ?_, ?_⟩
  · unfold State.composition
    rw [hmute, hm]
    rfl
  · rw [State.recallJoined_eq]
    change (u.recallShown r k).engine.powerUpOwed = _
    rw [hue]
    exact hs.2
  · rw [State.recallJoined_eq]
    change (u.recallShown r k).engine.switchCond = _
    rw [hue]
    exact hs.switchCond_unmuting hu

/-- Such a recall ends the switch that it met SWITCHED, and with the chain the unit (R99, log 14). -/
theorem State.acted_recall_chains {u v : State} {pre : List Notice} (hv : v.Telling u pre) (hs : u.Settled) {r : Requester} {k : SceneIdx}
    (hl : u.recallLights r k = false ∨ u.lamp.state ≠ .off) (hp : u.engine.powered = true) (hu : u.engine.state = .unmuting)
    (hm : u.scenes[k].mute = true) {w : Switch} (hw : u.engine.inFlight = some w) (e : Requester) (c : Cmd) (n : InputIdx)
    (q : ProfileIdx) (z : SceneIdx) (x : Keystone) (d : Direction) (m : Bool) (tell : List Notice → Ports) :
    Chains (u.recallJoined r k w) ((v.acted r (.recallScene k)).closed tell)
      (fun l => tell (pre ++ ((u.engine.displaced w.target u.scenes[k].input).toList.map PendingTarget.lost
        ++ (w.carrying u.scenes[k].input r).ended 0xA0 :: l)))
      (w.carrying u.scenes[k].input r) e c n q z x d m := by
  have hscenes : v.scenes = u.scenes := hv.read State.scenes fun _ _ => rfl
  have hact : v.profiles.active = u.profiles.active := by rw [hv.read State.profiles fun _ _ => rfl]
  have hl' : v.recallLights r k = false ∨ v.lamp.state ≠ .off := by
    rw [hv.read (·.recallLights r k) fun _ _ => rfl, hv.read State.lamp fun _ _ => rfl]
    exact hl
  rw [State.acted_recall hl', hscenes, hact]
  have hx := (hv.recallShown r k).recallTaken hp hw (u.profiles.active != u.scenes[k].profile)
  obtain ⟨hover, hjo, hjs⟩ := State.recallJoined_over hs r k w hu hm
  have := State.closed_chains hx hover (w := w.carrying u.scenes[k].input r) rfl hjo hjs (State.recallJoined_compHeld u r k w)
    e c n q z x d m tell
  simp only [List.append_assoc] at this
  exact this

/-! ## The row (R31, R133) -/

/-- s as its floor's new holder r finds it, in the words of the statements (R31, R153). -/
def State.takenBy (s : State) (r : Requester) : State := { s.touch r with floor := s.floor.taken r }

theorem State.takenBy_eq (s : State) (r : Requester) : s.takenBy r =
    { s with floor := s.floor.taken r, schedule := (s.touch r).schedule } := by
  unfold State.takenBy
  rw [State.touch_eq]

/-- The floor's new holder reads the room as its command found it. -/
theorem State.takenBy_reads (s : State) (r : Requester) (k : SceneIdx) :
    (s.takenBy r).scenes = s.scenes ∧ (s.takenBy r).lamp = s.lamp ∧ (s.takenBy r).engine = s.engine
      ∧ (s.takenBy r).recallLights r k = s.recallLights r k := by
  rw [State.takenBy_eq]
  exact ⟨rfl, rfl, rfl, rfl⟩

theorem Quiet.takerTold {s : State} (hq : Quiet s) (p : Port) :
    (s.taker p).Telling (s.takenBy (portRequester p)) (s.floor.takenNotice (portRequester p)) := hq.taker p

/-- A port's recall that proceeds, from its row to its answer. -/
theorem exec_recallScene {s : State} {p : Port} {tag : Byte} {k : SceneIdx} (h : Passes s p .recallScene tag [byte k.val])
    (hen : s.enabled s.scenes[k].input = true) (hopen : FloorOpens s (portRequester p)) :
    exec (.recallScene p) s = .next (((s.taker p).acted (portRequester p) (.recallScene k)).closed
      (s.told p tag .recallScene ((s.taker p).ownerActs (portRequester p) (.recallScene k)).2)) := by
  have row := exec_floor (cmd := .recallScene k) (b := false) h (by simp only [parseCmd, indexOf_scene]; rfl)
    (State.ownerRefusal_recall hen) rfl hopen rfl (by simp)
  rw [Reply.withClamp_false] at row
  exact row

/-- Where no strike begins the answer is step 5's verdict, CLAMPED for a reduced level (R133, R135). -/
theorem Quiet.recall_reply {s : State} (hq : Quiet s) (p : Port) {k : SceneIdx}
    (hl : s.recallLights (portRequester p) k = false ∨ s.lamp.state ≠ .off) :
    ((s.taker p).ownerActs (portRequester p) (.recallScene k)).2 =
      { verdict := (s.takenBy (portRequester p)).recallVerdict k,
        clamped := ((s.takenBy (portRequester p)).levelGiven (portRequester p) (s.takenBy (portRequester p)).scenes[k]).2 } := by
  have htk := hq.takerTold p
  obtain ⟨_, hlamp, _, hlights⟩ := s.takenBy_reads (portRequester p) k
  have hlv : (s.taker p).recallLights (portRequester p) k = false ∨ (s.taker p).lamp.state ≠ .off := by
    rw [htk.read (·.recallLights (portRequester p) k) fun _ _ => rfl, htk.read State.lamp fun _ _ => rfl, hlights, hlamp]
    exact hl
  rw [State.ownerActs_recall hlv, htk.read (·.recallVerdict k) fun _ _ => rfl,
    htk.read (fun y => (y.levelGiven (portRequester p) y.scenes[k]).2) fun _ _ => rfl]

/-- A recall that strikes finds the scaler unpowered: DONE, CLAMPED for a level reduced at the struck lamp's wear (R133, R135). -/
theorem Quiet.recall_strikes_reply {s : State} (hq : Quiet s) (p : Port) {k : SceneIdx} (hon : s.recallLights (portRequester p) k = true)
    (hoff : s.lamp.state = .off) (hpow : s.engine.powered = false) :
    ((s.taker p).ownerActs (portRequester p) (.recallScene k)).2 =
      { verdict := .done, clamped := (((s.takenBy (portRequester p)).struck 1).rebanded.levelGiven (portRequester p) s.scenes[k]).2 } := by
  have htk := hq.takerTold p
  obtain ⟨hscenes, hlamp, hengine, hlights⟩ := s.takenBy_reads (portRequester p) k
  have hlu : (s.takenBy (portRequester p)).lamp.state = .off := by rw [hlamp]; exact hoff
  obtain ⟨hst, _⟩ := State.strike_struck htk hlu
  have hsc : (s.taker p).strike.scenes = (s.taker p).scenes := by
    rw [htk.read State.scenes fun _ _ => rfl, hst.saved.1]
    rfl
  have hsl : (s.taker p).strike.lamp.state = .striking := by rw [hst.lamp]; rfl
  have hdone : (s.taker p).strike.recallVerdict k = .done := by
    unfold State.recallVerdict
    rw [hst.engine, hengine]
    exact if_neg (by rw [hpow]; simp)
  rw [State.ownerActs_strikes (by rw [htk.read (·.recallLights (portRequester p) k) fun _ _ => rfl, hlights]; exact hon)
      (by rw [htk.read State.lamp fun _ _ => rfl]; exact hlu) hsl hsc,
    State.ownerActs_recall (.inr (by rw [hsl]; decide)), hdone, hst.levelGiven, hsc, htk.read State.scenes fun _ _ => rfl, hscenes]

end Sys2Proof.Machine

open Sys2Proof Sys2Proof.Machine

/-- Settles O24: the recall as the floor's new holder, with the answer of its step 5. -/
theorem recallActs : Obligations.RecallActs := by
  unfold Obligations.RecallActs
  intro s p tag k e a i q z x d b hq h hen hopen
  have row := exec_recallScene h hen hopen
  have htk := hq.takerTold p
  have hset : (s.takenBy (portRequester p)).Settled := hq.takenSettled (portRequester p)
  obtain ⟨hscenes, hlamp, hengine, hlights⟩ := s.takenBy_reads (portRequester p) k
  have hsound : EngineSound s → EngineSound (s.takenBy (portRequester p)) := fun hs => by
    rw [State.takenBy_eq]
    exact hs
  refine ⟨fun hl => ?_, fun hon hoff hs hpow hblank => ?_⟩
  · rw [hq.recall_reply p hl] at row
    have hlu : (s.takenBy (portRequester p)).recallLights (portRequester p) k = false
        ∨ (s.takenBy (portRequester p)).lamp.state ≠ .off := by
      rw [hlights, hlamp]
      exact hl
    refine ⟨_, row, Recalls.answered (State.acted_recalls htk hset _ k hlu _), fun w hp hu hm hw _ => ?_⟩
    have hverdict : (s.takenBy (portRequester p)).recallVerdict k = .started := by
      unfold State.recallVerdict
      rw [hengine]
      exact if_pos ⟨hp, .inl (by rw [hw]; exact fun hc => by cases hc)⟩
    have := State.acted_recall_chains htk hset hlu (by rw [hengine]; exact hp) (by rw [hengine]; exact hu)
      (by rw [hscenes]; exact hm) (by rw [hengine]; exact hw) e a i q z x d b
    simp only [hverdict, hscenes, hengine] at this ⊢
    exact this _
  · rw [hq.recall_strikes_reply p hon hoff hpow] at row
    exact ⟨_, row, State.acted_relights htk _ k (by rw [hlights]; exact hon) (by rw [hlamp]; exact hoff) (hsound hs)
      (by rw [hengine]; exact hpow) (by rw [hengine]; exact hblank) _⟩
end

