-- ==== Sys2Proof/Proofs/FloorLockout.lean ====
section
/-! SUPPORT. SET_LOCKOUT that brings a kind into force: the record, IN_FORCE, the kind's effects, and the save of a SERVICE_LOCK (R36, R37,
R57, R61, R160 to R163, R168). -/

namespace Sys2Proof.Machine

/-- A record queued behind an action that tells: the save alone is left to the store (R168, R184). -/
theorem State.Telling.queued {v u : State} {pre : List Notice} (hv : v.Telling u pre) (hs : u.Settled) {rec : RecordId}
    (ht : StoreTakes u rec) (tell : List Notice → Ports) :
    OnlySaved { u with ports := tell pre } ((v.queueRecord rec).closed tell) ∧ Saving ((v.queueRecord rec).closed tell) rec := by
  obtain ⟨hr, ps, rfl⟩ := hv
  let c : State := { u with ports := ps, raised := pre }
  have hsaved : OnlySaved c (c.queueRecord rec) := c.queueRecord_onlySaved rec
  have hset : (c.queueRecord rec).Settled := hs.congr (by rw [hsaved.1]) (by rw [hsaved.1])
  have hraised : (c.queueRecord rec).raised = pre := by rw [hsaved.1]
  have hsaving : Saving (c.queueRecord rec) rec := State.queueRecord_saving (s := c) ht
  rw [State.closed_of_settled hset, hraised]
  refine ⟨?_, ?_⟩
  · have := hsaved.close (tell pre) []
    rw [← hr] at this ⊢
    exact this
  · unfold Saving at hsaving ⊢
    cases rec <;> exact hsaving

/-- The asker whose pending-on a SERVICE_LOCK drops (R57). -/
def Lamp.unserved (l : Lamp) : Option LampAsker := l.pendingOn.filter fun a => Decidable.decide (a ≠ .requester .service)

/-- A SERVICE_LOCK coming into force drops the pending-on of anyone but SERVICE, and tells it (R57). -/
theorem State.Telling.dropPendingOn {v u : State} {pre : List Notice} (hv : v.Telling u pre) :
    v.dropPendingOn.Telling (u.setLamp { u.lamp with pendingOn := if u.lamp.unserved = none then u.lamp.pendingOn else none })
      (pre ++ u.lamp.unserved.toList.map pendingDropped) := by
  have hl : v.lamp = u.lamp := hv.read State.lamp fun _ _ => rfl
  have stays : u.lamp.unserved = none → v.dropPendingOn = v →
      v.dropPendingOn.Telling (u.setLamp { u.lamp with pendingOn := if u.lamp.unserved = none then u.lamp.pendingOn else none })
        (pre ++ u.lamp.unserved.toList.map pendingDropped) := fun hn hd => by
    rw [hd, hn, if_pos rfl, Option.toList_none, List.map_nil, List.append_nil]
    exact hv
  obtain hp | ⟨a, hp⟩ := Option.eq_none_or_eq_some u.lamp.pendingOn
  · refine stays (by rw [Lamp.unserved, hp]; rfl) ?_
    unfold State.dropPendingOn
    rw [hl, hp]
  · by_cases ha : a = .requester .service
    · refine stays (by rw [Lamp.unserved, hp, ha]; rfl) ?_
      unfold State.dropPendingOn
      rw [hl, hp]
      exact if_pos ha
    · have hn : u.lamp.unserved = some a := by rw [Lamp.unserved, hp]; simp [ha]
      have hd : v.dropPendingOn = (v.setLamp { u.lamp with pendingOn := none }).notify (pendingDropped a) := by
        unfold State.dropPendingOn
        rw [hl, hp]
        exact if_neg ha
      rw [hd, hn]
      exact (hv.map (·.setLamp { u.lamp with pendingOn := none }) (fun _ _ => rfl) rfl).notify _

/-- The record that a SET_LOCKOUT of k with n minutes sets for r (R163). -/
def setRecord (s : State) (r : Requester) (k : LockKind) (n : Nat) : Lockout :=
  { kind := k, origin := .manual r, reason := none, setAt := s.uptime, expiry := keptExpiry n }

/-- No record of a kind not in force stands (R160). -/
theorem State.any_own_false {s : State} {k : LockKind} (h : s.inForce k = false) (r : Requester) : s.lockouts.any (ownRecord r k) = false := by
  rw [State.inForce, List.any_eq_false] at h
  rw [List.any_eq_false]
  intro l hl ho
  exact h l hl (Bool.and_eq_true_iff.mp ho).1

/-- A SET_LOCKOUT whose kind comes into force, from its row to its effects (R161, R163). -/
theorem exec_setLockout {s : State} {p : Port} {tag : Byte} {k : LockKind} {n : Nat} (hk : lockKindCode k ≤ 2) (hn : n < 65536)
    (h : Passes s p .setLockout tag (byte (lockKindCode k) :: bytes16 n)) (hforce : s.inForce k = false)
    (hlate : s.lateRefusal (portRequester p) (.setLockout k (keptExpiry n)) = none) :
    exec (.setLockout p) s = .next ((((((s.popInbox p).setLockouts (insertLockout (setRecord s (portRequester p) k n) s.lockouts)).notify
        (inForceNotice k (.manual (portRequester p)))).comeIntoForce k (.manual (portRequester p))).saveIfService k).closed
      (s.told p tag .setLockout { verdict := .done, clamped := Decidable.decide (1440 < n) })) := by
  have hact : (s.popInbox p).act p (.setLockout k (keptExpiry n)) =
      (((((s.popInbox p).setLockouts (insertLockout (setRecord s (portRequester p) k n) s.lockouts)).notify
        (inForceNotice k (.manual (portRequester p)))).comeIntoForce k (.manual (portRequester p))).saveIfService k,
        { verdict := .done }) := by
    change done ((s.popInbox p).setByHand (portRequester p) k (keptExpiry n)) = _
    unfold State.setByHand
    refine congrArg (fun x : State => done (x.saveIfService k)) ((if_neg ?_).trans ?_)
    · rw [Bool.not_eq_true]
      exact State.any_own_false (s := s.popInbox p) hforce _
    · rw [State.placeLockout_eq]
      exact if_neg (by rw [Bool.not_eq_true]; exact hforce)
  have hroom : (((((s.popInbox p).setLockouts (insertLockout (setRecord s (portRequester p) k n) s.lockouts)).notify
        (inForceNotice k (.manual (portRequester p)))).comeIntoForce k (.manual (portRequester p))).saveIfService k).room
      = (s.popInbox p).room := by simp
  rw [show exec (.setLockout p) s = .next (takeCommand .setLockout p s) from rfl,
    takeCommand_acts h (parse_setLockout hk hn) rfl rfl hlate, hact, State.answer_closed tag .setLockout _ (State.ports_of_room hroom)]
  simp only [Reply.withClamp, Verdict.accepted, Bool.and_true, Bool.false_or]

end Sys2Proof.Machine

open Sys2Proof Sys2Proof.Machine

/-- Settles O42: the record and IN_FORCE first, then each kind's own effects. -/
theorem lockoutComes : Obligations.LockoutComes := by
  unfold Obligations.LockoutComes
  intro s p tag k n hq hn h hforce hlen
  let r := portRequester p
  let ls := insertLockout (setRecord s r k n) s.lockouts
  have hset : (s.setLockouts ls).Settled := hq.settled.congr rfl rfl
  have htold : (((s.popInbox p).setLockouts ls).notify (inForceNotice k (.manual r))).Telling (s.setLockouts ls)
      [inForceNotice k (.manual r)] :=
    State.Telling.notify ((hq.popInbox p).map (·.setLockouts ls) (fun _ _ => rfl) rfl) _
  have hroom : s.setIsFull r (.setLockout k (keptExpiry n)) = false := by
    rw [State.setIsFull_setLockout, decide_eq_false (Nat.not_le.mpr hlen), Bool.and_false]
  dsimp only
  refine ⟨fun hk => ?_, fun hk ht => ?_, fun hk => ?_⟩
  · subst hk
    rw [exec_setLockout (by decide) hn h hforce (by rw [State.lateRefusal_setLockout (by decide), hroom]; rfl)]
    exact congrArg Host.Outcome.next ((htold.floorUnder .panelHold).closed (hset.congr rfl rfl) _)
  · subst hk
    have hlate : s.lateRefusal r (.setLockout .serviceLock (keptExpiry n)) = none := by
      unfold State.lateRefusal
      rw [show s.storeNeed r (.setLockout .serviceLock (keptExpiry n)) = .place .lockout from rfl, State.storeRefuses_place ht, hroom]
      rfl
    refine ⟨_, exec_setLockout (by decide) hn h hforce hlate, ?_⟩
    have := (htold.floorUnder .serviceLock).dropPendingOn.queued (rec := .lockout) (hset.congr rfl rfl) ht
      (s.told p tag .setLockout { verdict := .done, clamped := Decidable.decide (1440 < n) })
    rw [List.append_assoc] at this
    exact this
  · subst hk
    refine ⟨_, exec_setLockout (by decide) hn h hforce (by rw [State.lateRefusal_setLockout (by decide), hroom]; rfl), ?_⟩
    have hoff : (((s.popInbox p).setLockouts ls).notify (inForceNotice .roomClosed (.manual r))).comeIntoForce .roomClosed (.manual r)
        = ((((s.popInbox p).setLockouts ls).notify (inForceNotice .roomClosed (.manual r))).endDeferral 1).lampOff.1 := by
      change State.closureOff _ _ = _
      unfold State.closureOff State.lampOffEndsDeferral behalf
      rw [if_neg (by cases p <;> decide)]
    have := State.lampOff_darkens (htold.endDeferral 1) (hset.congr rfl rfl)
      (s.told p tag .setLockout { verdict := .done, clamped := Decidable.decide (1440 < n) })
    simp only [List.append_assoc] at this
    rw [← hoff] at this
    exact this
end

