-- ==== Sys2Proof/Proofs/FloorSignals.lean ====
section
/-! SUPPORT. The SIG lines and TIMING_CHANGED: what they change of a source, what the composition and the table make of it, and the relock
they want, by the engine's state (R84 to R87, R92, R94, R97, R99 to R101, R118). -/

namespace Sys2Proof.Machine

/-! ## A source that changes (R84 to R87) -/

theorem State.setSource_source_same (s : State) (n : InputIdx) (c : Source) : (s.setSource n c).source n = c := by
  unfold State.setSource State.source State.setSources
  simp

theorem State.setSource_routedSource (s : State) (n : InputIdx) (c : Source) :
    (s.setSource n c).routedSource = if n = s.engine.routed then c else s.routedSource := by
  by_cases h : n = s.engine.routed
  · rw [if_pos h]
    subst h
    exact State.setSource_source_same _ _ _
  · rw [if_neg h]
    exact Vector.set_other _ _ (Ne.symm h)

theorem State.setSource_twice (s : State) (n : InputIdx) (c d : Source) : (s.setSource n c).setSource n d = s.setSource n d := by
  unfold State.setSource State.setSources
  simp

/-- A change of an input that is not routed, or has no timing before and after, is none for composition and class (R86, R92). -/
theorem State.setSource_unheard {s : State} {n : InputIdx} {c : Source}
    (h : n ≠ s.engine.routed ∨ ((s.source n).timing = none ∧ c.timing = none ∧ c.settings = (s.source n).settings)) :
    (s.setSource n c).composition = s.composition ∧ (s.setSource n c).routedAspect = s.routedAspect := by
  have hr := s.setSource_routedSource n c
  by_cases hn : n = s.engine.routed
  · obtain ⟨hold, hnew, hset⟩ := h.resolve_left (not_not.mpr hn)
    have hsrc : s.routedSource = s.source n := by rw [hn]; rfl
    rw [if_pos hn] at hr
    refine ⟨?_, ?_⟩
    · unfold State.composition
      rw [hr, hsrc, hold, hnew]
      simp
    · unfold State.routedAspect Source.aspect
      rw [hr, hsrc, hold, hnew, hset]
  · rw [if_neg hn] at hr
    refine ⟨?_, ?_⟩
    · unfold State.composition
      rw [hr]
      rfl
    · unfold State.routedAspect
      rw [hr]

/-- A routed input without a timing holds the composition (R92). -/
theorem State.composition_of_dark {s : State} (h : s.routedSource.timing = none) : s.composition = true := by
  unfold State.composition
  rw [h]
  simp

/-! ## The table and the blank control (R86, R92, R118) -/

/-- The table of a changed class handed towards the scaler (R86, R115). -/
def State.aspectTold (u : State) (a : AspectClass) : State := if u.routedAspect = a then u else u.retabled

theorem State.aspectTold_link (u : State) (a : AspectClass) : LinkOnly u (u.aspectTold a) := by
  unfold State.aspectTold
  split
  · rfl
  · exact u.retabled_link

theorem State.Telling.aspectTold {v u : State} {pre : List Notice} (h : v.Telling u pre) (a : AspectClass) :
    (v.tellAspect a).Telling (u.aspectTold a) pre := by
  unfold State.tellAspect State.aspectTold
  rw [h.read State.routedAspect fun _ _ => rfl]
  split
  · exact h
  · rw [State.recompute_eq]
    unfold State.retabled
    rw [h.read (fun x => bandTable (x.effectivePair x.profiles.active) x.routedAspect) fun _ _ => rfl]
    exact h.tabled _

/-- A changed class is told, then the blank control looks (R86, R92, log 37). -/
theorem State.Telling.sensed {v u : State} {pre : List Notice} (h : v.Telling u pre) (a : AspectClass) :
    ((v.tellAspect a).watchBlank).Telling (u.aspectTold a).watched pre := by
  rw [State.watchBlank_eq]
  exact (h.aspectTold a).watched

/-- What table and blank control leave of the engine, with the sources as they were. -/
theorem State.sensed_engine (u : State) (a : AspectClass) :
    (u.aspectTold a).watched.engine = { u.engine with
        compHeld := (u.aspectTold a).watched.composition, blankReq := (u.aspectTold a).watched.engine.blankReq,
        linkNext := (u.aspectTold a).watched.engine.linkNext }
      ∧ (u.aspectTold a).watched.sources = u.sources := by
  have hl := u.aspectTold_link a
  refine ⟨?_, hl.sources⟩
  rw [State.watched_engine, hl.engine, State.watched_composition]

theorem State.sensed_routedSource (u : State) (a : AspectClass) : (u.aspectTold a).watched.routedSource = u.routedSource := by
  obtain ⟨he, hs⟩ := u.sensed_engine a
  unfold State.routedSource State.source
  rw [he, hs]

/-- All but engine and tables is as it was. -/
theorem State.sensed_eq (u : State) (a : AspectClass) : (u.aspectTold a).watched =
    { u with engine := (u.aspectTold a).watched.engine, geo := (u.aspectTold a).watched.geo } := by
  have hl := u.aspectTold_link a
  unfold LinkOnly at hl
  generalize u.aspectTold a = x at hl
  rw [hl]
  rfl

/-! ## A wanted relock (R94, R97, R101) -/

theorem State.wantRelock_idle {s : State} (h : s.engine.state = .idle) : s.wantRelock = s.startSwitch .relock s.engine.routed none := by
  unfold State.wantRelock
  rw [h]

theorem State.wantRelock_muting {s : State} (h : s.engine.state = .muting) : s.wantRelock = s := by
  unfold State.wantRelock
  rw [h]

theorem State.wantRelock_locking {s : State} {w : Switch} (h : s.engine.state = .locking) (hw : s.engine.inFlight = some w) :
    s.wantRelock = s.reattempted w := by
  unfold State.wantRelock
  rw [h, hw]
  rfl

/-- u with a relock owed (R101). -/
def State.owing (u : State) : State := { u with engine := { u.engine with owedRelock := true } }

theorem State.wantRelock_owed {s : State} (h : s.engine.state = .applying ∨ s.engine.state = .unmuting) : s.wantRelock = s.owing := by
  unfold State.wantRelock
  rcases h with h | h <;> rw [h] <;> rfl

/-- A switch back to the routed input, which has no timing, leaves every source. -/
theorem State.startSwitch_sources {s : State} (hd : s.routedSource.timing = none) :
    (s.startSwitch .relock s.engine.routed none).sources = s.sources := by
  have hk : SwitchKind.relock ≠ .apply := by decide
  by_cases hb : s.engine.blankReq = none
  · by_cases hr : s.engine.blank = .blanked
    · rw [State.startSwitch_routes _ _ hk hb hr]
      obtain ⟨_, _, hsrc⟩ := State.route_routed (s := s.inMuting (.fresh .relock s.engine.routed none))
        (w := .fresh .relock s.engine.routed none) rfl
      refine Vector.ext fun i hi => ?_
      have := hsrc ⟨i, hi⟩
      refine this.trans ?_
      split
      · rename_i hm
        have hm : (⟨i, hi⟩ : InputIdx) = s.engine.routed := hm.elim id id
        have hsame : s.source ⟨i, hi⟩ = s.routedSource := by rw [hm]; rfl
        change { s.source ⟨i, hi⟩ with timing := none } = s.source ⟨i, hi⟩
        rw [hsame, ← hd]
      · rfl
    · cases hp : s.engine.powered
      · rw [State.startSwitch_unpowered _ _ hk hp hr]
        rfl
      · rw [State.startSwitch_blanks _ _ hk hp hb hr]
        rfl
  · rw [State.startSwitch_waits _ _ hk hb]
    rfl

/-- A relock that starts, told: engine and tables alone have changed (R94, R101). -/
theorem State.relock_closed {u v : State} {pre : List Notice} (hv : v.Telling u pre) (ho : u.engine.powerUpOwed = false)
    (hd : u.routedSource.timing = none) (tell : List Notice → Ports) :
    let t := (v.startSwitch .relock u.engine.routed none).closed tell
    t = { u with ports := tell pre, engine := t.engine, geo := t.geo } ∧ Relocking u t := by
  have hve : v.engine = u.engine := hv.read State.engine fun _ _ => rfl
  have hbegun := v.startSwitch_begun u.engine.routed none (kind := .relock) (by decide)
  have hsrc : (v.startSwitch .relock u.engine.routed none).sources = u.sources := by
    rw [← hve, State.startSwitch_sources (by rw [hv.read State.routedSource fun _ _ => rfl]; exact hd),
      hv.read State.sources fun _ _ => rfl]
  dsimp only
  rw [hbegun.closed hv ho, hsrc]
  refine ⟨rfl, ?_, hbegun.stage.imp And.left And.left, hbegun.carries⟩
  rcases hbegun.stage with ⟨_, h⟩ | ⟨_, h⟩
  · exact h.trans (congrArg Engine.routed hve)
  · exact h

/-- With nothing to follow and a relock owed, the end of a switch over an input without a timing leaves every source (R94, R99). -/
theorem State.completeSwitch_owed {u v : State} {pre : List Notice} (hv : v.Telling u pre) {w : Switch}
    (hw : u.engine.inFlight = some w) (ho : u.engine.powerUpOwed = false) (hlast : ChainLast u) (hor : u.engine.owedRelock = true)
    (hd : u.routedSource.timing = none) (r : SwitchResult) (tell : List Notice → Ports) :
    let t := (v.completeSwitch r).closed tell
    t = { u.idled w with ports := tell (pre ++ [w.ended r.code]), engine := t.engine, geo := t.geo } := by
  obtain ⟨y, hy, hend⟩ := State.completeSwitch_last hv hw hlast r
  have hye := hy.read State.engine fun _ _ => rfl
  have hpay : y.payRelock = y.startSwitch .relock u.engine.routed none := by
    unfold State.payRelock
    rw [hye]
    exact (if_pos hor).trans rfl
  have hbegun := y.startSwitch_begun u.engine.routed none (kind := .relock) (by decide)
  dsimp only
  rw [hend, hpay, hbegun.endSwitchCond (show SwitchKind.relock ≠ .apply by decide)]
  exact (State.relock_closed hy ho hd tell).1

/-! ## The end of UNMUTING over a lost picture (R99) -/

/-- In UNMUTING an input without a timing ends the switch SWITCHED, as the action's end finds it (R99, log 14). -/
theorem State.closed_dark {u v : State} {pre : List Notice} (hv : v.Telling u pre) (hu : u.engine.state = .unmuting)
    (hd : u.routedSource.timing = none) {w : Switch} (hw : u.engine.inFlight = some w) (tell : List Notice → Ports) :
    v.closed tell = (v.completeSwitch .switched).closed tell := by
  have he : v.engine = u.engine := hv.read State.engine fun _ _ => rfl
  refine State.closed_unmuting (w := w) ⟨by rw [he]; exact hu, .inr ?_⟩ (by rw [he]; exact hw) tell
  rw [hv.read State.composition fun _ _ => rfl]
  exact State.composition_of_dark hd

/-- A state outside UNMUTING has nothing left over. -/
theorem State.Settled.of_state {s : State} (h : s.engine.state ≠ .unmuting) (ho : s.engine.powerUpOwed = false) : s.Settled :=
  ⟨fun hu => h hu.1, ho⟩

theorem State.Settled.of_composition {s t : State} (h : s.Settled) (he : t.engine = s.engine) (hc : t.composition = s.composition) :
    t.Settled := by
  unfold State.Settled UnmutingOver at h ⊢
  rw [he, hc]
  exact h

theorem State.Telling.ported {v u : State} {pre : List Notice} (h : v.Telling u pre) (ps : Ports) : v.Telling { u with ports := ps } pre := by
  obtain ⟨hr, qs, rfl⟩ := h
  exact ⟨hr, qs, rfl⟩

/-- An action whose notices u's ports have been told already. -/
theorem State.Telling.closed_told {v u : State} {pre : List Notice} (h : v.Telling u pre) (hs : u.Settled) {tell : List Notice → Ports}
    (hp : u.ports = tell pre) : v.closed tell = u := by
  rw [h.closed hs, ← hp]

/-- A wanted relock, told, by the engine's state outside UNMUTING (R94, R97, R101). -/
theorem State.Telling.wantsRelock {v u : State} {pre : List Notice} (hv : v.Telling u pre) (ho : u.engine.powerUpOwed = false)
    {tell : List Notice → Ports} (hp : u.ports = tell pre) :
    (u.engine.state = .idle → u.routedSource.timing = none →
        v.wantRelock.closed tell = { u with engine := (v.wantRelock.closed tell).engine, geo := (v.wantRelock.closed tell).geo }
          ∧ Relocking u (v.wantRelock.closed tell))
      ∧ (u.engine.state = .muting → v.wantRelock.closed tell = u)
      ∧ (∀ w, u.engine.inFlight = some w → u.engine.state = .locking → v.wantRelock.closed tell = u.reattempted w)
      ∧ (u.engine.state = .applying → v.wantRelock.closed tell = u.owing) := by
  have he : v.engine = u.engine := hv.read State.engine fun _ _ => rfl
  have settled : ∀ y : State, y.engine.state = u.engine.state → y.engine.powerUpOwed = u.engine.powerUpOwed →
      u.engine.state ≠ .unmuting → y.Settled := fun y hs hy hu => .of_state (by rw [hs]; exact hu) (hy.trans ho)
  refine ⟨fun hs hd => ?_, fun hs => ?_, fun w hw hs => ?_, fun hs => ?_⟩
  · rw [State.wantRelock_idle (by rw [he]; exact hs), he, hp]
    exact State.relock_closed hv ho hd tell
  · rw [State.wantRelock_muting (by rw [he]; exact hs)]
    exact hv.closed_told (settled u rfl rfl (by rw [hs]; decide)) hp
  · rw [State.wantRelock_locking (by rw [he]; exact hs) (by rw [he]; exact hw)]
    exact State.Telling.closed_told (hv.map (·.reattempted w) (fun _ _ => rfl) rfl) (.of_state (by
      rw [show (u.reattempted w).engine.state = u.engine.state from rfl, hs]; decide) ho) hp
  · rw [State.wantRelock_owed (by rw [he]; exact .inl hs)]
    exact State.Telling.closed_told (hv.map State.owing (fun _ _ => rfl) rfl) (settled u.owing rfl rfl (by rw [hs]; decide)) hp

/-! ## The rows (R84, R85, R101) -/

/-- s with SIG risen on n, and told (R84). -/
def State.risen (s : State) (n : InputIdx) : State :=
  { s.setSource n { s.source n with present := true } with ports := s.ports.offerAll [presenceNotice n true] }

/-- s with SIG fallen on n, and told: its timing and its quick lock are gone (R84, R85, R87). -/
def State.fallen (s : State) (n : InputIdx) : State :=
  { s.setSource n { s.source n with present := false, timing := none, remembered := none } with
    ports := s.ports.offerAll [presenceNotice n false] }

/-- u with timing and quick lock of the routed input gone (R85, R87). -/
def State.forgotten (u : State) : State := u.setSource u.engine.routed { u.routedSource with timing := none, remembered := none }

theorem exec_sigRise {s : State} {n : InputIdx} (h : (s.source n).present = false) :
    exec (.sigRise n) s = .next ((s.sigRises n).closed s.ports.offerAll) := by
  change Host.Outcome.next (if (s.source n).present then s else (s.sigRises n).finish) = _
  rw [if_neg (by rw [h]; decide), State.finish_closed (State.ports_of_room (s.sigRises_room n))]

theorem exec_sigFall {s : State} {n : InputIdx} (h : (s.source n).present = true) :
    exec (.sigFall n) s = .next ((s.sigFalls n).closed s.ports.offerAll) := by
  change Host.Outcome.next (if (s.source n).present then (s.sigFalls n).finish else s) = _
  rw [if_pos h, State.finish_closed (State.ports_of_room (s.sigFalls_room n))]

theorem exec_timingReport (s : State) :
    exec (.timingChanged (linkBytes 0xC1 0 [])) s = .next (s.timingChanges.closed s.ports.offerAll) := by
  change Host.Outcome.next (match readKind 0xC1 ([] : List Byte).length (linkBytes 0xC1 0 []) with
    | some m => if m.num = 0 then s.timingChanges.finish else s
    | none => s) = _
  rw [readKind_linkBytes 0xC1 (by decide) [] (by decide)]
  exact congrArg Host.Outcome.next ((if_pos rfl).trans (State.finish_closed (State.ports_of_room (by
    unfold State.timingChanges
    split <;> simp [State.forget, State.clearTiming]))))

/-! ## A rise (R84, R101) -/

/-- A rise with its PRESENCE raised. -/
theorem Quiet.risen {s : State} (hq : Quiet s) (n : InputIdx) :
    ((s.setSource n { s.source n with present := true }).notify (presenceNotice n true)).Telling (s.risen n) [presenceNotice n true] :=
  ((hq.telling.map (·.setSource n { s.source n with present := true }) (fun _ _ => rfl) rfl).notify _).ported _

/-- A rise that is none for the composition, up to the relock it may want. -/
theorem State.sigRises_eq {s : State} {n : InputIdx} (hc : s.engine.compHeld = s.composition)
    (hu : n ≠ s.engine.routed ∨ (s.source n).timing = none) : s.sigRises n =
      (let x := (s.setSource n { s.source n with present := true }).notify (presenceNotice n true)
       if n = s.engine.routed ∧ s.engine.powered = true then (if s.engine.state = .locking then x.forget n else x).wantRelock else x) := by
  have hcomp := (State.setSource_unheard (s := s) (n := n) (c := { s.source n with present := true })
    (hu.imp id fun ht => ⟨ht, ht, rfl⟩)).1
  unfold State.sigRises
  rw [State.watchBlank_eq,
    State.watched_same (s := (s.setSource n { s.source n with present := true }).notify (presenceNotice n true)) (hc.trans hcomp.symm)]

theorem Quiet.risen_settled {s : State} (hq : Quiet s) {n : InputIdx} (hu : n ≠ s.engine.routed ∨ (s.source n).timing = none) :
    (s.risen n).Settled :=
  State.Settled.of_composition hq.settled rfl
    (State.setSource_unheard (s := s) (n := n) (c := { s.source n with present := true }) (hu.imp id fun ht => ⟨ht, ht, rfl⟩)).1

/-- A rise that wants nothing moves the presence alone. -/
theorem exec_sigRise_unheard {s : State} {n : InputIdx} (hq : Quiet s) (hc : s.engine.compHeld = s.composition)
    (hu : n ≠ s.engine.routed ∨ (s.engine.powered = false ∧ (s.source n).timing = none)) (h : (s.source n).present = false) :
    exec (.sigRise n) s = .next (s.risen n) := by
  have hu' : n ≠ s.engine.routed ∨ (s.source n).timing = none := hu.imp id And.right
  have hno : ¬ (n = s.engine.routed ∧ s.engine.powered = true) := fun ⟨hn, hp⟩ =>
    hu.elim (· hn) fun hd => absurd (hd.1.symm.trans hp) (by decide)
  rw [exec_sigRise h, State.sigRises_eq hc hu']
  dsimp only
  rw [if_neg hno, (hq.risen n).closed_told (hq.risen_settled hu') rfl]

/-- A rise on the routed input of a powered scaler: the relock it wants, by the engine's state (R94, R97, R101). -/
theorem exec_sigRise_routed {s : State} {n : InputIdx} (hq : Quiet s) (hc : s.engine.compHeld = s.composition)
    (hn : n = s.engine.routed) (hp : s.engine.powered = true) (h : (s.source n).present = false) (hd : (s.source n).timing = none) :
    (s.engine.state = .idle → s.engine.inFlight = none → ∃ t, exec (.sigRise n) s = .next t
        ∧ t = { s.risen n with engine := t.engine, geo := t.geo } ∧ Relocking s t)
      ∧ (s.engine.state = .muting → exec (.sigRise n) s = .next (s.risen n))
      ∧ (∀ w, s.engine.inFlight = some w → s.engine.state = .locking → exec (.sigRise n) s = .next ((s.risen n).forgotten.reattempted w))
      ∧ (s.engine.state = .applying → exec (.sigRise n) s = .next (s.risen n).owing) := by
  have htold := hq.risen n
  have hset := hq.risen_settled (n := n) (.inr hd)
  have hsrc : (s.risen n).routedSource = { s.source n with present := true } :=
    (s.setSource_routedSource n _).trans (if_pos hn)
  have hdark : (s.risen n).routedSource.timing = none := by rw [hsrc]; exact hd
  rw [exec_sigRise h, State.sigRises_eq hc (.inr hd)]
  dsimp only
  rw [if_pos ⟨hn, hp⟩]
  have plain := htold.wantsRelock hq.2.1 (tell := s.ports.offerAll) rfl
  obtain ⟨idle, muting, _, applying⟩ := plain
  have stays : s.engine.state ≠ .locking → ∀ x : State, (if s.engine.state = .locking then x.forget n else x) = x := fun hl _ => if_neg hl
  refine ⟨fun hs _ => ?_, fun hs => ?_, fun w hw hs => ?_, fun hs => ?_⟩
  · rw [stays (by rw [hs]; decide)]
    exact ⟨_, rfl, idle hs hdark⟩
  · rw [stays (by rw [hs]; decide)]
    exact congrArg Host.Outcome.next (muting hs)
  · rw [if_pos hs]
    have hforget : (s.risen n).forget n = (s.risen n).forgotten := by
      unfold State.forgotten State.forget
      rw [hsrc, show (s.risen n).source n = { s.source n with present := true } from State.setSource_source_same _ _ _,
        show (s.risen n).engine.routed = n from hn.symm, ← hd]
    have hx := htold.map (·.forget n) (fun _ _ => rfl) rfl
    dsimp only at hx
    rw [hforget] at hx
    exact congrArg Host.Outcome.next ((hx.wantsRelock hq.2.1 (tell := s.ports.offerAll) rfl).2.2.1 w hw hs)
  · rw [stays (by rw [hs]; decide)]
    exact congrArg Host.Outcome.next (applying hs)

/-! ## A fall (R84, R85, R87) -/

/-- A fall with its PRESENCE raised, its class told and the blank control looking. -/
theorem Quiet.fallen {s : State} (hq : Quiet s) (n : InputIdx) :
    (s.sigFalls n).Telling ((s.fallen n).aspectTold s.routedAspect).watched [presenceNotice n false] :=
  State.Telling.sensed (((hq.telling.map (·.setSource n { s.source n with present := false, timing := none, remembered := none })
    (fun _ _ => rfl) rfl).notify (presenceNotice n false)).ported _) s.routedAspect

/-- A fall unheard moves presence and quick lock alone. -/
theorem exec_sigFall_unheard {s : State} {n : InputIdx} (hq : Quiet s) (hc : s.engine.compHeld = s.composition)
    (hu : n ≠ s.engine.routed ∨ (s.source n).timing = none) (h : (s.source n).present = true) :
    exec (.sigFall n) s = .next (s.fallen n) := by
  obtain ⟨hcomp, hasp⟩ := State.setSource_unheard (s := s) (n := n)
    (c := { s.source n with present := false, timing := none, remembered := none }) (hu.imp id fun ht => ⟨ht, rfl, rfl⟩)
  have hsame : ((s.fallen n).aspectTold s.routedAspect).watched = s.fallen n := by
    rw [show (s.fallen n).aspectTold s.routedAspect = s.fallen n from if_pos hasp]
    exact State.watched_same (hc.trans hcomp.symm)
  have htold := hq.fallen n
  rw [hsame] at htold
  rw [exec_sigFall h, htold.closed_told (hq.settled.of_composition rfl hcomp) rfl]

/-- A fall on the routed input: outside UNMUTING the class and the blank control are all; in UNMUTING the switch ends (R99, log 14). -/
theorem exec_sigFall_routed {s : State} {n : InputIdx} (hq : Quiet s) (hn : n = s.engine.routed) (h : (s.source n).present = true) :
    (s.engine.state ≠ .unmuting → exec (.sigFall n) s = .next ((s.fallen n).aspectTold s.routedAspect).watched)
      ∧ (∀ w, s.engine.inFlight = some w → s.engine.state = .unmuting → ∃ t, exec (.sigFall n) s = .next t ∧
          Completes ((s.fallen n).aspectTold s.routedAspect).watched t
            (fun l => s.ports.offerAll (presenceNotice n false :: w.ended 0xA0 :: l)) w) := by
  have htold := hq.fallen n
  obtain ⟨he, _⟩ := (s.fallen n).sensed_engine s.routedAspect
  have hrest := (s.fallen n).sensed_eq s.routedAspect
  have hdark : ((s.fallen n).aspectTold s.routedAspect).watched.routedSource.timing = none := by
    rw [State.sensed_routedSource, show (s.fallen n).routedSource = _ from (s.setSource_routedSource n _).trans (if_pos hn)]
  have hheld : ((s.fallen n).aspectTold s.routedAspect).watched.engine.compHeld
      = ((s.fallen n).aspectTold s.routedAspect).watched.composition := rfl
  rw [exec_sigFall h]
  generalize ((s.fallen n).aspectTold s.routedAspect).watched = u at htold he hrest hdark hheld ⊢
  have hue : ∀ {α : Type} (f : Engine → α), (∀ e b r n, f { e with compHeld := b, blankReq := r, linkNext := n } = f e) →
      f u.engine = f s.engine := fun f hf => by rw [he]; exact hf _ _ _ _
  refine ⟨fun hs => ?_, fun w hw hs => ⟨_, rfl, ?_⟩⟩
  · exact congrArg Host.Outcome.next (htold.closed_told
      (.of_state (by rw [hue Engine.state fun _ _ _ _ => rfl]; exact hs) ((hue Engine.powerUpOwed fun _ _ _ _ => rfl).trans hq.2.1))
      (by rw [hrest]; rfl))
  · have hwu : u.engine.inFlight = some w := (hue Engine.inFlight fun _ _ _ _ => rfl).trans hw
    rw [State.closed_dark htold ((hue Engine.state fun _ _ _ _ => rfl).trans hs) hdark hwu]
    exact State.completeSwitch_completes htold hwu ((hue Engine.powerUpOwed fun _ _ _ _ => rfl).trans hq.2.1)
      (fun _ _ => ⟨(hue Engine.switchCond fun _ _ _ _ => rfl).trans (hq.settled.switchCond_unmuting hs), hheld⟩) .switched s.ports.offerAll

/-! ## A timing report (R97, R101) -/

theorem State.timingChanges_eq {s : State} (hp : s.engine.powered = true) :
    s.timingChanges = ((s.forgotten.tellAspect s.routedAspect).watchBlank).wantRelock := by
  have hgone : (s.forget s.engine.routed).clearTiming s.engine.routed = s.forgotten := by
    unfold State.clearTiming State.forget
    rw [State.setSource_source_same, State.setSource_twice]
    rfl
  unfold State.timingChanges
  rw [if_pos hp]
  dsimp only
  rw [hgone]

/-- TIMING_CHANGED forgets the routed input's lock, tells its class, lets the blank control look, and wants a relock (R97, R101). -/
theorem exec_timingReport_powered {s : State} (hq : Quiet s) (hc : s.engine.compHeld = s.composition) (hp : s.engine.powered = true) :
    let u := (s.forgotten.aspectTold s.routedAspect).watched
    let report := exec (.timingChanged (linkBytes 0xC1 0 [])) s
    (s.engine.state = .idle → s.engine.inFlight = none → ∃ t, report = .next t
        ∧ t = { s.forgotten with engine := t.engine, geo := t.geo } ∧ Relocking s t)
      ∧ (s.engine.state = .muting → report = .next u)
      ∧ (∀ w, s.engine.inFlight = some w → s.engine.state = .locking → s.routedSource.timing = none →
          report = .next (s.forgotten.reattempted w))
      ∧ (s.engine.state = .applying → report = .next u.owing)
      ∧ (∀ w, s.engine.inFlight = some w → s.engine.state = .unmuting → ∃ t, report = .next t
          ∧ Completes u.owing t (fun l => s.ports.offerAll (w.ended 0xA0 :: l)) w
          ∧ (ChainLast s → t = { s.forgotten.idled w with
              ports := s.ports.offerAll [w.ended 0xA0], engine := t.engine, geo := t.geo })) := by
  have htold : ((s.forgotten.tellAspect s.routedAspect).watchBlank).Telling (s.forgotten.aspectTold s.routedAspect).watched [] :=
    State.Telling.sensed (hq.telling.map State.forgotten (fun _ _ => rfl) rfl) s.routedAspect
  obtain ⟨he, _⟩ := s.forgotten.sensed_engine s.routedAspect
  have hrest := s.forgotten.sensed_eq s.routedAspect
  have hsrc : s.forgotten.routedSource = { s.routedSource with timing := none, remembered := none } :=
    (s.setSource_routedSource _ _).trans (if_pos rfl)
  have hdark : (s.forgotten.aspectTold s.routedAspect).watched.routedSource.timing = none := by
    rw [State.sensed_routedSource, hsrc]
  have hsame : s.routedSource.timing = none → (s.forgotten.aspectTold s.routedAspect).watched = s.forgotten := fun hd => by
    obtain ⟨hcomp, hasp⟩ := State.setSource_unheard (s := s) (n := s.engine.routed)
      (c := { s.routedSource with timing := none, remembered := none }) (.inr ⟨hd, rfl, rfl⟩)
    rw [show s.forgotten.aspectTold s.routedAspect = s.forgotten from if_pos hasp]
    exact State.watched_same (hc.trans hcomp.symm)
  dsimp only
  rw [exec_timingReport, State.timingChanges_eq hp]
  generalize (s.forgotten.aspectTold s.routedAspect).watched = u at htold he hrest hdark hsame ⊢
  have hue : ∀ {α : Type} (f : Engine → α), (∀ e b r n, f { e with compHeld := b, blankReq := r, linkNext := n } = f e) →
      f u.engine = f s.engine := fun f hf => by rw [he]; exact hf _ _ _ _
  have hstate : u.engine.state = s.engine.state := hue Engine.state fun _ _ _ _ => rfl
  have hflight : u.engine.inFlight = s.engine.inFlight := hue Engine.inFlight fun _ _ _ _ => rfl
  have hrouted : u.engine.routed = s.engine.routed := hue Engine.routed fun _ _ _ _ => rfl
  have hpending : u.engine.pendingTarget = s.engine.pendingTarget := hue Engine.pendingTarget fun _ _ _ _ => rfl
  have howed : u.engine.powerUpOwed = false := (hue Engine.powerUpOwed fun _ _ _ _ => rfl).trans hq.2.1
  obtain ⟨idle, muting, locking, applying⟩ := htold.wantsRelock howed (tell := s.ports.offerAll) (by rw [hrest]; rfl)
  refine ⟨fun hs _ => ?_, fun hs => ?_, fun w hw hs hd => ?_, fun hs => ?_, fun w hw hs => ?_⟩
  · obtain ⟨heq, hrel⟩ := idle (hstate.trans hs) hdark
    refine ⟨_, rfl, ?_, ?_⟩
    · conv_lhs => rw [heq, hrest]
    · unfold Relocking at hrel ⊢
      rw [hrouted] at hrel
      exact hrel
  · rw [muting (hstate.trans hs)]
  · rw [locking w (hflight.trans hw) (hstate.trans hs), hsame hd]
  · rw [applying (hstate.trans hs)]
  · have hwu : u.owing.engine.inFlight = some w := hflight.trans hw
    have hx := htold.map State.owing (fun _ _ => rfl) rfl
    rw [State.wantRelock_owed (.inr (by rw [htold.read State.engine fun _ _ => rfl]; exact hstate.trans hs)),
      State.closed_dark hx (hstate.trans hs) hdark hwu]
    refine ⟨_, rfl, State.completeSwitch_completes hx hwu howed (fun _ ho => absurd (show true = false from ho) (by decide))
      .switched s.ports.offerAll, fun hlast => ?_⟩
    have hlast' : ChainLast u.owing := by
      obtain ⟨hpt, hel, hb⟩ := hlast
      refine ⟨hpending.trans hpt, ?_, ?_⟩
      · rw [hrest]
        exact hel
      · rw [hrest]
        exact hb
    have := State.completeSwitch_owed hx hwu howed hlast' rfl hdark .switched s.ports.offerAll
    dsimp only at this
    conv_lhs => rw [this, hrest]
    rfl

end Sys2Proof.Machine

open Sys2Proof Sys2Proof.Machine

/-- Settles O53: the rise, the fall and the report, each by what the engine is doing. -/
theorem signalActs : Obligations.SignalActs := by
  unfold Obligations.SignalActs
  intro s n hq hc
  dsimp only
  refine ⟨fun hu => ⟨exec_sigRise_unheard hq hc hu, exec_sigFall_unheard hq hc (hu.imp id And.right)⟩, fun hp => ?_, fun hn hp =>
    ⟨fun h hd => exec_sigRise_routed hq hc hn hp h hd, fun h => ?_, ?_⟩⟩
  · have hstay : s.timingChanges = s := if_neg (by rw [hp]; decide)
    rw [exec_timingReport, hstay, hq.telling.closed_told hq.settled rfl]
  · obtain ⟨other, unmuting⟩ := exec_sigFall_routed hq hn h
    exact ⟨fun hs => ⟨_, other hs, rfl⟩, unmuting⟩
  · obtain ⟨idle, muting, locking, applying, unmuting⟩ := exec_timingReport_powered hq hc hp
    have hsrc : s.source n = s.routedSource := by rw [hn]; rfl
    exact ⟨idle, fun hs => ⟨_, muting hs, rfl⟩, fun w hw hs hd => locking w hw hs (by rw [← hsrc]; exact hd),
      fun hs => ⟨_, applying hs, rfl⟩, unmuting⟩
end

