-- ==== Sys2Proof/Proofs/KeyIntake.lean ====
section
/-! SUPPORT. The command of a key at intake for LOCAL: KEY_OUTCOME first, then what its owner raises (R6, R28 to R31, R40, R54 to R56, R92 to
R94, R104, R155, R176, R178). -/

namespace Sys2Proof.Machine

/-! ## An action's end, run twice (R99, R135) -/

/-- A power-up taken leaves nothing over. -/
theorem State.takePowerUp_settled {s : State} (h : ¬ UnmutingOver s ∨ s.engine.powerUpOwed = true) : s.takePowerUp.Settled := by
  unfold State.takePowerUp
  cases ho : s.engine.powerUpOwed with
  | true =>
    rw [if_pos rfl]
    exact (State.startSwitch_begun (s.setEngine { s.engine with powered := true, blank := .blanked, powerUpOwed := false })
      s.engine.selected none (kind := .powerUp) (by decide)).settled rfl
  | false =>
    rw [if_neg (by decide)]
    exact ⟨h.resolve_right (by rw [ho]; decide), ho⟩

/-- What the engine does at an action's end it does once. -/
theorem State.settle_settle (s : State) : s.settle.settle = s.settle := by
  by_cases h : ¬ UnmutingOver s.endUnmuting ∨ s.endUnmuting.engine.powerUpOwed = true
  · have hset : s.settle.Settled := State.takePowerUp_settled h
    exact State.settle_of hset.1 hset.2
  · obtain ⟨hover, howed⟩ := not_or.mp h
    have hover : UnmutingOver s.endUnmuting := not_not.mp hover
    have hsame : s.endUnmuting = s := by
      by_cases hs : UnmutingOver s
      · have hend : s.endUnmuting = s.completeSwitch .switched := if_pos hs
        cases hw : s.engine.inFlight with
        | some w => exact absurd (hend ▸ hover).1 (State.completeSwitch_state hw .switched)
        | none =>
          rw [hend]
          unfold State.completeSwitch
          rw [hw]
      · exact if_neg hs
    rw [hsame] at howed
    have : s.settle = s := by
      unfold State.settle
      rw [hsame]
      exact if_neg howed
    rw [this, this]

/-! ## KEY_OUTCOME first (R178) -/

/-- y with a notice raised before all that it has raised. -/
def State.keyed (y : State) (n : Notice) : State := y.setRaised (n :: y.raised)

theorem State.Telling.keyed {y w : State} {pre : List Notice} (h : y.Telling w pre) (n : Notice) : (y.keyed n).Telling w (n :: pre) := by
  obtain ⟨hr, ps, rfl⟩ := h
  exact ⟨hr, ps, rfl⟩

theorem State.keyed_closed {y : State} (h : y.Settled) (n : Notice) (tell : List Notice → Ports) :
    (y.keyed n).closed tell = y.closed fun l => tell (n :: l) := by
  have hk : (y.keyed n).Settled := h.congr rfl rfl
  rw [State.closed_of_settled hk, State.closed_of_settled h]
  rfl

/-- The state that LOCAL's command c leaves at the end of its row, with KEY_OUTCOME told first. -/
def State.keyEnds (z : State) (c : Cmd) : State := ((z.runLocal c).1.keyed (keyOutcome c (z.runLocal c).2)).closed z.ports.offerAll

/-- A key that forms command c, to the end of its row (R176, R178). -/
theorem State.takeKey_finish {z : State} (hr : z.raised = []) {k : Key} {c : Cmd} (hk : z.keyCommand k = some c) :
    (z.takeKey k).finish = z.keyEnds c := by
  have hz : z.setRaised [] = z := by unfold State.setRaised; rw [← hr]
  have htake : z.takeKey k = ((z.runLocal c).1.keyed (keyOutcome c (z.runLocal c).2)).settle := by
    unfold State.takeKey
    rw [hk]
    dsimp only
    rw [hz, hr]
    rfl
  rw [State.finish_closed (State.ports_of_room (State.takeKey_room z k)), htake]
  unfold State.keyEnds State.closed
  rw [State.settle_settle]

/-- A key that forms none. -/
theorem State.takeKey_none {z : State} {k : Key} (hk : z.keyCommand k = none) : z.takeKey k = z := by
  unfold State.takeKey
  rw [hk]

/-! ## Intake (R6, R176) -/

/-- What follows steps 4 to 8 for a command of LOCAL. -/
def localRest : Cmd → State → State × Reply
  | .lampOn => fun s => s.runLampOn .console
  | .lampOff => fun s => s.runLampOff .console
  | .setLampLevel l => fun s => s.runLampLevel .console l
  | c => fun s => s.floorIntake .console c

theorem State.runLocal_eq (z : State) (c : Cmd) : z.runLocal c = z.innerIntake .console c (localRest c) := by cases c <;> rfl

theorem State.runLocal_waits {z : State} (h : z.resetWait ≠ none) (c : Cmd) : z.runLocal c = (z, refusal .wrongState) := by
  rw [State.runLocal_eq]
  exact if_pos (Option.isSome_iff_ne_none.mpr h)

theorem State.runLocal_refused {z : State} (h : z.resetWait = none) {c : Cmd} {v : Verdict} (hv : z.innerRefusal .console c = some v) :
    z.runLocal c = (z, refusal v) := by
  rw [State.runLocal_eq]
  unfold State.innerIntake
  rw [h, hv]
  rfl

theorem State.runLocal_passed {z : State} (h : z.resetWait = none) {c : Cmd} (hv : z.innerRefusal .console c = none) :
    z.runLocal c = localRest c z := by
  rw [State.runLocal_eq]
  unfold State.innerIntake
  rw [h, hv]
  rfl

/-- A refused command of a key tells its outcome alone. -/
theorem Quiet.keyEnds_refused {z : State} (hq : Quiet z) {c : Cmd} {v : Verdict} (h : z.runLocal c = (z, refusal v)) :
    z.keyEnds c = { z with ports := z.ports.offerAll [keyOutcome c { verdict := v }] } := by
  unfold State.keyEnds
  rw [h]
  exact (hq.telling.keyed _).closed hq.settled _

/-! ## The lamp's keys (R54 to R56, R155) -/

/-- Whatever a strike has raised, it is the same strike. -/
theorem Struck.keyed {u S : State} (h : Struck u S) (n : Notice) : Struck u (S.keyed n) := by
  obtain ⟨saved, locks, imaged, engine⟩ := h
  exact ⟨saved.close S.ports (n :: S.raised), locks, imaged, engine⟩

theorem State.lampOn_settled {v : State} (hs : v.Settled) (r : Requester) (h : v.lamp.state ≠ .off) : (v.lampOn r).1.Settled := by
  unfold State.lampOn
  cases hl : v.lamp.state with
  | off => exact absurd hl h
  | striking | retryPause | lit | fault => exact hs
  | warmup | cooldown => exact hs.congr rfl rfl

/-- LAMP_ON's answer by the lamp's state (R54). -/
theorem State.lampOn_verdict (v : State) (r : Requester) : (v.lampOn r).2 =
    match v.lamp.state with
    | .off => .started
    | .striking | .retryPause | .lit | .warmup => .joined
    | .cooldown => .waiting
    | .fault => .lockedOut := by
  unfold State.lampOn
  cases v.lamp.state <;> rfl

/-- A key's LAMP_ON, with its outcome told first. -/
theorem Quiet.keyEnds_lampOn {z : State} (hq : Quiet z) (h : z.runLocal .lampOn = z.runLampOn .console) :
    Lights (z.touch .console) (z.keyEnds .lampOn) (fun v l => z.ports.offerAll (keyOutcome .lampOn { verdict := v } :: l)) .console := by
  let u := z.touch .console
  have hu : u.Telling u [] := hq.telling.touch .console
  have hs : u.Settled := hq.settled.touch .console
  have hends : ∀ v, (u.lampOn .console).2 = v →
      z.keyEnds .lampOn = ((u.lampOn .console).1.keyed (keyOutcome .lampOn { verdict := v })).closed z.ports.offerAll := fun v hv => by
    unfold State.keyEnds
    rw [h, ← hv]
    rfl
  have hlit : ∀ v, u.lamp.state ≠ .off → (u.lampOn .console).2 = v →
      z.keyEnds .lampOn = (u.lampOn .console).1.closed fun l => z.ports.offerAll (keyOutcome .lampOn { verdict := v } :: l) := fun v hl hv => by
    rw [hends v hv, State.keyed_closed (State.lampOn_settled hs _ hl)]
  have hv := State.lampOn_verdict u .console
  refine ⟨fun ho hsound hp hb => ?_, fun hl => ?_, fun hl => ?_, fun hl => ?_⟩
  · rw [ho] at hv
    have hon : (u.lampOn .console).1 = u.strike := by
      unfold State.lampOn
      rw [ho]
    obtain ⟨hst, hraised⟩ := State.strike_struck hu ho
    have := (hst.keyed (keyOutcome .lampOn { verdict := .started })).lit hu.1 hsound hp hb z.ports.offerAll
    rw [hends _ hv, hon]
    rw [show (u.strike.keyed (keyOutcome .lampOn { verdict := .started })).raised = keyOutcome .lampOn { verdict := .started } :: u.strike.raised
      from rfl, hraised] at this
    exact this
  · have hne : u.lamp.state ≠ .off := by rcases hl with hl | hl | hl <;> rw [hl] <;> decide
    have hv' : (u.lampOn .console).2 = .joined := by rw [hv]; rcases hl with hl | hl | hl <;> rw [hl]
    rw [hlit _ hne hv']
    exact (State.lampOn_lights hu hs .console _).2.1 hl
  · rw [hl] at hv
    rw [hlit _ (by rw [hl]; decide) hv]
    exact (State.lampOn_lights hu hs .console _).2.2.1 hl
  · rw [hl] at hv
    rw [hlit _ (by rw [hl]; decide) hv]
    exact (State.lampOn_lights hu hs .console _).2.2.2 hl

theorem State.lampOff_settled {v : State} (hs : v.Settled) : v.lampOff.1.Settled := by
  unfold State.lampOff
  cases v.lamp.state with
  | off | fault => exact hs
  | striking | retryPause | lit =>
    exact hs.congr (by rw [State.enterCooldown_eq, State.checkpoint_engine]; rfl) (by rw [State.enterCooldown_eq, State.checkpoint_sources]; rfl)
  | warmup | cooldown => exact hs.congr rfl rfl

/-- LAMP_OFF's answer by the lamp's state (R55). -/
theorem State.lampOff_verdict (v : State) : v.lampOff.2 = if v.lamp.state = .warmup then .waiting else .done := by
  unfold State.lampOff
  cases v.lamp.state <;> rfl

/-- LOCAL's LAMP_OFF ends the deferral, whatever its activity has made of it (R55, R153, R155). -/
theorem Quiet.localDeferral {z : State} (hq : Quiet z) :
    ((z.touch .console).lampOffEndsDeferral .console).Telling (z.setDeferral none)
      (if z.schedule.deferral = none then [] else [{ cls := .schedule, kind := 3, subject := 0, result := 1, extra := 0 }]) := by
  have hx := (hq.telling.touch .console).endDeferral 1
  have hgone : (z.touch .console).setDeferral none = z.setDeferral none := by
    rw [State.touch_eq]
    rfl
  have hnone : (z.touch .console).schedule.deferral = none ↔ z.schedule.deferral = none := by
    rw [State.touch_eq]
    exact Option.map_eq_none_iff
  rw [hgone, List.nil_append] at hx
  simp only [hnone] at hx
  exact hx

/-- A key's LAMP_OFF, with its outcome told first. -/
theorem Quiet.keyEnds_lampOff {z : State} (hq : Quiet z) (h : z.runLocal .lampOff = z.runLampOff .console) :
    Darkens (z.setDeferral none) (z.keyEnds .lampOff) (fun v l => z.ports.offerAll (keyOutcome .lampOff { verdict := v } ::
      ((if z.schedule.deferral = none then [] else [{ cls := .schedule, kind := 3, subject := 0, result := 1, extra := 0 }]) ++ l))) := by
  let v := (z.touch .console).lampOffEndsDeferral .console
  have hv : v.Telling (z.setDeferral none)
      (if z.schedule.deferral = none then [] else [{ cls := .schedule, kind := 3, subject := 0, result := 1, extra := 0 }]) := hq.localDeferral
  have hs : (z.setDeferral none).Settled := hq.settled.congr rfl rfl
  have hends : ∀ x, v.lampOff.2 = x →
      z.keyEnds .lampOff = v.lampOff.1.closed fun l => z.ports.offerAll (keyOutcome .lampOff { verdict := x } :: l) := fun x hx => by
    rw [← State.keyed_closed (State.lampOff_settled (hv.settled hs))]
    unfold State.keyEnds
    rw [h, ← hx]
    rfl
  have hx := State.lampOff_verdict v
  rw [show v.lamp = (z.setDeferral none).lamp from hv.read State.lamp fun _ _ => rfl] at hx
  refine ⟨fun hl => ?_, fun hl => ?_, fun hl => ?_, fun hl => ?_⟩
  · have hw : (z.setDeferral none).lamp.state ≠ .warmup := by rcases hl with hl | hl <;> exact fun e => absurd (hl.symm.trans e) (by decide)
    rw [if_neg hw] at hx
    rw [hends _ hx]
    exact (State.lampOff_darkens hv hs _).1 hl
  · rw [if_pos hl] at hx
    rw [hends _ hx]
    exact (State.lampOff_darkens hv hs _).2.1 hl
  · rw [if_neg (fun e => absurd (hl.symm.trans e) (by decide))] at hx
    rw [hends _ hx]
    exact (State.lampOff_darkens hv hs _).2.2.1 hl
  · have hw : (z.setDeferral none).lamp.state ≠ .warmup := by rcases hl with hl | hl | hl <;> exact fun e => absurd (hl.symm.trans e) (by decide)
    rw [if_neg hw] at hx
    rw [hends _ hx]
    exact (State.lampOff_darkens hv hs _).2.2.2 hl

/-- A key's SET_LAMP_LEVEL, with its outcome told first. -/
theorem Quiet.keyEnds_level {z : State} (hq : Quiet z) (l : Level) (h : z.runLocal (.setLampLevel l) = z.runLampLevel .console l) :
    Levels (z.touch .console) (z.keyEnds (.setLampLevel l))
      (fun v b => z.ports.offerAll [keyOutcome (.setLampLevel l) { verdict := v, clamped := b }]) l := by
  let u := z.touch .console
  have hu : u.Telling u [] := hq.telling.touch .console
  have hs : u.Settled := hq.settled.touch .console
  have ha : u.allowedLevel l = if worn u.wear.band then .eco else l := by
    unfold State.allowedLevel worn
    cases u.wear.band <;> rfl
  have hends : ∀ (y : State) (w : State) (v : Verdict) (b : Bool), u.lampLevel l = (y, v, b) → y.Telling w [] → w.Settled →
      z.keyEnds (.setLampLevel l) = { w with ports := z.ports.offerAll [keyOutcome (.setLampLevel l) { verdict := v, clamped := b }] } :=
    fun y w v b hy hw hws => by
      unfold State.keyEnds
      rw [h]
      unfold State.runLampLevel
      dsimp only
      rw [show (z.touch .console).lampLevel l = (y, v, b) from hy]
      exact (hw.keyed _).closed hws _
  have hne : ∀ a : Level, (a != l) = Decidable.decide (a ≠ l) := fun a => by rw [Bool.eq_iff_iff]; simp
  refine ⟨fun hl => ?_, fun hl => ?_⟩
  · refine hends _ _ _ _ ?_ (hu.map (·.setLamp { u.lamp with heldLevel := some (if worn u.wear.band then .eco else l) })
      (fun _ _ => rfl) rfl) (hs.congr rfl rfl)
    unfold State.lampLevel
    dsimp only
    rw [if_pos hl, ha, hne]
  · refine hends _ _ _ _ ?_ (hu.map (·.setLamp { u.lamp with level := if worn u.wear.band then .eco else l })
      (fun _ _ => rfl) rfl) (hs.congr rfl rfl)
    unfold State.lampLevel
    dsimp only
    rw [if_neg hl, ha, hne]

/-! ## The floor's keys (R28 to R31, R40, R93, R104) -/

/-- LOCAL is the weakest requester, so nothing waits that it could displace (R6, R30). -/
theorem FloorWaits.console_alone {s : State} (h : FloorWaits s .console) : s.floor.elect = none := by
  obtain ⟨_, _, _, hweak⟩ := h
  cases he : s.floor.elect with
  | none => rfl
  | some e =>
    have := hweak e he
    have hnot : ∀ r, stronger .console r = false := fun r => by cases r <;> decide
    rw [hnot] at this
    exact absurd this (by decide)

/-- A key's floor command that does not proceed: refused, or waiting as elect, with its outcome told first (R28 to R30). -/
theorem Quiet.keyEnds_contends {z : State} (hq : Quiet z) {c : Cmd} (h : z.runLocal c = z.floorIntake .console c)
    (hl : z.lateRefusal .console c = none) :
    (FloorHeld z .console → z.keyEnds c = { z with ports := z.ports.offerAll [keyOutcome c { verdict := .floorHeld }] })
      ∧ (FloorBusy z .console → z.keyEnds c = { z with ports := z.ports.offerAll [keyOutcome c { verdict := .floorBusy }] })
      ∧ (FloorWaits z .console → z.keyEnds c = { z.touch .console with
          ports := z.ports.offerAll [keyOutcome c { verdict := .waiting }], floor := { z.floor with elect := some (.console, c) } }) := by
  refine ⟨fun hf => hq.keyEnds_refused ?_, fun hf => hq.keyEnds_refused ?_, fun hf => ?_⟩
  · rw [h]
    unfold State.floorIntake
    rw [State.decide_of_held hf]
  · rw [h]
    unfold State.floorIntake
    rw [State.decide_of_busy hf]
  · have hx : ({ z.touch .console with
          floor := { z.floor with elect := some (.console, c) }, raised := z.raised ++ z.floor.displacedNotice } : State).Telling
        { z.touch .console with floor := { z.floor with elect := some (.console, c) } } [] := by
      have hd : z.floor.displacedNotice = [] := by
        unfold Floor.displacedNotice
        rw [hf.console_alone]
        rfl
      have := (hq.telling.touch .console).floored { z.floor with elect := some (.console, c) } []
      rw [hd]
      rw [State.touch_eq] at this ⊢
      exact this
    unfold State.keyEnds
    rw [h, State.floorIntake_elect hf hl]
    exact (hx.keyed _).closed ((hq.settled.touch .console).congr rfl rfl) _

/-- What a floor command of LOCAL finds: its activity noted, the floor its own (R31, R153). -/
theorem Quiet.localTaking {z : State} (hq : Quiet z) :
    ((z.touch .console).taking .console).Telling { z.touch .console with floor := z.floor.taken .console } (z.floor.takenNotice .console) := by
  have := (hq.telling.touch .console).taking .console
  rw [State.touch_floor, List.nil_append] at this
  exact this

/-- A key's floor command that proceeds is its owner's, with its outcome told first. -/
theorem State.keyEnds_proceeds {z : State} {c : Cmd} (h : z.runLocal c = z.floorIntake .console c) (hl : z.lateRefusal .console c = none)
    (hc : c ≠ .holdFloor) (hopen : FloorOpens z .console) {v : Verdict}
    (hv : (((z.touch .console).taking .console).ownerActs .console c).2 = { verdict := v }) :
    z.keyEnds c = ((((z.touch .console).taking .console).acted .console c).keyed (keyOutcome c { verdict := v })).closed z.ports.offerAll := by
  unfold State.keyEnds
  rw [h, State.floorIntake_acts hopen hl hc, hv]

/-- SELECT_INPUT leaves nothing over, whatever it does to the engine (R93). -/
theorem State.acted_select_settled {v : State} (hs : v.Settled) (r : Requester) (n : InputIdx) : (v.acted r (.selectInput n)).Settled := by
  have hmark : ∀ (y : State) (x : Verdict), y.Settled → (y.mark (.selectInput n) x).Settled := fun y x hy => by
    unfold State.mark
    split
    · exact hy.congr rfl rfl
    · exact hy
  rw [State.acted_select]
  refine hmark _ _ ?_
  cases hp : v.engine.powered with
  | false =>
    rw [State.selectInput_unpowered r n hp]
    exact hs.requests rfl ⟨_, _, _, _, _, rfl⟩
  | true =>
    cases hw : v.engine.inFlight with
    | some w =>
      rw [State.selectInput_busy r n hp hw]
      obtain ⟨⟨p, he⟩, hsrc⟩ := v.askBusy_engine w r n
      exact hs.requests hsrc ⟨p, _, _, _, _, he⟩
    | none =>
      rw [State.selectInput_idle r n hp hw]
      split
      · exact hs
      · exact (v.startSwitch_begun n (some r) (kind := .select) (by decide)).settled hs.2

/-- SELECT_INPUT in the words of the statements, its answer told as step 9's verdict has it (R93). -/
theorem State.Telling.selects {v w : State} {pre : List Notice} (ht : v.Telling w pre) (hw : w.Settled) {r : Requester} {n : InputIdx}
    {t : State} {told : Verdict → List Notice → Ports}
    (ends : ∀ x, (v.selectInput r n).2 = x → t = (v.acted r (.selectInput n)).closed (told x)) :
    Selects w t (fun x l => told x (pre ++ l)) r n ∧ Starts w t (fun x l => told x (pre ++ l)) r n := by
  have he : v.engine = w.engine := ht.read State.engine fun _ _ => rfl
  have hstand : v.standing n = w.standing n := ht.read (·.standing n) fun _ _ => rfl
  refine ⟨⟨fun hp => ?_, fun hp hf hr htm hb => ?_, fun y hp hf => ?_⟩, fun hp hf hpt hst => ?_⟩
  · rw [ends .done (by rw [State.selectInput_unpowered r n (by rw [he]; exact hp)])]
    exact (State.acted_selects ht hw r n _).1 hp
  · have hs : w.standing n = true := by simp [State.standing, State.routedAndLocked, hr, Option.isSome_iff_ne_none, htm, hb]
    rw [ends .done (by rw [State.selectInput_idle r n (by rw [he]; exact hp) (by rw [he]; exact hf), hstand, hs]; rfl)]
    exact (State.acted_selects ht hw r n _).2.1 hp hf hr htm hb
  · rw [ends (if n = y.target then .joined else .waiting)
      (by rw [State.selectInput_busy r n (by rw [he]; exact hp) (by rw [he]; exact hf), State.askBusy_verdict])]
    exact (State.acted_selects ht hw r n _).2.2 y hp hf
  · rw [ends .started (by rw [State.selectInput_idle r n (by rw [he]; exact hp) (by rw [he]; exact hf), hstand, hst]; rfl)]
    exact State.acted_starts ht hw r n _ hp hf hpt hst

/-- A key's SELECT_INPUT that proceeds, with its outcome told first (R93). -/
theorem Quiet.keyEnds_select {z : State} (hq : Quiet z) {n : InputIdx} (h : z.runLocal (.selectInput n) = z.floorIntake .console (.selectInput n))
    (hopen : FloorOpens z .console) :
    let w : State := { z.touch .console with floor := z.floor.taken .console }
    let passed (v : Verdict) (l : List Notice) : Ports :=
      z.ports.offerAll (keyOutcome (.selectInput n) { verdict := v } :: (z.floor.takenNotice .console ++ l))
    Selects w (z.keyEnds (.selectInput n)) passed .console n ∧ Starts w (z.keyEnds (.selectInput n)) passed .console n := by
  have ht := hq.localTaking
  have hw : ({ z.touch .console with floor := z.floor.taken .console } : State).Settled := (hq.settled.touch .console).congr rfl rfl
  refine ht.selects hw (told := fun v l => z.ports.offerAll (keyOutcome (.selectInput n) { verdict := v } :: l)) fun v hv => ?_
  rw [State.keyEnds_proceeds h rfl (by simp) hopen (v := v) (by rw [← hv]; rfl),
    State.keyed_closed (State.acted_select_settled (ht.settled hw) _ _)]

/-- A key's SET_MUTE or CLEAR_MUTE that proceeds, with its outcome told first (R104). -/
theorem Quiet.keyEnds_mute {z : State} (hq : Quiet z) {m : Bool} {c : Cmd} (hc : c = if m then .setMute else .clearMute)
    (h : z.runLocal c = z.floorIntake .console c) (hopen : FloorOpens z .console) :
    Muting { z.touch .console with floor := z.floor.taken .console } (z.keyEnds c)
      (fun l => z.ports.offerAll (keyOutcome c { verdict := .done } :: (z.floor.takenNotice .console ++ l))) m := by
  have hw : ({ z.touch .console with floor := z.floor.taken .console } : State).Settled := (hq.settled.touch .console).congr rfl rfl
  have ht := hq.localTaking.keyed (keyOutcome c { verdict := .done })
  have hacted : (((z.touch .console).taking .console).acted .console c).keyed (keyOutcome c { verdict := .done })
      = (((z.touch .console).taking .console).keyed (keyOutcome c { verdict := .done })).mute m := by
    have : ((z.touch .console).taking .console).acted .console c = ((z.touch .console).taking .console).mute m := by
      rw [hc]
      cases m <;> rfl
    rw [this, State.mute_eq, State.mute_eq]
    rfl
  rw [State.keyEnds_proceeds h (by rw [hc]; cases m <;> rfl) (by rw [hc]; cases m <;> simp) hopen (v := .done) (by rw [hc]; cases m <;> rfl),
    hacted]
  exact State.mute_muting ht hw m _

/-! ## Any command a key forms (R176) -/

/-- The commands that keys form (R176). -/
inductive Formed : Cmd → Prop where
  | lampOn : Formed .lampOn
  | lampOff : Formed .lampOff
  | level (l : Level) : Formed (.setLampLevel l)
  | select (n : InputIdx) : Formed (.selectInput n)
  | setMute : Formed .setMute
  | clearMute : Formed .clearMute

/-- A floor command of a key is one of the floor's own: step 11 lets it pass, and it is no HOLD_FLOOR. -/
theorem Formed.floored {c : Cmd} (hc : Formed c) {z : State} (hf : z.isFloor c = true) :
    localRest c z = z.floorIntake .console c ∧ z.lateRefusal .console c = none := by
  cases hc with
  | lampOn | lampOff | level l => exact absurd hf (by simp [State.isFloor])
  | select n => exact ⟨rfl, rfl⟩
  | setMute | clearMute => exact ⟨rfl, rfl⟩

/-- A key's command in the words of the statements (R6, R28 to R31, R40, R176, R178). -/
theorem Quiet.ordered {s : State} (hq : Quiet s) (x : Console) {c : Cmd} (hc : Formed c) : Ordered s ((s.setConsole x).keyEnds c) x c := by
  have hz : Quiet (s.setConsole x) := hq
  have htouch : ({ s.touch .console with console := x } : State) = (s.setConsole x).touch .console := by
    rw [State.touch_eq, State.touch_eq]
    rfl
  refine ⟨fun hw => hz.keyEnds_refused (State.runLocal_waits (z := s.setConsole x) hw c), fun hw =>
    ⟨fun v hv => hz.keyEnds_refused (State.runLocal_refused (z := s.setConsole x) hw hv), fun hv => ?_⟩⟩
  have hrun := State.runLocal_passed (z := s.setConsole x) hw hv
  rw [htouch]
  refine ⟨fun h => ?_, fun h => ?_, fun h => ?_, fun h => ?_, fun hf => ?_⟩
  · subst h
    exact hz.keyEnds_lampOn hrun
  · subst h
    exact hz.keyEnds_lampOff hrun
  · subst h
    exact hz.keyEnds_level .normal hrun
  · subst h
    exact hz.keyEnds_level .eco hrun
  · obtain ⟨hrest, hlate⟩ := hc.floored (z := s.setConsole x) hf
    have hfloor := hrun.trans hrest
    obtain ⟨held, busy, waits⟩ := hz.keyEnds_contends hfloor hlate
    refine ⟨held, busy, waits, fun hopen => ⟨fun n h => ?_, fun h => ?_, fun h => ?_⟩⟩
    · subst h
      exact hz.keyEnds_select hfloor hopen
    · subst h
      exact hz.keyEnds_mute (m := true) rfl hfloor hopen
    · subst h
      exact hz.keyEnds_mute (m := false) rfl hfloor hopen

end Sys2Proof.Machine
end

