-- ==== Sys2Proof/Proofs/ConsoleKeys.lean ====
section
/-! SUPPORT. The keys and their commands, the keypad's debounce, and the infrared decoder over a frame's levels (R172 to R177). -/

namespace Sys2Proof.Machine

/-! ## The command of a key (R176, R177) -/

/-- POWER asks for light, in the words of the statements (R176). -/
theorem State.powerLights_eq (s : State) : s.powerLights =
    Decidable.decide (s.lamp.state = .off ∨ s.lamp.state = .fault ∨ (s.lamp.state = .cooldown ∧ s.lamp.pendingOn = none)) := by
  unfold State.powerLights
  rw [Bool.eq_iff_iff]
  cases s.lamp.state <;> simp

/-- The first of the five other inputs, in the cycle's order, that passes a test (R177). -/
theorem cycle_find {P : InputIdx → Bool} {d : InputIdx} (hd : d ≠ 0) (h : P d = true)
    (hfirst : ∀ e : InputIdx, e ≠ 0 → e < d → P e = false) : ([1, 2, 3, 4, 5] : List InputIdx).find? P = some d := by
  have before : ∀ e : InputIdx, e ≠ 0 → e < d → P e ≠ true := fun e he hlt => by rw [hfirst e he hlt]; decide
  match d, hd, h, before with
  | 1, _, h, _ => exact List.find?_cons_of_pos h
  | 2, _, h, b => rw [List.find?_cons_of_neg (b 1 (by decide) (by decide)), List.find?_cons_of_pos h]
  | 3, _, h, b =>
    rw [List.find?_cons_of_neg (b 1 (by decide) (by decide)), List.find?_cons_of_neg (b 2 (by decide) (by decide)),
      List.find?_cons_of_pos h]
  | 4, _, h, b =>
    rw [List.find?_cons_of_neg (b 1 (by decide) (by decide)), List.find?_cons_of_neg (b 2 (by decide) (by decide)),
      List.find?_cons_of_neg (b 3 (by decide) (by decide)), List.find?_cons_of_pos h]
  | 5, _, h, b =>
    rw [List.find?_cons_of_neg (b 1 (by decide) (by decide)), List.find?_cons_of_neg (b 2 (by decide) (by decide)),
      List.find?_cons_of_neg (b 3 (by decide) (by decide)), List.find?_cons_of_neg (b 4 (by decide) (by decide)),
      List.find?_cons_of_pos h]

/-- The SOURCE cycle as steps from the selected input (R177). -/
theorem State.nextSource_eq (s : State) : s.nextSource =
    (([1, 2, 3, 4, 5] : List InputIdx).find? fun d => s.enabled (s.engine.selected + d) && (s.source (s.engine.selected + d)).present).map
      (s.engine.selected + ·) := by
  have : cycleFrom s.engine.selected = ([1, 2, 3, 4, 5] : List InputIdx).map (s.engine.selected + ·) := rfl
  unfold State.nextSource
  rw [this, List.find?_map]
  rfl

/-- A key accepted, to the end of its row: with the console left as x it forms its command, or none (R176, R177). -/
theorem Quiet.pressed {s : State} (hq : Quiet s) (x : Console) (k : Key) : Pressed s ((s.setConsole x).takeKey k).finish x k := by
  have hz : Quiet (s.setConsole x) := hq
  have forms : ∀ {c : Cmd}, (s.setConsole x).keyCommand k = some c → Formed c → Ordered s ((s.setConsole x).takeKey k).finish x c :=
    fun hk hc => by
      rw [State.takeKey_finish hz.1 hk]
      exact hq.ordered x hc
  refine ⟨fun h => ?_, fun h => ⟨fun hnone => ?_, fun d hd hc hfirst => ?_⟩, fun h => ?_, fun h => ?_, fun h => ?_, fun n h => ?_⟩
  · subst h
    have hlights : (s.setConsole x).powerLights = Decidable.decide (s.lamp.state = .off ∨ s.lamp.state = .fault
        ∨ (s.lamp.state = .cooldown ∧ s.lamp.pendingOn = none)) := s.powerLights_eq
    refine forms (congrArg some (by rw [hlights])) ?_
    split
    · exact .lampOn
    · exact .lampOff
  · subst h
    have hk : (s.setConsole x).keyCommand .source = none := by
      change s.nextSource.map Cmd.selectInput = none
      have : (([1, 2, 3, 4, 5] : List InputIdx).find? fun d =>
          s.enabled (s.engine.selected + d) && (s.source (s.engine.selected + d)).present) = none := by
        rw [List.find?_eq_none]
        intro d hd
        exact (Bool.not_eq_true _).mpr (hnone d (by fin_cases hd <;> decide))
      rw [State.nextSource_eq, this]
      rfl
    rw [State.takeKey_none hk, hz.telling.finish hz.settled rfl]
    rfl
  · subst h
    refine forms ?_ (.select _)
    change s.nextSource.map Cmd.selectInput = _
    rw [State.nextSource_eq, cycle_find (P := fun d => s.enabled (s.engine.selected + d) && (s.source (s.engine.selected + d)).present)
      hd hc hfirst]
    rfl
  · subst h
    refine forms rfl ?_
    split
    · exact .clearMute
    · exact .setMute
  · subst h
    exact forms rfl (.level .eco)
  · subst h
    exact forms rfl (.level .normal)
  · subst h
    exact forms rfl (.select n)

/-! ## The keypad (R172) -/

/-- Where a panel key's band of samples begins (R172). -/
def PanelKey.base : PanelKey → Nat
  | .power => 0
  | .source => 64
  | .mute => 128

theorem classify_key {v : Byte} {k : PanelKey} (hlo : k.base ≤ v.toNat) (hhi : v.toNat ≤ k.base + 31) : classify v = .key k := by
  unfold classify
  unfold PanelKey.base at hlo hhi
  cases k with
  | power => rw [if_pos (by simpa using hhi)]
  | source =>
    simp only at hlo hhi
    rw [if_neg (by omega), if_neg (by omega), if_pos (by omega)]
  | mute =>
    simp only at hlo hhi
    rw [if_neg (by omega), if_neg (by omega), if_neg (by omega), if_neg (by omega), if_pos (by omega)]

theorem classify_idle {v : Byte} (h : 224 ≤ v.toNat) : classify v = .idle := by
  unfold classify
  rw [if_neg (by omega), if_neg (by omega), if_neg (by omega), if_neg (by omega), if_neg (by omega), if_neg (by omega)]

theorem classify_between {v : Byte}
    (h : (32 ≤ v.toNat ∧ v.toNat ≤ 63) ∨ (96 ≤ v.toNat ∧ v.toNat ≤ 127) ∨ (160 ≤ v.toNat ∧ v.toNat ≤ 223)) :
    classify v = .between := by
  unfold classify
  rcases h with ⟨h1, h2⟩ | ⟨h1, h2⟩ | ⟨h1, h2⟩
  · rw [if_neg (by omega), if_pos (by omega)]
  · rw [if_neg (by omega), if_neg (by omega), if_neg (by omega), if_pos (by omega)]
  · rw [if_neg (by omega), if_neg (by omega), if_neg (by omega), if_neg (by omega), if_neg (by omega), if_pos (by omega)]

/-- A console that has moved and accepted nothing is all that has changed. -/
theorem Quiet.consoled {s : State} (hq : Quiet s) (x : Console) : (s.setConsole x).finish = s.setConsole x := by
  have hz : Quiet (s.setConsole x) := hq
  rw [hz.telling.finish hz.settled rfl]
  rfl

/-- A sample that accepts no key moves the debounce state alone (R172). -/
theorem exec_keypad_none {s : State} (hq : Quiet s) {v : Byte} {d : Debounce} (h : s.console.keypad.take (classify v) = (d, none)) :
    exec (.keypadSample v) s = .next { s with console := { s.console with keypad := d } } := by
  have hs : s.sample v = s.setConsole { s.console with keypad := d } := by
    unfold State.sample
    rw [h]
  change Host.Outcome.next (s.sample v).finish = _
  rw [hs, hq.consoled]
  rfl

/-- A sample that leaves the debounce state leaves everything. -/
theorem exec_keypad_same {s : State} (hq : Quiet s) {v : Byte} {d : Debounce} (hd : s.console.keypad = d)
    (h : d.take (classify v) = (d, none)) : exec (.keypadSample v) s = .next s := by
  rw [exec_keypad_none hq (d := d) (by rw [hd]; exact h), ← hd]

/-- A second sample of a key presses it (R172). -/
theorem exec_keypad_pressed {s : State} (hq : Quiet s) {v : Byte} {k : PanelKey} (hk : classify v = .key k)
    (hd : s.console.keypad = .candidate k) :
    ∃ t, exec (.keypadSample v) s = .next t ∧ Pressed s t { s.console with keypad := .pressed (some k) } (panelKey k) := by
  have hs : s.sample v = (s.setConsole { s.console with keypad := .pressed (some k) }).takeKey (panelKey k) := by
    unfold State.sample
    rw [hk, hd, show (Debounce.candidate k).take (.key k) = (.pressed (some k), some k) from if_pos rfl]
  refine ⟨_, congrArg (fun x : State => Host.Outcome.next x.finish) hs, hq.pressed _ _⟩

/-! ## The infrared decoder (R173, R174) -/

/-- A level that completes no frame moves the decoder alone. -/
theorem State.takeElement_none {s : State} {e : IrElement} {d d' : IrDecoder} (hd : s.console.ir = d) (h : d.take e = (d', none)) :
    s.takeElement e = s.setConsole { s.console with ir := d' } := by
  unfold State.takeElement
  rw [hd, h]

/-- s with the decoder in this state. -/
def State.decoding (s : State) (d : IrDecoder) : State := s.setConsole { s.console with ir := d }

theorem State.decoding_take {s : State} {e : IrElement} {d d' : IrDecoder} (h : d.take e = (d', none)) :
    (s.decoding d).takeElement e = s.decoding d' := State.takeElement_none (s := s.decoding d) rfl h

theorem State.decoding_same {s : State} {d : IrDecoder} (h : s.console.ir = d) : s.decoding d = s := by
  unfold State.decoding
  rw [← h]
  rfl

/-- The two levels of a bit, at the middle of their windows (R173). -/
def bitWire (b : Bool) : List IrElement := [.mark 6, .space (if b then 15 else 6)]

/-- A bit received is kept, the sixteenth ending the bits (R173). -/
theorem State.decoding_bit (s : State) (bits : List Bool) (b : Bool) :
    (s.decoding (.bitMark bits)).takeElements (bitWire b) = s.decoding (withBit bits b) := by
  change ((s.decoding (.bitMark bits)).takeElement (.mark 6)).takeElement (.space (if b then 15 else 6)) = _
  rw [State.decoding_take (d := .bitMark bits) (d' := .bitSpace bits) rfl]
  cases b <;> exact State.decoding_take rfl

theorem State.takeElements_append (s : State) (a b : List IrElement) :
    s.takeElements (a ++ b) = (s.takeElements a).takeElements b := List.foldl_append

/-- Sixteen bits in all end before the closing mark (R173). -/
theorem State.decoding_bits (s : State) (rest : List Bool) : ∀ bits : List Bool, rest ≠ [] → bits.length + rest.length = 16 →
    (s.decoding (.bitMark bits)).takeElements (rest.flatMap bitWire) = s.decoding (.closingMark .data (bits ++ rest)) := by
  induction rest with
  | nil => exact fun _ h _ => absurd rfl h
  | cons b rest ih =>
    intro bits _ hlen
    rw [List.length_cons] at hlen
    rw [List.flatMap_cons, State.takeElements_append, State.decoding_bit]
    unfold withBit
    cases rest with
    | nil =>
      rw [if_pos (by simpa using hlen)]
      rfl
    | cons c rest =>
      rw [List.length_cons] at hlen
      rw [if_neg (by omega), ih (bits ++ [b]) (by simp) (by rw [List.length_append, List.length_cons, List.length_cons]; simp; omega),
        List.append_assoc]
      rfl

/-- The levels of a whole data frame bring its bits to the key decoder, the infrared decoder IDLE again (R173, R174). -/
theorem State.takeElements_wire {s : State} (hd : s.console.ir = .idle) {bits : List Bool} (hlen : bits.length = 16) :
    s.takeElements (irWire bits) = s.takeFrame bits := by
  have hwire : irWire bits = [.mark 50, .space 25] ++ (bits.flatMap bitWire ++ [.mark 6, .space 255]) := by
    unfold irWire
    rw [List.append_assoc]
    rfl
  have hlead : s.takeElements [.mark 50, .space 25] = s.decoding (.bitMark []) := by
    change (s.takeElement (.mark 50)).takeElement (.space 25) = _
    rw [State.takeElement_none hd (d' := .leaderSpace) rfl]
    exact State.decoding_take (s := s) rfl
  have hgap : (s.decoding (.closingMark .data bits)).takeElement (.mark 6) = s.decoding (.idleGap .data bits) := State.decoding_take rfl
  rw [hwire, State.takeElements_append, hlead, State.takeElements_append,
    s.decoding_bits bits [] (by intro h; rw [h] at hlen; exact absurd hlen (by decide)) (by simpa using hlen), List.nil_append]
  change ((s.decoding (.closingMark .data bits)).takeElement (.mark 6)).takeElement (.space 255) = _
  rw [hgap]
  change (s.decoding .idle).takeFrame bits = _
  rw [State.decoding_same hd]

/-- A frame passes: its check is right and its room is the configured one, or any is configured (R174, R175). -/
theorem frame_good_iff (room : Option Nat) (bits : List Bool) : (checkOk bits = true ∧ roomOk room bits = true) ↔
    (fromBits (bits.drop 12) = (fromBits (bits.take 4) ^^^ fromBits ((bits.drop 4).take 8) / 16 ^^^ fromBits ((bits.drop 4).take 8) % 16)
      ∧ ∀ c ∈ room, c = fromBits (bits.take 4)) := by
  refine and_congr beq_iff_eq ?_
  unfold roomOk
  cases room with
  | none => simp
  | some c => simp [irRoom]

theorem keyOf_irCode (y : Key) : keyOf (irCode y) = some y := by
  cases y with
  | power | source | mute | eco | normal => rfl
  | input n => fin_cases n <;> rfl

theorem irCode_of_keyOf {c : Nat} {y : Key} (h : keyOf c = some y) : irCode y = c := by
  unfold keyOf at h
  split at h <;> cases h <;> rfl

/-- A repeat frame leaves the decoder IDLE (R173). -/
theorem State.takeElements_again {s : State} (hd : s.console.ir = .idle) :
    s.takeElements [.mark 50, .space 13, .mark 6, .space 255] = s := by
  change (((s.takeElement (.mark 50)).takeElement (.space 13)).takeElement (.mark 6)).takeElement (.space 255) = s
  rw [State.takeElement_none hd (d' := .leaderSpace) rfl]
  change ((((s.decoding .leaderSpace).takeElement (.space 13)).takeElement (.mark 6)).takeElement (.space 255)) = s
  rw [State.decoding_take (d' := .closingMark .again []) rfl, State.decoding_take (d' := .idleGap .again []) rfl,
    State.decoding_take (d' := .idle) rfl, State.decoding_same hd]

/-- An overflowing space that completes no data frame leaves the decoder IDLE (R173). -/
theorem IrDecoder.take_overflow {d : IrDecoder} (h : ∀ b, d ≠ .idleGap .data b) : d.take (.space 255) = (.idle, none) := by
  cases d with
  | idleGap kind b =>
    cases kind with
    | data => exact absurd rfl (h b)
    | again => rfl
  | idle | leaderSpace | bitMark | bitSpace | closingMark | discard => rfl

end Sys2Proof.Machine

open Sys2Proof Sys2Proof.Machine

/-- Settles O58: the debounce row by row, the frame's levels folded to its bits, and the key's command at intake. -/
theorem consoleActs : Obligations.ConsoleActs := by
  unfold Obligations.ConsoleActs
  intro s v k bits n hq
  have hsame : ∀ t : State, t = s → t.finish = s := fun t ht => by
    rw [ht, hq.telling.finish hq.settled rfl]
    rfl
  dsimp only
  refine ⟨fun hlo hhi => ?_, fun h => ?_, fun h => ?_, fun hd hlen => ?_, fun hd => ?_, fun hd => ?_, fun hd hn => ?_⟩
  · have hk : classify v = .key k := classify_key hlo hhi
    refine ⟨fun hp => ?_, fun j hp hj => ?_, fun j hp => ?_, fun j hp => ?_, fun hp => ?_⟩
    · exact exec_keypad_none hq (by rw [hk, hp]; rfl)
    · exact exec_keypad_none hq (by rw [hk, hp]; exact if_neg hj.symm)
    · exact exec_keypad_same hq hp (by rw [hk]; rfl)
    · exact exec_keypad_none hq (by rw [hk, hp]; rfl)
    · obtain ⟨t, he, hpr⟩ := exec_keypad_pressed hq hk hp
      refine ⟨t, he, ?_⟩
      cases k <;> exact hpr
  · have hk := classify_idle h
    cases hp : s.console.keypad with
    | pressed j => exact exec_keypad_none hq (by rw [hk, hp]; rfl)
    | released | candidate j | releaseSeen j => exact exec_keypad_none hq (by rw [hk, hp]; rfl)
  · exact exec_keypad_same hq rfl (by rw [classify_between h]; rfl)
  · have hrow : exec (.irFrame (irWire bits)) s = .next (s.takeFrame bits).finish :=
      congrArg (fun x : State => Host.Outcome.next x.finish) (State.takeElements_wire hd hlen)
    rw [hrow]
    have hgood := frame_good_iff s.console.room bits
    refine ⟨fun hbad => ?_, fun hok hno => ?_, fun hok y hy => ?_⟩
    · exact congrArg Host.Outcome.next (hsame _ (if_neg fun h => hbad (hgood.mp h)))
    · have hkey : keyOf (irKey bits) = none := by
        cases hko : keyOf (irKey bits) with
        | none => rfl
        | some y => exact absurd (irCode_of_keyOf hko) (hno y)
      refine congrArg Host.Outcome.next (hsame _ ((if_pos (hgood.mpr hok)).trans ?_))
      rw [hkey]
    · have hframe : s.takeFrame bits = s.takeKey y := by
        refine (if_pos (hgood.mpr hok)).trans ?_
        rw [show irKey bits = irCode y from hy.symm, keyOf_irCode]
      rw [hframe]
      exact ⟨_, rfl, hq.pressed s.console y⟩
  · exact congrArg Host.Outcome.next (hsame _ (State.takeElements_again hd))
  · have : s.takeElement (.space 255) = s.decoding .idle := State.takeElement_none rfl (IrDecoder.take_overflow hd)
    exact congrArg Host.Outcome.next ((congrArg State.finish this).trans (hq.consoled _))
  · have hwin : within 40 60 n = false := by
      unfold within
      rw [decide_eq_false_iff_not]
      omega
    have : s.takeElement (.mark n) = s.decoding .discard := State.takeElement_none hd (by
      change (if within 40 60 n then IrDecoder.leaderSpace else .discard, none) = _
      rw [hwin]
      rfl)
    exact congrArg Host.Outcome.next ((congrArg State.finish this).trans (hq.consoled _))
end

