-- ==== Sys2Proof/Proofs/EngineWiring.lean ====
section
/-! SUPPORT. What the engine's consistency depends on (R41, R45, R90, R95, R103): a few fields of the engine and of the lamp, and the
operations that leave them alone, one lemma for each. -/

namespace Sys2Proof.Machine

/-- The fields of the engine and of the lamp that the engine's consistency speaks of: its state, whether a switch is in flight and whether a
target is pending, the scaler's power and one owed, the lamp's state and its start-up mark. -/
structure Wiring where
  state : EngineState
  busy : Bool
  waiting : Bool
  powered : Bool
  owed : Bool
  lamp : LampState
  startUp : Bool

def State.wiring (s : State) : Wiring :=
  { state := s.engine.state, busy := s.engine.inFlight.isSome, waiting := s.engine.pendingTarget.isSome, powered := s.engine.powered,
    owed := s.engine.powerUpOwed, lamp := s.lamp.state, startUp := s.lamp.startUp }

theorem State.wiring_congr {s t : State} (he : t.engine = s.engine) (hl : t.lamp = s.lamp) : t.wiring = s.wiring := by
  unfold State.wiring
  rw [he, hl]

theorem LinkOnly.wiring {s t : State} (h : LinkOnly s t) : t.wiring = s.wiring := by
  rw [show t = _ from h]
  rfl

/-! ## Notices, the store, the lockout records -/

@[simp] theorem State.notify_wiring (s : State) (n : Notice) : (s.notify n).wiring = s.wiring := rfl
@[simp] theorem State.kick_wiring (s : State) : s.kick.wiring = s.wiring := by rw [s.kick_onlySaved.1]; rfl
@[simp] theorem State.queueRecord_wiring (s : State) (r : RecordId) : (s.queueRecord r).wiring = s.wiring := by
  rw [(s.queueRecord_onlySaved r).1]; rfl
@[simp] theorem State.checkpoint_wiring (s : State) : s.checkpoint.wiring = s.wiring := by rw [s.checkpoint_onlySaved.1]; rfl
@[simp] theorem State.completeWrite_wiring (s : State) : s.completeWrite.wiring = s.wiring := by
  unfold State.completeWrite
  split
  · rfl
  · rw [State.kick_wiring]; split <;> rfl
@[simp] theorem State.failWrite_wiring (s : State) : s.failWrite.wiring = s.wiring := by
  unfold State.failWrite
  split
  · rfl
  · dsimp only; split <;> rfl
@[simp] theorem State.clearFault_wiring (s : State) : s.clearFault.wiring = s.wiring := by
  unfold State.clearFault
  split
  · rw [State.kick_wiring]; rfl
  · rfl
@[simp] theorem State.saveLockouts_wiring (s : State) : s.saveLockouts.wiring = s.wiring := State.queueRecord_wiring _ _
@[simp] theorem State.addLockout_wiring (s : State) (l : Lockout) : (s.addLockout l).wiring = s.wiring := by
  unfold State.addLockout; split <;> rfl
@[simp] theorem State.removeLockouts_wiring (s : State) (gone : Lockout → Bool) : (s.removeLockouts gone).wiring = s.wiring := by
  rw [State.removeLockouts_eq]; rfl
@[simp] theorem State.addLampLock_wiring (s : State) (reason : LockReason) : (s.addLampLock reason).wiring = s.wiring := by
  unfold State.addLampLock
  split
  · simp
  · split
    · rw [State.saveLockouts_wiring]; rfl
    · rfl
@[simp] theorem State.removeLampLock_wiring (s : State) (which : Lockout → Bool) : (s.removeLampLock which).wiring = s.wiring := by
  unfold State.removeLampLock; split <;> simp
@[simp] theorem State.addThermal_wiring (s : State) : s.addThermal.wiring = s.wiring := by unfold State.addThermal; split <;> simp
@[simp] theorem State.examineThermal_wiring (s : State) : s.examineThermal.wiring = s.wiring := by
  unfold State.examineThermal; split <;> simp

/-! ## The wear counter, the deferral, the lamp's level -/

@[simp] theorem State.testThresholds_wiring (s : State) : s.testThresholds.wiring = s.wiring := by
  rw [State.testThresholds_eq]
  split
  · rw [State.saveLockouts_wiring]; rfl
  · rfl
@[simp] theorem State.litSecond_wiring (s : State) : s.litSecond.wiring = s.wiring := by
  have minute : ∀ u : State, u.countMinute.wiring = u.wiring := fun u => by
    unfold State.countMinute
    split
    · exact u.checkpoint_wiring
    · rfl
  unfold State.litSecond
  split
  · rfl
  · split
    · rfl
    · unfold State.litMinute; rw [State.testThresholds_wiring, minute]; rfl
@[simp] theorem State.endDeferral_wiring (s : State) (n : Nat) : (s.endDeferral n).wiring = s.wiring := by
  unfold State.endDeferral; split <;> rfl
@[simp] theorem State.touch_wiring (s : State) (r : Requester) : (s.touch r).wiring = s.wiring := by rw [State.touch_eq]; rfl
@[simp] theorem State.lampOffEndsDeferral_wiring (s : State) (r : Requester) : (s.lampOffEndsDeferral r).wiring = s.wiring := by
  unfold State.lampOffEndsDeferral; split <;> simp
@[simp] theorem State.examineDeferral_wiring (s : State) : s.examineDeferral.wiring = s.wiring := by
  unfold State.examineDeferral; split <;> rfl
@[simp] theorem State.lampLevel_wiring (s : State) (l : Level) : (s.lampLevel l).1.wiring = s.wiring := by
  unfold State.lampLevel; dsimp only; split <;> rfl
@[simp] theorem State.dropPendingOn_wiring (s : State) : s.dropPendingOn.wiring = s.wiring := by
  unfold State.dropPendingOn; (repeat' split) <;> rfl
@[simp] theorem State.dropNotice_wiring (s : State) (a : Option LampAsker) : (s.dropNotice a).wiring = s.wiring := by
  unfold State.dropNotice; split <;> rfl

/-! ## The floor's own operations -/

@[simp] theorem State.tellHolder_wiring (s : State) (f : Floor) : (s.tellHolder f).wiring = s.wiring := by
  unfold State.tellHolder; split <;> rfl
@[simp] theorem State.dropElect_wiring (s : State) (n : Nat) : (s.dropElect n).wiring = s.wiring := by
  unfold State.dropElect; split <;> rfl
@[simp] theorem State.holdDropsElect_wiring (s : State) : s.holdDropsElect.wiring = s.wiring := by
  unfold State.holdDropsElect; (repeat' split) <;> simp
@[simp] theorem State.becomeElect_wiring (s : State) (r : Requester) (c : Cmd) : (s.becomeElect r c).wiring = s.wiring := by
  unfold State.becomeElect; split <;> rfl
@[simp] theorem State.mark_wiring (s : State) (c : Cmd) (v : Verdict) : (s.mark c v).wiring = s.wiring := by
  unfold State.mark; split <;> rfl
@[simp] theorem State.dropBarredElect_wiring (s : State) (k : LockKind) : (s.dropBarredElect k).wiring = s.wiring := by
  unfold State.dropBarredElect; (repeat' split) <;> simp
@[simp] theorem State.freeBarredHolder_wiring (s : State) (k : LockKind) : (s.freeBarredHolder k).wiring = s.wiring := by
  unfold State.freeBarredHolder
  split
  · split
    · rw [State.tellHolder_wiring]; rfl
    · rfl
  · rfl

/-! ## The blank control, the tables, the profiles -/

@[simp] theorem State.watchBlank_wiring (s : State) : s.watchBlank.wiring = s.wiring := by rw [State.watchBlank_eq]; rfl
@[simp] theorem State.compareBlank_wiring (s : State) : s.compareBlank.wiring = s.wiring := by
  unfold State.compareBlank; (repeat' split) <;> rfl
@[simp] theorem State.recompute_wiring (s : State) (b : Bool) : (s.recompute b).wiring = s.wiring := (s.recompute_link b).wiring
@[simp] theorem State.tellAspect_wiring (s : State) (old : AspectClass) : (s.tellAspect old).wiring = s.wiring :=
  (s.tellAspect_link old).wiring
@[simp] theorem State.mute_wiring (s : State) (m : Bool) : (s.mute m).wiring = s.wiring := State.watchBlank_wiring _
@[simp] theorem State.endRecall_wiring (s : State) (n : InputIdx) : (s.endRecall n).wiring = s.wiring := by rw [State.endRecall_eq]; rfl
@[simp] theorem State.takeRecall_wiring (s : State) (k : SceneIdx) (r : Requester) (n : InputIdx) (v : Verdict) :
    (s.takeRecall k r n v).wiring = s.wiring := by unfold State.takeRecall; split <;> rfl
@[simp] theorem State.recallLevel_wiring (s : State) (r : Requester) (l : SceneLevel) : (s.recallLevel r l).1.wiring = s.wiring := by
  unfold State.recallLevel; (repeat' split) <;> simp
@[simp] theorem State.setSlot_wiring (s : State) (t : SlotIdx) (x : Option Trial) : (s.setSlot t x).wiring = s.wiring := rfl
@[simp] theorem State.setStored_wiring (s : State) (p : ProfileIdx) (k : Keystone) : (s.setStored p k).wiring = s.wiring := rfl
@[simp] theorem State.selectProfile_wiring (s : State) (p : ProfileIdx) : (s.selectProfile p).wiring = s.wiring := by
  unfold State.selectProfile
  split
  · rfl
  · rw [State.recompute_wiring]; rfl
@[simp] theorem State.writePair_wiring (s : State) (p : ProfileIdx) (k : Keystone) : (s.writePair p k).wiring = s.wiring := by
  unfold State.writePair
  dsimp only
  split <;> rw [(State.tellPair_link _ _).wiring] <;> simp
@[simp] theorem State.discardTrial_wiring (s : State) (t : SlotIdx) : (s.discardTrial t).wiring = s.wiring := by
  unfold State.discardTrial; (repeat' split) <;> simp
@[simp] theorem State.openTrial_wiring (s : State) (t : SlotIdx) (p : ProfileIdx) : (s.openTrial t p).wiring = s.wiring := by
  unfold State.openTrial State.enableTrial; dsimp only; split <;> simp
@[simp] theorem State.commitTrial_wiring (s : State) (t : SlotIdx) : (s.commitTrial t).wiring = s.wiring := by
  unfold State.commitTrial; (repeat' split) <;> simp
@[simp] theorem State.setAspect_wiring (s : State) (n : InputIdx) (o : AspectOverride) : (s.setAspect n o).wiring = s.wiring := by
  unfold State.setAspect; rw [State.queueRecord_wiring, State.tellAspect_wiring]; rfl

/-! ## Lockouts by hand -/

@[simp] theorem State.saveIfService_wiring (s : State) (k : LockKind) : (s.saveIfService k).wiring = s.wiring := by
  unfold State.saveIfService; split <;> simp
@[simp] theorem State.clearByHand_wiring (s : State) (r : Requester) (k : LockKind) : (s.clearByHand r k).1.wiring = s.wiring := by
  unfold State.clearByHand; dsimp only; split <;> simp
@[simp] theorem State.expireLockouts_wiring (s : State) : s.expireLockouts.wiring = s.wiring := by
  unfold State.expireLockouts; dsimp only; split <;> simp
@[simp] theorem State.askReset_wiring (s : State) : s.askReset.wiring = s.wiring := by
  unfold State.askReset
  split
  · rfl
  · rw [State.checkpoint_wiring]; rfl

end Sys2Proof.Machine
end

