-- ==== Sys2Proof/Proofs/EngineSteps.lean ====
section
/-! SUPPORT. The engine's consistency through the operations that move it: switches, the lamp, the floor (R41, R45, R90, R95, R99, R103). -/

namespace Sys2Proof.Machine

/-- The lamp's supply as its state and its start-up mark have it (R41, R45). -/
def Wiring.supplies (w : Wiring) : Bool :=
  match w.lamp with
  | .striking | .retryPause | .warmup | .lit => true
  | .cooldown => !w.startUp
  | .off | .fault => false

theorem State.scalerSupplied_eq (s : State) : s.scalerSupplied = s.wiring.supplies := rfl

/-- The scaler's power is b; the lamp supplies it exactly when the engine has it or is owed it; the start-up mark stands in COOLDOWN alone
(R41, R45, R103). -/
structure Wiring.Fed (b : Bool) (w : Wiring) : Prop where
  power : w.powered = b
  supply : w.supplies = (w.powered || w.owed)
  startUp : w.startUp = true → w.lamp = .cooldown

/-- The engine's consistency within an action (R41, R45, R90, R93, R95, R103): with the scaler's power b, the engine is IDLE exactly with no
switch in flight, an unpowered one has none, and a pending target stands behind one. -/
structure Wiring.Sound (b : Bool) (w : Wiring) : Prop extends w.Fed b where
  idle : w.state = .idle ↔ w.busy = false
  unpowered : w.powered = false → w.busy = false
  waiting : w.busy = false → w.waiting = false
  routing : w.state ≠ .routing

/-- The engine of s is consistent within an action, the scaler's power being b. -/
abbrev Wired (b : Bool) (s : State) : Prop := s.wiring.Sound b

theorem Wired.same {b : Bool} {s t : State} (h : Wired b s) (ht : t.wiring = s.wiring) : Wired b t := by
  unfold Wired
  rw [ht]
  exact h

theorem Wired.powered {b : Bool} {s : State} (h : Wired b s) : s.engine.powered = b := h.power

theorem Option.isSome_false_iff {α : Type} (x : Option α) : x.isSome = false ↔ x = none := by cases x <;> simp

theorem engineSound_iff (s : State) : EngineSound s ↔ (s.wiring.state = .idle ↔ s.wiring.busy = false)
    ∧ (s.wiring.powered = false → s.wiring.busy = false) ∧ (s.wiring.busy = false → s.wiring.waiting = false)
    ∧ s.wiring.state ≠ .routing := by
  simp only [State.wiring, Option.isSome_false_iff]

/-- Between commands the engine is wired, with no power-up owed. -/
theorem Wired.of_rest {s : State} (hq : Quiet s) (he : EngineSound s) (hp : PowerSound s) : Wired s.engine.powered s := by
  obtain ⟨hidle, hnone, hpend, hrout⟩ := (engineSound_iff s).mp he
  refine ⟨⟨rfl, ?_, hp.2⟩, hidle, hnone, hpend, hrout⟩
  change s.scalerSupplied = (s.engine.powered || s.engine.powerUpOwed)
  rw [hq.2.1, Bool.or_false, hp.1]

/-! ## Changes of a few fields -/

/-- A lamp that goes on supplying what it supplied. -/
theorem Wired.lampMoved {b : Bool} {s : State} (h : Wired b s) {x : Lamp}
    (hs : (s.setLamp x).scalerSupplied = s.scalerSupplied) (hx : x.startUp = true → x.state = .cooldown) : Wired b (s.setLamp x) :=
  ⟨⟨h.power, hs.trans h.supply, hx⟩, h.idle, h.unpowered, h.waiting, h.routing⟩

/-- A switch with the engine in one of its stages, the scaler powered (R94 to R99). -/
theorem Wiring.Fed.busied {w : Wiring} (h : w.Fed true) {x : EngineState} (hi : x ≠ .idle) (hr : x ≠ .routing) :
    Wiring.Sound true { w with state := x, busy := true } :=
  ⟨⟨h.power, h.supply, h.startUp⟩, by simp [hi], fun hp => absurd (hp.symm.trans h.power) (by decide), by simp, hr⟩

/-- The engine IDLE with nothing in flight and nothing pending. -/
theorem Wiring.Fed.idled {b : Bool} {w : Wiring} (h : w.Fed b) (hs : w.state = .idle) (hb : w.busy = false) (hw : w.waiting = false) :
    w.Sound b :=
  ⟨h, by simp [hs, hb], fun _ => hb, fun _ => hw, by rw [hs]; decide⟩

/-- A switch in flight has the scaler powered. -/
theorem Wired.powered_of_busy {b : Bool} {s : State} (h : Wired b s) {w : Switch} (hw : s.engine.inFlight = some w) : b = true := by
  cases b with
  | true => rfl
  | false =>
    have : s.wiring.busy = false := h.unpowered h.power
    simp [State.wiring, hw] at this

/-- The engine keeps its switch in another stage, or moves a target behind it. -/
theorem Wired.staged {b : Bool} {s t : State} (h : Wired b s) {w : Switch} (hw : s.engine.inFlight = some w) {x : EngineState} {p : Bool}
    (hi : x ≠ .idle) (hr : x ≠ .routing) (ht : t.wiring = { s.wiring with state := x, waiting := p, busy := true }) : Wired b t := by
  obtain rfl := h.powered_of_busy hw
  unfold Wired
  rw [ht]
  exact Wiring.Fed.busied (w := { s.wiring with waiting := p }) ⟨h.power, h.supply, h.startUp⟩ hi hr

/-- With a switch in flight the engine is in a stage of it. -/
theorem Wired.stage {b : Bool} {s : State} (h : Wired b s) {w : Switch} (hw : s.engine.inFlight = some w) : s.engine.state ≠ .idle :=
  fun hi => by
    have : s.wiring.busy = false := h.idle.mp hi
    simp [State.wiring, hw] at this

/-- A target placed or taken behind the switch in flight. -/
theorem Wired.pending {b : Bool} {s t : State} (h : Wired b s) {w : Switch} (hw : s.engine.inFlight = some w)
    (ht : ∃ p, t.wiring = { s.wiring with waiting := p }) : Wired b t := by
  obtain ⟨p, ht⟩ := ht
  have hb : s.wiring.busy = true := by simp [State.wiring, hw]
  exact h.staged hw (h.stage hw) h.routing (ht.trans (by rw [← hb]; rfl))

/-! ## Switches (R93 to R101) -/

theorem State.route_wiring (s : State) (w : Switch) : (s.route w).wiring = { s.wiring with state := .locking, busy := true } := by
  unfold State.route
  have locking : ∀ u : State, (u.enterLocking w).wiring = { u.wiring with state := .locking, busy := true } := fun _ => rfl
  rw [locking, State.watchBlank_wiring, State.tellAspect_wiring]
  split <;> rfl

theorem State.enterApplying_wiring (s : State) (w : Switch) :
    (s.enterApplying w).wiring = { s.wiring with state := .applying, busy := true } := by
  unfold State.enterApplying
  rw [State.recompute_wiring]
  rfl

theorem State.endMuting_wiring (s : State) : s.endMuting.wiring = s.wiring ∨
    s.endMuting.wiring = { s.wiring with state := .locking, busy := true } := by
  unfold State.endMuting
  split
  · split
    · exact .inr (s.route_wiring _)
    · exact .inl rfl
  · exact .inl rfl

/-- A switch has begun: the engine is in one of its first stages with the switch in flight (R94). -/
theorem State.startSwitch_wiring (s : State) (kind : SwitchKind) (n : InputIdx) (r : Option Requester) :
    ∃ x, (x = .muting ∨ x = .locking ∨ x = .applying) ∧ (s.startSwitch kind n r).wiring = { s.wiring with state := x, busy := true } := by
  unfold State.startSwitch
  dsimp only
  split
  · exact ⟨.applying, .inr (.inr rfl), State.enterApplying_wiring _ _⟩
  · rcases State.endMuting_wiring (State.compareBlank (State.setEngine _ _)) with h | h
    · exact ⟨.muting, .inl rfl, by rw [h, State.compareBlank_wiring]; rfl⟩
    · exact ⟨.locking, .inr (.inl rfl), by rw [h, State.compareBlank_wiring]; rfl⟩

theorem Wiring.Fed.startSwitch {s : State} (h : s.wiring.Fed true) (kind : SwitchKind) (n : InputIdx) (r : Option Requester) :
    Wired true (s.startSwitch kind n r) := by
  obtain ⟨x, hx, he⟩ := s.startSwitch_wiring kind n r
  unfold Wired
  rw [he]
  exact h.busied (by rcases hx with rfl | rfl | rfl <;> decide) (by rcases hx with rfl | rfl | rfl <;> decide)

theorem Wired.wantRelock {s : State} (h : Wired true s) : Wired true s.wantRelock := by
  unfold State.wantRelock
  split
  · exact h.toFed.startSwitch _ _ _
  · rename_i hl hw
    exact h.staged hw (x := .locking) (p := s.wiring.waiting) (by decide) (by decide) (by rw [← hl]; rfl)
  all_goals exact h

theorem Wired.payRelock {s : State} (h : Wired true s) : Wired true s.payRelock := by
  unfold State.payRelock
  split
  · split
    · exact h.toFed.startSwitch _ _ _
    · exact h
  · exact h

theorem Wired.endSwitchCond {b : Bool} {s : State} (h : Wired b s) : Wired b s.endSwitchCond := by
  have cond : ∀ u : State, u.wiring = s.wiring → Wired b u.watchBlank := fun u hu => h.same (u.watchBlank_wiring.trans hu)
  unfold State.endSwitchCond
  split
  · exact cond _ rfl
  · split
    · exact cond _ rfl
    · exact h

/-- A busy engine asked for an input moves its pending target alone (R93). -/
theorem State.askBusy_wiring (s : State) (w : Switch) (r : Requester) (n : InputIdx) :
    ∃ p, (s.askBusy w r n).1.wiring = { s.wiring with waiting := p } := by
  rw [State.askBusy_eq]
  exact ⟨_, rfl⟩

theorem Wired.selectInput {b : Bool} {s : State} (h : Wired b s) (r : Requester) (n : InputIdx) : Wired b (s.selectInput r n).1 := by
  unfold State.selectInput
  split
  · exact h
  · rename_i hp
    have hb : b = true := h.powered.symm.trans (by simpa using hp)
    subst hb
    split
    · exact h.pending ‹_› (s.askBusy_wiring _ _ _)
    · split
      · exact h
      · exact h.toFed.startSwitch _ _ _

theorem Wired.recallInput {b : Bool} {s : State} (h : Wired b s) (r : Requester) (n : InputIdx) (c : Bool) :
    Wired b (s.recallInput r n c).1 := by
  unfold State.recallInput
  split
  · exact h
  · rename_i hp
    have hb : b = true := h.powered.symm.trans (by simpa using hp)
    subst hb
    split
    · rename_i w hw
      have hj : (State.joinRecall (s.askBusy w r n).1 w r n).wiring = { (s.askBusy w r n).1.wiring with busy := true } := by
        have hkeep : (s.askBusy w r n).1.wiring.busy = true := by rw [State.askBusy_eq]; simp [State.wiring, hw]
        unfold State.joinRecall
        split
        · rfl
        · rw [← hkeep]
      obtain ⟨p, hp⟩ := s.askBusy_wiring w r n
      exact h.staged hw (h.stage hw) h.routing (hj.trans (by rw [hp]; rfl))
    · split
      · exact h.toFed.startSwitch _ _ _
      · split
        · exact h.toFed.startSwitch _ _ _
        · exact h

/-! ## The lamp (R41, R45, R47, R52) -/

/-- A strike keeps the scaler supplied, or owes it the power it had not (R47, R103). -/
theorem Wired.strike {b : Bool} {s : State} (h : Wired b s) : Wired b s.strike := by
  have hs : s.strike.wiring =
      { s.wiring with lamp := .striking, startUp := false, owed := !s.wiring.supplies || s.wiring.owed } := by
    rw [State.strike_eq, State.testThresholds_wiring, State.checkpoint_wiring]
    rfl
  unfold Wired
  rw [hs]
  refine ⟨⟨h.power, ?_, by simp⟩, h.idle, h.unpowered, h.waiting, h.routing⟩
  change true = (s.wiring.powered || (!s.wiring.supplies || s.wiring.owed))
  rw [h.supply]
  cases s.wiring.powered <;> cases s.wiring.owed <;> rfl

/-- Outside COOLDOWN no start-up mark stands. -/
theorem Wired.startUp_false {b : Bool} {s : State} (h : Wired b s) (hc : s.lamp.state ≠ .cooldown) : s.lamp.startUp = false := by
  cases hu : s.lamp.startUp with
  | false => rfl
  | true => exact absurd (h.startUp hu) hc

/-- The lamp's states in which it strikes or burns, with the retry pause: the scaler is supplied (R41, R45). -/
def LampState.alight : LampState → Bool
  | .striking | .retryPause | .warmup | .lit => true
  | .off | .cooldown | .fault => false

theorem State.scalerSupplied_alight {s : State} (h : s.lamp.state.alight = true) : s.scalerSupplied = true := by
  unfold State.scalerSupplied
  cases hl : s.lamp.state <;> first | rfl | (rw [hl] at h; exact absurd h (by decide))

/-- A lamp that strikes or burns goes on to another such state, or cools. -/
theorem Wired.moves {b : Bool} {s t : State} (h : Wired b s) (hl : s.lamp.state.alight = true) {l : LampState}
    (hn : l.alight = true ∨ l = .cooldown) (ht : t.wiring = { s.wiring with lamp := l }) : Wired b t := by
  have hu : s.lamp.startUp = false := h.startUp_false fun hc => by rw [hc] at hl; exact absurd hl (by decide)
  have hs : Wiring.supplies { s.wiring with lamp := l } = true := by
    unfold Wiring.supplies State.wiring
    rw [hu]
    rcases hn with hn | rfl
    · cases l <;> first | rfl | exact absurd hn (by decide)
    · rfl
  unfold Wired
  rw [ht]
  refine ⟨⟨h.power, ?_, fun e => absurd (hu.symm.trans e) (by decide)⟩, h.idle, h.unpowered, h.waiting, h.routing⟩
  rw [hs, ← State.scalerSupplied_alight hl]
  exact h.supply

theorem State.enterCooldown_wiring (s : State) (n : Nat) (f : Bool) :
    (s.enterCooldown n f).wiring = { s.wiring with lamp := .cooldown } := by
  unfold State.enterCooldown State.bookCooldown
  rw [State.checkpoint_wiring]
  rfl

theorem Wired.enterCooldown {b : Bool} {s : State} (h : Wired b s) (hl : s.lamp.state.alight = true) (n : Nat) (f : Bool) :
    Wired b (s.enterCooldown n f) := h.moves hl (.inr rfl) (s.enterCooldown_wiring n f)

theorem Wired.lampOn {b : Bool} {s : State} (h : Wired b s) (r : Requester) : Wired b (s.lampOn r).1 := by
  unfold State.lampOn
  split
  · exact h.strike
  all_goals exact h

theorem Wired.lampOff {b : Bool} {s : State} (h : Wired b s) : Wired b s.lampOff.1 := by
  unfold State.lampOff
  split <;> first | exact h | exact h.enterCooldown (by rw [‹s.lamp.state = _›]; rfl) _ _

theorem Wired.senseRise {b : Bool} {s : State} (h : Wired b s) : Wired b s.senseRise := by
  unfold State.senseRise
  split
  · exact h.moves (by rw [‹s.lamp.state = _›]; rfl) (l := .warmup) (.inl rfl) rfl
  · exact h

theorem Wired.strikeFails {b : Bool} {s : State} (h : Wired b s) : Wired b s.strikeFails := by
  unfold State.strikeFails
  split
  · exact h
  · rename_i hl
    have hl : s.lamp.state.alight = true := by rw [not_not.mp hl]; rfl
    split
    · exact h.moves hl (l := .retryPause) (.inl rfl) rfl
    · exact h.enterCooldown hl _ _

theorem Wired.retryEnds {b : Bool} {s : State} (h : Wired b s) : Wired b s.retryEnds := by
  unfold State.retryEnds
  split
  · exact h
  · rename_i hl
    split
    · exact h.enterCooldown (by rw [not_not.mp hl]; rfl) _ _
    · exact h.strike

theorem Wired.warmupEnds {b : Bool} {s : State} (h : Wired b s) : Wired b s.warmupEnds := by
  unfold State.warmupEnds
  split
  · exact h
  · rename_i hl
    have hl : s.lamp.state.alight = true := by rw [not_not.mp hl]; rfl
    let x : Lamp := { s.lamp with level := s.allowedLevel (s.lamp.heldLevel.getD s.lamp.level), heldLevel := none, heldOff := false }
    have lit : Wired b ((s.setLamp x).enterLamp .lit none) := h.moves hl (l := .lit) (.inl rfl) rfl
    dsimp only
    split
    · exact lit.enterCooldown rfl _ _
    · exact lit

theorem State.decideRestrike_wiring (s : State) (b : Bool) : (s.decideRestrike b).wiring = s.wiring := by
  unfold State.decideRestrike; (repeat' split) <;> rfl

theorem Wired.senseFall {b : Bool} {s : State} (h : Wired b s) : Wired b s.senseFall := by
  have fallen : s.lamp.state.alight = true → Wired b ((s.bookDropOut.enterCooldown Config.coolSeconds false).decideRestrike s.lamp.heldOff) :=
    fun hl =>
      Wired.same (Wired.enterCooldown (s := s.bookDropOut) h hl _ _) (State.decideRestrike_wiring _ _)
  unfold State.senseFall
  split <;> first | exact h | exact fallen (by rw [‹s.lamp.state = _›]; rfl)

theorem Wired.heat {b : Bool} {s : State} (h : Wired b s) : Wired b s.heat := by
  have cooled : Wired b s.heatLamp := by
    unfold State.heatLamp
    split <;> first | exact h | exact h.enterCooldown (by rw [‹s.lamp.state = _›]; rfl) _ _
  exact cooled.same (State.addThermal_wiring _)

/-- A replacement takes a lamp in FAULT to OFF; neither supplies the scaler (R63). -/
theorem Wired.leaveFault {b : Bool} {s : State} (h : Wired b s) : Wired b s.leaveFault := by
  unfold State.leaveFault
  split
  · rename_i hl
    have hu := h.startUp_false (by rw [hl]; decide)
    have hs : s.scalerSupplied = false := by unfold State.scalerSupplied; rw [hl]
    exact h.lampMoved (x := { s.lamp with state := .off, timer := none, run := s.lamp.nextRun none }) (hs.symm ▸ rfl)
      fun hx => absurd (hu.symm.trans hx) (by decide)
  · exact h

/-! ## The floor's commands and the unit's end (R27, R31 to R35) -/

theorem Wired.recallPower {b : Bool} {s : State} (h : Wired b s) (r : Requester) (p : ScenePower) : Wired b (s.recallPower r p) := by
  have asked : Wired b (if s.issuePasses r .lampOn then (s.lampOn r).1 else s) := by
    split
    · exact h.lampOn r
    · exact h
  unfold State.recallPower
  split <;> first | exact asked | exact h

theorem Wired.runRecall {b : Bool} {s : State} (h : Wired b s) (r : Requester) (k : SceneIdx) : Wired b (s.runRecall r k).1 := by
  have h1 := h.recallPower r s.scenes[k].power
  unfold State.runRecall
  dsimp only
  exact Wired.same (Wired.recallInput (h1.same (by simp)) _ _ _) (State.takeRecall_wiring _ _ _ _ _)

/-- The owners of floor commands keep the engine consistent (R26, R27). -/
theorem Wired.ownerActs {b : Bool} {s : State} (h : Wired b s) (r : Requester) (c : Cmd) : Wired b (s.ownerActs r c).1 := by
  cases c
  case selectInput n => exact h.selectInput r n
  case recallScene k => exact h.runRecall r k
  all_goals exact h.same (by simp [State.ownerActs, State.nudgePair])

theorem Wired.proceed {b : Bool} {s : State} (h : Wired b s) (f : Floor) (r : Requester) (c : Cmd) : Wired b (s.proceed f r c).1 := by
  unfold State.proceed
  split
  · have held : ((s.setFloor { s.floor with hold := true }).tellHolder f).wiring = s.wiring := State.tellHolder_wiring _ _
    dsimp only
    split
    · exact h.same held
    · exact h.same ((State.holdDropsElect_wiring _).trans held)
  · exact Wired.same (Wired.ownerActs (h.same (s.tellHolder_wiring f)) r c) (State.mark_wiring _ _ _)

theorem Wired.handOver {b : Bool} {s : State} (h : Wired b s) (f : Floor) : Wired b (s.handOver f) := by
  unfold State.handOver
  split
  · exact h.same (s.tellHolder_wiring f)
  · split
    · exact h.same (State.tellHolder_wiring _ _)
    · exact Wired.proceed (s := (s.setElect none).passFloor _) h _ _ _

theorem Wired.chainEnds {b : Bool} {s : State} (h : Wired b s) : Wired b s.chainEnds := by
  unfold State.chainEnds
  split
  · have cleared : Wired b (s.setFloor { s.floor with marker := false }) := h
    unfold State.unitEnd
    split
    · exact Wired.handOver (s := (s.setFloor { s.floor with marker := false }).freeFloor) cleared _
    · exact cleared.handOver _
  · exact h

theorem Wired.releaseBy {b : Bool} {s : State} (h : Wired b s) (r : Requester) : Wired b (s.releaseBy r) := by
  unfold State.releaseBy
  split
  · exact Wired.handOver (s := s.freeFloor) h _
  · exact h

theorem Wired.loseStanding {b : Bool} {s : State} (h : Wired b s) (r : Requester) : Wired b (s.loseStanding r) := by
  unfold State.loseStanding
  split
  · exact Wired.handOver (s := s.freeFloor) h _
  · split
    · split
      · exact h.same (s.dropElect_wiring 0)
      · exact h
    · exact h

theorem Wired.floorIntake {b : Bool} {s : State} (h : Wired b s) (r : Requester) (c : Cmd) : Wired b (s.floorIntake r c).1 := by
  have ht : Wired b (s.touch r) := h.same (s.touch_wiring r)
  unfold State.floorIntake
  split
  · exact h
  · exact h
  · split
    · exact h
    · split
      · exact ht.same (State.becomeElect_wiring _ _ _)
      · exact Wired.proceed (s := (s.touch r).passFloor r) ht _ _ _
      · exact ht.proceed _ _ _

/-! ## Kinds that come into force (R161) -/

theorem Wired.comeIntoForce {b : Bool} {s : State} (h : Wired b s) (k : LockKind) (o : Origin) : Wired b (s.comeIntoForce k o) := by
  cases k with
  | panelHold | serviceLock => exact h.same (by simp [State.comeIntoForce])
  | roomClosed => exact (h.same (s.lampOffEndsDeferral_wiring _)).lampOff
  | lampLock | thermalLock => exact h

theorem Wired.placeLockout {b : Bool} {s : State} (h : Wired b s) (l : Lockout) : Wired b (s.placeLockout l) := by
  rw [State.placeLockout_eq]
  split
  · exact h
  · have placed : Wired b ((s.setLockouts (insertLockout l s.lockouts)).notify (inForceNotice l.kind l.origin)) := h
    exact placed.comeIntoForce _ _

theorem Wired.setByHand {b : Bool} {s : State} (h : Wired b s) (r : Requester) (k : LockKind) (e : Option Nat) :
    Wired b (s.setByHand r k e) := by
  unfold State.setByHand
  dsimp only
  refine Wired.same ?_ (State.saveIfService_wiring _ k)
  split
  · exact h
  · exact h.placeLockout _

end Sys2Proof.Machine
end

