-- ==== Sys2Proof/Proofs/EnginePower.lean ====
section
/-! SUPPORT. The engine's consistency through the end of a switch, the end of an action and the power-down, and through the commands formed
inside the part and those of the ports (R6, R99, R103, R135, R146). -/

namespace Sys2Proof.Machine

/-! ## The end of a switch (R96 to R99) -/

/-- With the switch in flight over the engine is IDLE, and what follows keeps it consistent (R27, R99). -/
theorem Wiring.Fed.goIdle {s : State} (h : s.wiring.Fed true) (hb : s.wiring.busy = false) (hw : s.wiring.waiting = false) :
    Wired true s.goIdle := by
  have hidle : Wired true (s.setEngine { s.engine with state := .idle }) :=
    Wiring.Fed.idled ⟨h.power, h.supply, h.startUp⟩ rfl hb hw
  exact hidle.chainEnds.payRelock.endSwitchCond

theorem Wired.completeSwitch {b : Bool} {s : State} (h : Wired b s) (r : SwitchResult) : Wired b (s.completeSwitch r) := by
  unfold State.completeSwitch
  split
  · exact h
  · rename_i w hw
    obtain rfl := h.powered_of_busy hw
    let u := (s.notify (switchEnd w.target r.code w.requester)).endRecall w.target
    have hu : u.wiring = s.wiring := State.endRecall_wiring _ _
    let v := u.setEngine { u.engine with inFlight := none, lockReq := none }
    have hv : v.wiring = { s.wiring with busy := false } := by rw [← hu]; rfl
    have hfed : v.wiring.Fed true := by rw [hv]; exact ⟨h.power, h.supply, h.startUp⟩
    change Wired true v.nextSwitch
    unfold State.nextSwitch
    split
    · exact Wiring.Fed.startSwitch (s := v.setEngine { v.engine with pendingTarget := none })
        ⟨hfed.power, hfed.supply, hfed.startUp⟩ _ _ _
    · rename_i hp
      exact hfed.goIdle (by rw [hv]) (by unfold State.wiring; rw [hp]; rfl)

theorem Wired.endMuting {b : Bool} {s : State} (h : Wired b s) : Wired b s.endMuting := by
  unfold State.endMuting
  split
  · split
    · exact h.staged ‹_› (x := .locking) (p := s.wiring.waiting) (by decide) (by decide) (s.route_wiring _)
    · exact h
  · exact h

theorem Wired.endApplying {b : Bool} {s : State} (h : Wired b s) : Wired b s.endApplying := by
  unfold State.endApplying
  split
  · rename_i w hw
    split
    · split
      · exact h.completeSwitch _
      · refine h.staged hw (x := .unmuting) (p := s.wiring.waiting) (by decide) (by decide) ((State.watchBlank_wiring _).trans ?_)
        rw [show true = s.wiring.busy by simp [State.wiring, hw]]
        rfl
    · exact h
  · exact h

theorem Wired.lockFails {b : Bool} {s : State} (h : Wired b s) : Wired b s.lockFails := by
  unfold State.lockFails
  split
  · rename_i w hl hw
    split
    · exact h.staged hw (x := .locking) (p := s.wiring.waiting) (by decide) (by decide) (by rw [← hl]; rfl)
    · exact h.completeSwitch _
  all_goals exact h

/-! ## The end of an action (R99, R135) -/

/-- The UNMUTING that is over ends with its switch (R99). -/
theorem Wired.endUnmuting {b : Bool} {s : State} (h : Wired b s) : Wired b s.endUnmuting ∧ ¬ UnmutingOver s.endUnmuting := by
  unfold State.endUnmuting
  split
  · rename_i hu
    refine ⟨h.completeSwitch _, fun hover => ?_⟩
    cases hw : s.engine.inFlight with
    | some w => exact State.completeSwitch_state hw .switched hover.1
    | none =>
      have hi : s.engine.state = .idle := h.idle.mpr (by simp [State.wiring, hw])
      exact absurd (hi.symm.trans hu.1) (by decide)
  · exact ⟨h, ‹_›⟩

/-- A power-up owed is taken: the scaler powered, with its switch (R103, R135). -/
theorem Wired.powerUp {b : Bool} {s : State} (h : Wired b s) (ho : s.engine.powerUpOwed = true) : Wired true s.powerUp := by
  have hs : s.wiring.supplies = true := h.supply.trans (by rw [show s.wiring.owed = true from ho, Bool.or_true])
  exact Wiring.Fed.startSwitch (s := s.setEngine { s.engine with powered := true, blank := .blanked, powerUpOwed := false })
    ⟨rfl, hs, h.startUp⟩ _ _ _

theorem Wired.settle {b : Bool} {s : State} (h : Wired b s) : (∃ c, Wired c s.settle) ∧ s.settle.Settled := by
  obtain ⟨hu, hover⟩ := h.endUnmuting
  refine ⟨?_, State.takePowerUp_settled (.inl hover)⟩
  unfold State.settle State.takePowerUp
  split
  · exact ⟨true, hu.powerUp ‹_›⟩
  · exact ⟨b, hu⟩

/-- Between commands: nothing of an action is left over and the engine is consistent (R45, R90, R99, R103). -/
def Rested (s : State) : Prop := Quiet s ∧ EngineSound s ∧ PowerSound s

theorem Rested.wired {s : State} (h : Rested s) : Wired s.engine.powered s := .of_rest h.1 h.2.1 h.2.2

theorem Wired.rested {b : Bool} {s : State} (h : Wired b s) (hs : s.Settled) (hr : s.raised = []) : Rested s := by
  refine ⟨⟨hr, hs.2, hs.1⟩, (engineSound_iff s).mpr ⟨h.idle, h.unpowered, h.waiting, h.routing⟩, ?_, h.startUp⟩
  have := h.supply
  rw [show s.wiring.owed = false from hs.2, Bool.or_false] at this
  exact this.symm

/-- The ports, the notices and the commands waiting outside do not matter, once nothing is left to tell. -/
theorem Rested.congr {s t : State} (h : Rested s) (hr : t.raised = []) (he : t.engine = s.engine) (hs : t.sources = s.sources)
    (hl : t.lamp = s.lamp) : Rested t := by
  have hset : t.Settled := h.1.settled.congr he hs
  exact (h.wired.same (State.wiring_congr he hl)).rested hset hr

theorem Wired.flushed {b : Bool} {s t : State} (h : Wired b s) (hs : s.Settled) (hr : t.raised = []) (he : t.engine = s.engine)
    (hc : t.sources = s.sources) (hl : t.lamp = s.lamp) : Rested t :=
  (h.same (State.wiring_congr he hl)).rested (hs.congr he hc) hr

/-- Every action ends between commands. -/
theorem Wired.finish {b : Bool} {s : State} (h : Wired b s) : Rested s.finish := by
  obtain ⟨⟨c, hw⟩, hs⟩ := h.settle
  exact hw.flushed hs rfl rfl rfl rfl

theorem Wired.answerPort {b : Bool} {s : State} (h : Wired b s) (p : Port) (tag code : Byte) (r : Reply) :
    Rested (s.answerPort p tag code r) := by
  obtain ⟨⟨c, hw⟩, hs⟩ := h.settle
  exact hw.flushed hs rfl rfl rfl rfl

/-! ## The power-down (R45, R53, R103) -/

theorem State.cutPower_wiring (s : State) : s.cutPower.wiring = { s.wiring with powered := false } := by
  unfold State.cutPower
  exact State.tellAspect_wiring _ _

theorem State.abortPending_wiring (s : State) : s.abortPending.wiring = { s.wiring with waiting := false } := by
  unfold State.abortPending
  split
  · rfl
  · rename_i hp
    rw [show false = s.wiring.waiting by simp [State.wiring, hp]]

/-- A switch in flight is aborted, and the unit ends with the engine IDLE (R27, R103). -/
theorem State.abortSwitch_wired {s : State} (hf : s.wiring.Fed false) (hi : s.wiring.state = .idle ↔ s.wiring.busy = false)
    (hp : s.wiring.busy = false → s.wiring.waiting = false) (hr : s.wiring.state ≠ .routing) : Wired false s.abortSwitch := by
  unfold State.abortSwitch
  split
  · rename_i hw
    exact ⟨hf, hi, fun _ => by simp [State.wiring, hw], hp, hr⟩
  · rename_i w hw
    let u := ((s.setEngine { s.engine with selected := w.target, inFlight := none }).notify
      (switchEnd w.target SwitchResult.aborted.code w.requester)).abortPending
    have hu : u.wiring = { s.wiring with busy := false, waiting := false } := State.abortPending_wiring _
    have hidle : Wired false ((u.setEngine { u.engine with state := .idle, owedRelock := false, switchCond := false }).setRecallNow none) := by
      have he : ((u.setEngine { u.engine with state := .idle, owedRelock := false, switchCond := false }).setRecallNow none).wiring =
          { u.wiring with state := .idle } := rfl
      unfold Wired
      rw [he, hu]
      exact Wiring.Fed.idled ⟨hf.power, hf.supply, hf.startUp⟩ rfl rfl rfl
    exact hidle.chainEnds

/-- The lamp at rest in OFF or FAULT, the power of a supplied scaler taken (R45, R53). -/
theorem Wired.darkens {b : Bool} {s : State} (h : Wired b s) (ho : s.engine.powerUpOwed = false) {l : LampState}
    (hl : l = .off ∨ l = .fault) : Wired false ((s.enterRest l).loseSupply s.scalerSupplied) := by
  have hsup : s.scalerSupplied = s.engine.powered := by
    have := h.supply
    rw [show s.wiring.owed = false from ho, Bool.or_false] at this
    exact this
  have hw : (s.enterRest l).wiring = { s.wiring with lamp := l, startUp := false } := rfl
  have hdark : Wiring.Fed false { s.wiring with powered := false, lamp := l, startUp := false } := by
    refine ⟨rfl, ?_, by simp⟩
    rw [show s.wiring.owed = false from ho]
    rcases hl with rfl | rfl <;> rfl
  unfold State.loseSupply
  split
  · have hc : (s.enterRest l).cutPower.wiring = { s.wiring with powered := false, lamp := l, startUp := false } := by
      rw [State.cutPower_wiring, hw]
    refine Wired.same (State.abortSwitch_wired (s := (s.enterRest l).cutPower) ?_ ?_ ?_ ?_) (State.watchBlank_wiring _)
    · rw [hc]; exact hdark
    · rw [hc]; exact h.idle
    · rw [hc]; exact h.waiting
    · rw [hc]; exact h.routing
  · rename_i hn
    have hp : s.wiring.powered = false := hsup.symm.trans (by simpa using hn)
    have hfed : Wiring.Fed false (s.enterRest l).wiring := by
      rw [hw]
      exact ⟨hp, hdark.supply.trans (congrArg (· || s.wiring.owed) hp.symm), hdark.startUp⟩
    exact ⟨hfed, h.idle, h.unpowered, h.waiting, h.routing⟩

theorem Wired.coolEnds {b : Bool} {s : State} (h : Wired b s) (ho : s.engine.powerUpOwed = false) : ∃ c, Wired c s.coolEnds := by
  have off : Wired false s.restInOff := (h.darkens ho (.inl rfl)).same (by simp [State.restInOff])
  have fault : Wired false s.restInFault := (h.darkens ho (.inr rfl)).same (by simp [State.restInFault])
  unfold State.coolEnds
  split
  · exact ⟨b, h⟩
  · split
    · exact ⟨false, fault⟩
    · split
      · split
        · exact ⟨b, Wired.strike (s := s.setLamp _) h⟩
        · exact ⟨false, off⟩
      · exact ⟨false, off⟩

/-! ## Commands formed inside the part, and the schedule (R6, R146 to R154) -/

theorem Wired.innerIntake {b : Bool} {s : State} (h : Wired b s) (r : Requester) (c : Cmd) {rest : State → State × Reply}
    (hr : Wired b (rest s).1) : Wired b (s.innerIntake r c rest).1 := by
  rw [State.innerIntake_eq]
  split
  · exact h
  · exact hr

theorem Wired.runLampOn {b : Bool} {s : State} (h : Wired b s) (r : Requester) : Wired b (s.runLampOn r).1 :=
  (h.same (s.touch_wiring r)).lampOn r

theorem Wired.runLampOff {b : Bool} {s : State} (h : Wired b s) (r : Requester) : Wired b (s.runLampOff r).1 :=
  Wired.lampOff (h.same ((State.lampOffEndsDeferral_wiring _ r).trans (s.touch_wiring r)))

theorem Wired.runLampLevel {b : Bool} {s : State} (h : Wired b s) (r : Requester) (l : Level) : Wired b (s.runLampLevel r l).1 :=
  h.same ((State.lampLevel_wiring _ l).trans (s.touch_wiring r))

theorem Wired.innerLampOff {b : Bool} {s : State} (h : Wired b s) (r : Requester) : Wired b (s.innerLampOff r).1 :=
  h.innerIntake _ _ (h.runLampOff r)

theorem Wired.innerFloor {b : Bool} {s : State} (h : Wired b s) (r : Requester) (c : Cmd) : Wired b (s.innerFloor r c).1 :=
  h.innerIntake _ _ (h.floorIntake r c)

/-- LOCAL's commands (R176). -/
theorem Wired.runLocal {b : Bool} {s : State} (h : Wired b s) (c : Cmd) : Wired b (s.runLocal c).1 := by
  unfold State.runLocal
  split
  · exact h.innerIntake _ _ (h.runLampOn _)
  · exact h.innerLampOff _
  · exact h.innerIntake _ _ (h.runLampLevel _ _)
  · exact h.innerFloor _ _

theorem Wired.fireDeferral {b : Bool} {s : State} (h : Wired b s) : Wired b s.fireDeferral :=
  (h.same (s.endDeferral_wiring 0)).innerLampOff _

theorem Wired.leaveEntry {b : Bool} {s : State} (h : Wired b s) (old new : Option Effective) : Wired b (s.leaveEntry old new) := by
  have gone : Wired b (if removesRecord (kindOf old) (kindOf new) then s.removeLockouts Lockout.ofSchedule else s) := by
    split
    · exact h.same (s.removeLockouts_wiring _)
    · exact h
  have deferred : ∀ (u : State) (e : EntryIdx), Wired b u → Wired b (u.startDeferral e) := fun u e hu => by
    unfold State.startDeferral
    dsimp only
    split
    · exact Wired.fireDeferral (s := State.notify _ _) hu
    · exact hu
  unfold State.leaveEntry
  dsimp only
  split
  · split
    · exact deferred _ _ gone
    · exact gone
  · exact gone
  · exact gone

theorem Wired.enterEntry {b : Bool} {s : State} (h : Wired b s) (e : Effective) (old : Option Effective) : Wired b (s.enterEntry e old) := by
  have hd : Wired b (s.endDeferral 2) := h.same (s.endDeferral_wiring 2)
  have booked : ∀ k, Wired b ((s.endDeferral 2).bookLockout e old k) := fun k => by
    unfold State.bookLockout
    split
    · exact hd
    · exact hd.placeLockout _
  have kind : Wired b ((s.endDeferral 2).bookKind e old) := by
    unfold State.bookKind
    split
    · exact hd
    · exact booked _
    · exact booked _
  have lit : Wired b (((s.endDeferral 2).bookKind e old).innerLampOn .schedule).1 := kind.innerIntake _ _ (kind.runLampOn _)
  unfold State.enterEntry
  dsimp only
  split
  · exact kind
  · unfold State.bookScene
    split
    · split
      · exact lit
      · exact lit.innerFloor _ _
    · exact lit

theorem Wired.evaluate {b : Bool} {s : State} (h : Wired b s) : Wired b s.evaluate := by
  have left : ∀ (x : Schedule) (n : Notice) (old new : Option Effective), Wired b (((s.setSchedule x).notify n).leaveEntry old new) :=
    fun x n old new => Wired.leaveEntry (s := (s.setSchedule x).notify n) h old new
  unfold State.evaluate
  dsimp only
  split
  · exact h
  · split
    · exact (left _ _ _ _).enterEntry _ _
    · exact left _ _ _ _

/-! ## Commands of a port -/

theorem Wired.changeEntry {b : Bool} {s : State} (h : Wired b s) (e : EntryIdx) (c : Entry) : Wired b (s.changeEntry e c) :=
  Wired.evaluate (s := (s.setSchedule { s.schedule with entries := s.schedule.entries.set e c }).queueRecord (.entry e))
    (h.same (State.queueRecord_wiring _ _))

theorem Wired.replaceLamp {b : Bool} {s : State} (h : Wired b s) (i : Vector Byte 8) :
    Wired b (s.replaceNew i) ∧ Wired b s.replaceOld := by
  have ended : ∀ (u : State) (m : ReplaceMode), (u.endReplacement m).wiring = u.wiring := fun u m => by
    unfold State.endReplacement
    rw [State.notify_wiring, State.checkpoint_wiring]
    rfl
  exact ⟨(Wired.leaveFault (s := s.setWear { s.wear with record := s.wear.record.renewed i, warnReported := false }) h).same
      ((ended _ _).trans (by simp)),
    (Wired.leaveFault (s := s.setWear { s.wear with record := s.wear.record.reinstated }) h).same ((ended _ _).trans (by simp))⟩

/-- The owner's action on any command that is no floor command. -/
theorem Wired.act {b : Bool} {s : State} (h : Wired b s) (p : Port) (c : Cmd) : Wired b (s.act p c).1 := by
  cases c
  case lampOn => exact h.runLampOn _
  case lampOff => exact h.runLampOff _
  case setLampLevel l => exact h.runLampLevel _ _
  case releaseFloor => exact h.releaseBy _
  case setLockout k e => exact h.setByHand _ _ _
  case setClock m w k => exact Wired.evaluate (s := s.setClock _) h
  case writeEntry e f | eraseEntry e | protectEntry e f => exact h.changeEntry _ _
  case replaceLamp m i =>
    cases m with
    | new => exact (h.replaceLamp i).1
    | reinstate => exact (h.replaceLamp i).2
  case selectInput | recallScene | setMute | clearMute | selectProfile | setKeystone | nudgeKeystone | holdFloor => exact h.ownerActs _ _
  case storeScene k => exact h.same (State.queueRecord_wiring (s.setScenes _) _)
  case setInputEnable n e r => exact h.same (State.queueRecord_wiring (s.setSource n _) _)
  case setGrace m => exact h.same (State.queueRecord_wiring (s.setSchedule _) _)
  case setIrRoom x => exact h.same (State.queueRecord_wiring (s.setConsole _) _)
  case writeAuthority r c => exact h.same (State.queueRecord_wiring (s.setAuthority _) _)
  case setRatedLife n => exact h.same ((State.testThresholds_wiring _).trans (State.queueRecord_wiring (s.setWear _) _))
  case openTrial | commitTrial | discardTrial | setSourceAspect | clearLockout | clearStoreFault | controllerReset =>
    exact h.same (by simp [State.act, done])
  all_goals exact h

theorem Wired.takeCommand {s : State} (h : Rested s) (c : Code) (p : Port) : Rested (takeCommand c p s) := by
  have accepted : ∀ (u : State) (x : Cmd), Wired s.engine.powered u → Wired s.engine.powered (u.accept p x).1 := fun u x hu => by
    unfold State.accept
    split
    · exact hu.floorIntake _ _
    · split
      · exact hu
      · exact hu.act _ _
  have framed : ∀ (u : State) (pl : List Byte), Wired s.engine.powered u → Wired s.engine.powered (u.intakeFrame p c pl).1 := fun u pl hu => by
    unfold State.intakeFrame
    (repeat' split)
    · exact hu
    · exact hu
    · exact hu
    · exact accepted _ _ hu
  unfold Machine.takeCommand
  split
  · split
    · exact (framed (s.popInbox p) _ h.wired).answerPort _ _ _ _
    · exact h
  all_goals exact h

end Sys2Proof.Machine
end

