-- ==== Sys2Proof/Proofs/EngineRows.lean ====
section
/-! SUPPORT. The engine's consistency through the rows of the console, the scaler and the resets, and so through every step
(R45, R90, R99, R103). -/

namespace Sys2Proof.Machine

/-! ## The console's rows -/

theorem Wired.takeKey {b : Bool} {s : State} (h : Wired b s) (k : Key) : ∃ c, Wired c (s.takeKey k) := by
  unfold State.takeKey
  split
  · exact ⟨b, h⟩
  · rename_i c _
    have ran : Wired b ((s.setRaised []).runLocal c).1 := Wired.runLocal (s := s.setRaised []) h c
    have told : ∀ l, Wired b (((s.setRaised []).runLocal c).1.setRaised l) := fun _ => ran
    exact (told _).settle.1

theorem Wired.sample {b : Bool} {s : State} (h : Wired b s) (v : Byte) : ∃ c, Wired c (s.sample v) := by
  have console : ∀ x, Wired b (s.setConsole x) := fun _ => h
  unfold State.sample
  dsimp only
  split
  · exact (console _).takeKey _
  · exact ⟨b, h⟩

theorem Wired.takeElement {b : Bool} {s : State} (h : Wired b s) (e : IrElement) : ∃ c, Wired c (s.takeElement e) := by
  have console : ∀ x, Wired b (s.setConsole x) := fun _ => h
  unfold State.takeElement State.takeFrame
  dsimp only
  split
  · split
    · split
      · exact (console _).takeKey _
      · exact ⟨b, console _⟩
    · exact ⟨b, console _⟩
  · exact ⟨b, console _⟩

theorem Wired.takeElements {b : Bool} {s : State} (h : Wired b s) (l : List IrElement) : ∃ c, Wired c (s.takeElements l) := by
  induction l generalizing b s with
  | nil => exact ⟨b, h⟩
  | cons e l ih =>
    obtain ⟨c, hc⟩ := h.takeElement e
    exact ih hc

/-! ## The scaler's rows -/

theorem Wired.sigRises {b : Bool} {s : State} (h : Wired b s) (n : InputIdx) : Wired b (s.sigRises n) := by
  have told : Wired b (((s.setSource n { s.source n with present := true }).notify (presenceNotice n true)).watchBlank) :=
    h.same (State.watchBlank_wiring _)
  unfold State.sigRises
  dsimp only
  split
  · rename_i hp
    obtain rfl : b = true := h.powered.symm.trans hp.2
    split
    · exact Wired.wantRelock (s := State.forget _ _) told
    · exact told.wantRelock
  · exact told

theorem State.sigFalls_wiring (s : State) (n : InputIdx) : (s.sigFalls n).wiring = s.wiring := by
  unfold State.sigFalls
  rw [State.watchBlank_wiring, State.tellAspect_wiring]
  rfl

theorem Wired.timingChanges {b : Bool} {s : State} (h : Wired b s) : Wired b s.timingChanges := by
  unfold State.timingChanges
  split
  · rename_i hp
    obtain rfl : b = true := h.powered.symm.trans hp
    refine Wired.wantRelock (h.same ?_)
    rw [State.watchBlank_wiring, State.tellAspect_wiring]
    rfl
  · exact h

theorem Wired.blankAnswered {b : Bool} {s : State} (h : Wired b s) (k : BlankKind) (n : Nat) (x : BlankRecord) :
    Wired b (s.blankAnswered k n x) := by
  unfold State.blankAnswered
  split
  · exact Wired.endMuting (h.same (State.compareBlank_wiring _))
  · exact h

theorem Wired.blankLost {b : Bool} {s : State} (h : Wired b s) (n : Nat) : Wired b (s.blankLost n) := by
  have lost : ∀ (r : BlankRequest), Wired b ((s.setEngine { s.engine with blankReq := none, blank := .unknown }).notify
      (noAnswer (blankKindCode r.kind) 0)) := fun _ => h
  unfold State.blankLost
  split
  · exact h
  · split
    · exact h
    · dsimp only
      split
      · exact (lost _).completeSwitch _
      · exact lost _

theorem Wired.lockAnswered {b : Bool} {s : State} (h : Wired b s) (t : Timing) : Wired b (s.lockAnswered t) := by
  unfold State.lockAnswered
  split
  · rename_i w _ hw
    split
    · exact h.staged hw (x := .applying) (p := s.wiring.waiting) (by decide) (by decide)
        ((State.watchBlank_wiring _).trans (State.enterApplying_wiring _ w))
    · exact h.lockFails
  all_goals exact h

theorem Wired.windowEnds {b : Bool} {s : State} (h : Wired b s) (n : Nat) : Wired b (s.windowEnds n) := by
  unfold State.windowEnds
  split
  · split
    · exact h.lockFails
    · exact h
  · exact h

theorem Wired.limitEnds {b : Bool} {s : State} (h : Wired b s) (n : Nat) : Wired b (s.limitEnds n) := by
  unfold State.limitEnds
  split
  · split
    · exact h.completeSwitch _
    · exact h
  · exact h

theorem Wired.tableAnswered {b : Bool} {s : State} (h : Wired b s) (n q : Nat) : Wired b (s.tableAnswered n q) := by
  have applied : ∀ x : Transfer, (s.tableApplied x).wiring = s.wiring := fun x => by
    unfold State.tableApplied
    dsimp only
    split <;> rfl
  unfold State.tableAnswered
  split
  · split
    · exact (h.same (applied _)).endApplying
    · exact h
  · exact h

theorem Wired.tableLate {b : Bool} {s : State} (h : Wired b s) (n : Nat) : Wired b (s.tableLate n) := by
  have lost : ∀ x : Transfer, Wired b (s.tableLost x) := fun _ => h
  unfold State.tableLate
  (repeat' split)
  · exact h
  · exact (lost _).completeSwitch _
  · exact lost _
  · exact h

/-! ## The resets (R46, R65, R90) -/

/-- A start begins in OFF, in FAULT or in the start-up COOLDOWN, without scaler power (R45, R65). -/
theorem Wired.startLamp {s : State} (h : Wired false s) (ho : s.engine.powerUpOwed = false) (hu : s.lamp.startUp = false) :
    Wired false s.startLamp := by
  have dark : ∀ (t : State) (l : LampState) (u : Bool), Wiring.supplies { s.wiring with lamp := l, startUp := u } = false →
      (u = true → l = .cooldown) → t.wiring = { s.wiring with lamp := l, startUp := u } → Wired false t := fun t l u hs hl ht => by
    unfold Wired
    rw [ht]
    refine ⟨⟨h.power, ?_, hl⟩, h.idle, h.unpowered, h.waiting, h.routing⟩
    rw [hs, show s.wiring.powered = false from h.power, show s.wiring.owed = false from ho]
    rfl
  have hw : s.wiring.startUp = false := hu
  rw [State.startLamp_level]
  dsimp only
  split
  · refine dark _ .cooldown true rfl (fun _ => rfl) ?_
    unfold State.startCooling State.bookCooldown
    rw [State.checkpoint_wiring]
    dsimp only
    split <;> rfl
  · split
    · exact dark _ .fault false rfl (by simp) (by rw [← hw]; rfl)
    · exact dark _ .off false rfl (by simp) (by rw [← hw]; rfl)

theorem State.startNotices_wiring (s : State) : s.startNotices.wiring = s.wiring := by
  have h : ∀ (l : List LockKind) (t : State), (l.foldl (fun t k =>
      match s.lockouts.find? fun l => l.kind == k with
      | some l => t.notify (inForceNotice k l.origin)
      | none => t) t).wiring = t.wiring := by
    intro l
    induction l with
    | nil => intro t; rfl
    | cons k l ih =>
      intro t
      rw [List.foldl_cons, ih]
      split <;> rfl
  exact h allKinds s

/-- A start ends between commands (R45, R65, R90). -/
theorem State.start_rested (s : State) (sig : Vector Bool 6) : Rested (s.start sig) := by
  have loaded : Wired false (s.load sig) := ⟨⟨rfl, rfl, nofun⟩, by simp [State.load, State.wiring, Engine.start], fun _ => rfl, fun _ => rfl, nofun⟩
  let u := (s.load sig).kick.startTable.startBand.startExpired.startNotices
  have hu : u.wiring = (s.load sig).wiring := by
    have expired : ∀ u : State, u.startExpired.wiring = u.wiring := fun u => by
      unfold State.startExpired
      split
      · exact State.addLampLock_wiring u .expired
      · rfl
    exact (State.startNotices_wiring _).trans ((expired _).trans (State.kick_wiring _))
  have lit : Wired false u.startLamp := Wired.startLamp (loaded.same hu) (congrArg Wiring.owed hu) (congrArg Wiring.startUp hu)
  have hot : Wired false u.startLamp.startHeat := by
    unfold State.startHeat
    split
    · exact lit.heat
    · exact lit
  exact hot.evaluate.finish

/-! ## Every row -/

/-- The end of a row whose action leaves the engine and the lamp alone. -/
theorem Rested.finish_of {s x : State} (h : Rested s) (hx : x.wiring = s.wiring) : Rested x.finish := (h.wired.same hx).finish

/-- A port's block replaced leaves the rest between commands. -/
theorem Rested.setPort {s : State} (h : Rested s) (p : Port) (x : PortBlock) : Rested (s.setPort p x) := h

/-- Every row answers a next state between commands. -/
theorem exec_rested (c : Instr) (s : State) (h : Rested s) : ∃ t, exec c s = .next t ∧ Rested t := by
  have hw := h.wired
  have ite : ∀ {p : Prop} [Decidable p] {a b : State}, Rested a → Rested b → Rested (if p then a else b) := by
    intro p _ a b ha hb
    split
    · exact ha
    · exact hb
  have ends : ∀ {x : State}, (∃ c, Wired c x) → Rested x.finish := fun ⟨_, hx⟩ => hx.finish
  cases c
  case frameReceive | frameGapTimeout | frameStopBitError | frameLenOver48 | outboundFrameSent => exact ⟨_, rfl, h⟩
  case lineReturnsToMark p => exact ⟨_, rfl, ite h h⟩
  case badFrameEntry p =>
    refine ⟨_, rfl, ?_⟩
    unfold takeBadFrame
    split
    · exact ite (Wired.answerPort (s := s.popInbox p) hw _ _ _ _) h
    all_goals exact h
  case unknownCommand p =>
    refine ⟨_, rfl, ?_⟩
    unfold takeUnknown
    split
    · exact ite (Wired.answerPort (s := s.popInbox p) hw _ _ _ _) h
    all_goals exact h
  case portReset p => exact ⟨_, rfl, (Wired.loseStanding (s := s.setPort p _) hw _).finish⟩
  case powerOnReset x => exact ⟨_, rfl, State.start_rested _ _⟩
  case resetN => exact ⟨_, rfl, State.start_rested _ _⟩
  case controllerResetBegin => exact ⟨_, rfl, ite (State.start_rested _ _) h⟩
  case lampSenseRise => exact ⟨_, rfl, ite h (Wired.senseRise (s := s.setSense true) hw).finish⟩
  case dropOut => exact ⟨_, rfl, ite (Wired.senseFall (s := s.setSense false) hw).finish h⟩
  case overheat => exact ⟨_, rfl, ite h (Wired.heat (s := s.setHot true) hw).finish⟩
  case thermHotDeassert => exact ⟨_, rfl, ite (h.finish_of (State.examineThermal_wiring (s.setHot false))) h⟩
  case strikeWindowExpiry n => exact ⟨_, rfl, ite hw.strikeFails.finish h⟩
  case retryPauseEnd n => exact ⟨_, rfl, ite hw.retryEnds.finish h⟩
  case warmupEnd n => exact ⟨_, rfl, ite hw.warmupEnds.finish h⟩
  case cooldownEnd n => exact ⟨_, rfl, ite (ends (hw.coolEnds h.1.2.1)) h⟩
  case litSecond => exact ⟨_, rfl, h.finish_of s.litSecond_wiring⟩
  case sigRise n => exact ⟨_, rfl, ite h (hw.sigRises n).finish⟩
  case sigFall n => exact ⟨_, rfl, ite (h.finish_of (s.sigFalls_wiring n)) h⟩
  case blanked m =>
    refine ⟨_, rfl, ?_⟩
    split
    · exact (hw.blankAnswered _ _ _).finish
    · exact h
  case unblanked m =>
    refine ⟨_, rfl, ?_⟩
    split
    · exact (hw.blankAnswered _ _ _).finish
    · exact h
  case locked m =>
    refine ⟨_, rfl, ?_⟩
    split
    · exact ite (hw.lockAnswered _).finish h
    · exact h
  case lockFailed m =>
    refine ⟨_, rfl, ?_⟩
    split
    · exact ite hw.lockFails.finish h
    · exact h
  case applied m =>
    refine ⟨_, rfl, ?_⟩
    split
    · exact (hw.tableAnswered _ _).finish
    · exact h
  case timingChanged m =>
    refine ⟨_, rfl, ?_⟩
    split
    · exact ite hw.timingChanges.finish h
    · exact h
  case lockWindowExpiry n => exact ⟨_, rfl, (hw.windowEnds n).finish⟩
  case overallLockLimitExpiry n => exact ⟨_, rfl, (hw.limitEnds n).finish⟩
  case blankRequestTimeout n => exact ⟨_, rfl, (hw.blankLost n).finish⟩
  case tableTimeout n => exact ⟨_, rfl, (hw.tableLate n).finish⟩
  case clockMinuteTick n =>
    refine ⟨_, rfl, ite ?_ h⟩
    unfold State.minuteTick
    split
    · exact (Wired.evaluate (s := s.setClock s.clock.tick) hw).finish
    · exact hw.finish
  case uptimeTick => exact ⟨_, rfl, h.finish_of (State.examineDeferral_wiring (s.setUptime _))⟩
  case deferralExpiry =>
    refine ⟨_, rfl, ?_⟩
    unfold State.expireDeferral
    split
    · split
      · exact hw.fireDeferral.finish
      · exact hw.finish
    · exact hw.finish
  case lockoutExpiry => exact ⟨_, rfl, h.finish_of s.expireLockouts_wiring⟩
  case storeWriteComplete n => exact ⟨_, rfl, ite (h.finish_of s.completeWrite_wiring) h⟩
  case storeWriteTimeout n => exact ⟨_, rfl, ite (h.finish_of s.failWrite_wiring) h⟩
  case keypadSample v => exact ⟨_, rfl, ends (hw.sample v)⟩
  case irFrame l | irFrameDiscard l => exact ⟨_, rfl, ends (hw.takeElements l)⟩
  case irIdleGap => exact ⟨_, rfl, ends (hw.takeElement _)⟩
  all_goals exact ⟨_, rfl, Wired.takeCommand h _ _⟩

end Sys2Proof.Machine

open Sys2Proof Sys2Proof.Machine

/-- Settles O8: every row ends its action with the engine consistent and nothing left over, so a step does. -/
theorem engineKept : Obligations.EngineKept := by
  unfold Obligations.EngineKept
  intro s t hq he hp hstep
  have h : Rested s := ⟨hq, he, hp⟩
  unfold step at hstep
  split at hstep
  · rename_i c rest _
    obtain ⟨t', ht, hs⟩ := exec_rested c (s.setPending rest) h
    rw [ht] at hstep
    cases hstep
    exact hs
  · cases hstep
    exact h
end

