-- ==== Sys2Proof/Proofs/PowerCommands.lean ====
section
/-! SUPPORT. The POWER commands of a port, from its row to its answer (R47, R54 to R56, R155). -/

namespace Sys2Proof.Machine

/-- A port's command that is no floor command and passes every step, from its row to its answer (R10). -/
theorem exec_acts {s : State} {p : Port} {c : Code} {tag : Byte} {pl : List Byte} {cmd : Cmd} {b : Bool}
    (h : Passes s p c tag pl) (hp : parseCmd c pl = some (cmd, b)) (ho : s.ownerRefusal cmd = none) (hf : s.isFloor cmd = false)
    (hl : s.lateRefusal (portRequester p) cmd = none) (hr : ((s.popInbox p).act p cmd).1.room = (s.popInbox p).room) :
    exec (rowOf c p) s = .next (((s.popInbox p).act p cmd).1.closed (s.told p tag c (((s.popInbox p).act p cmd).2.withClamp b))) := by
  rw [exec_rowOf, takeCommand_acts h hp ho hf hl]
  exact congrArg Host.Outcome.next (State.answer_closed tag c _ (State.ports_of_room hr))

/-- A port's command that its owner refuses at step 8 (R10, R15). -/
theorem exec_ownerRefuses {s : State} {p : Port} {c : Code} {tag : Byte} {pl : List Byte} {x : Cmd × Bool} {v : Verdict} (hq : Quiet s)
    (h : Passes s p c tag pl) (hp : parseCmd c pl = some x) (ho : s.ownerRefusal x.1 = some v) :
    exec (rowOf c p) s = .next (s.answered p tag c { verdict := v }) := by
  rw [exec_rowOf, takeCommand_refuse h (.inr ⟨x, hp, ho⟩)]
  exact congrArg Host.Outcome.next (State.popInbox_answer hq p _ _ _)

theorem State.ownerRefusal_lampOn (s : State) : s.ownerRefusal .lampOn = if s.replacing then some .wrongState else none := by
  unfold State.ownerRefusal State.valuesOk State.stateOk
  cases s.replacing <;> rfl

/-- What LAMP_ON answers in each lamp state is what is told of it there (R54). -/
theorem Lights.answered {u t : State} {tell : Verdict → List Notice → Ports} {r : Requester}
    (h : Lights u t (fun _ l => tell (u.lampOn r).2 l) r) : Lights u t tell r := by
  obtain ⟨off, burning, warmup, cooldown⟩ := h
  rw [State.lampOn_verdict] at off burning warmup cooldown
  refine ⟨fun hl => ?_, fun hl => ?_, fun hl => ?_, fun hl => ?_⟩
  · rw [hl] at off
    exact off rfl
  · have := burning hl
    rcases hl with hl | hl | hl <;> rw [hl] at this <;> exact this
  · rw [hl] at warmup
    exact warmup rfl
  · rw [hl] at cooldown
    exact cooldown rfl

/-- What LAMP_OFF answers in each lamp state is what is told of it there (R55). -/
theorem Darkens.answered {u t : State} {tell : Verdict → List Notice → Ports}
    (h : Darkens u t (fun _ l => tell u.lampOff.2 l)) : Darkens u t tell := by
  obtain ⟨dark, warmup, cooldown, burning⟩ := h
  rw [State.lampOff_verdict] at dark warmup cooldown burning
  have notWarm : ∀ {x : LampState}, u.lamp.state = x → x ≠ .warmup → u.lamp.state ≠ .warmup := fun e hx => e ▸ hx
  refine ⟨fun hl => ?_, fun hl => ?_, fun hl => ?_, fun hl => ?_⟩
  · have hw : u.lamp.state ≠ .warmup := by rcases hl with hl | hl <;> exact notWarm hl (by decide)
    rw [if_neg hw] at dark
    exact dark hl
  · rw [if_pos hl] at warmup
    exact warmup hl
  · rw [if_neg (notWarm hl (by decide))] at cooldown
    exact cooldown hl
  · have hw : u.lamp.state ≠ .warmup := by rcases hl with hl | hl | hl <;> exact notWarm hl (by decide)
    rw [if_neg hw] at burning
    exact burning hl

/-- A port's LAMP_OFF ends the deferral, whatever its activity has made of it (R55, R153, R155). -/
theorem State.Telling.portDeferral {u v : State} (hv : v.Telling u []) (p : Port) :
    ((v.touch (portRequester p)).lampOffEndsDeferral (portRequester p)).Telling (u.setDeferral none)
      (if u.schedule.deferral = none then [] else [{ cls := .schedule, kind := 3, subject := 0, result := 1, extra := 0 }]) := by
  have hport : portRequester p ≠ .schedule := by cases p <;> decide
  have hx := (hv.touch (portRequester p)).endDeferral 1
  have htouch : (u.touch (portRequester p)).setDeferral none = u.setDeferral none := by rw [State.touch_eq]; rfl
  have hnone : (u.touch (portRequester p)).schedule.deferral = none ↔ u.schedule.deferral = none := by
    rw [State.touch_eq]
    dsimp only
    split
    · exact Option.map_eq_none_iff
    · exact Iff.rfl
  rw [htouch, List.nil_append] at hx
  simp only [hnone] at hx
  unfold State.lampOffEndsDeferral
  rw [if_neg hport]
  exact hx

/-- SET_LAMP_LEVEL, as told. -/
theorem State.lampLevel_levels {u v : State} (hv : v.Telling u []) (hs : u.Settled) (l : Level) (tell : Verdict → Bool → List Notice → Ports) :
    Levels u ((v.lampLevel l).1.closed (tell (v.lampLevel l).2.1 (v.lampLevel l).2.2)) (fun x b => tell x b []) l := by
  have ha : v.allowedLevel l = if worn u.wear.band then .eco else l := by
    rw [hv.read (·.allowedLevel l) fun _ _ => rfl]
    unfold State.allowedLevel
    rw [spent_eq_worn]
  have hl : v.lamp = u.lamp := hv.read State.lamp fun _ _ => rfl
  have hne : ∀ a : Level, (a != l) = Decidable.decide (a ≠ l) := fun a => by rw [Bool.eq_iff_iff]; simp
  have given : ∀ (x : Lamp) (tell : List Notice → Ports), (v.setLamp x).closed tell = { u with ports := tell [], lamp := x } := fun x tell =>
    (hv.map (·.setLamp x) (fun _ _ => rfl) rfl).closed (hs.congr rfl rfl) tell
  unfold State.lampLevel
  dsimp only
  rw [hl, ha, hne]
  refine ⟨fun hw => ?_, fun hw => ?_⟩
  · rw [if_pos hw]
    exact given _ _
  · rw [if_neg hw]
    exact given _ _

theorem parse_setLampLevel (l : Level) : parseCmd .setLampLevel [byte (levelCode l)] = some (plain (.setLampLevel l)) := by
  cases l <;> rfl

end Sys2Proof.Machine

open Sys2Proof Sys2Proof.Machine

/-- Settles O25: refused while a replacement is pending, and otherwise acted on by the lamp with its answer. -/
theorem lampOnActs : Obligations.LampOnActs := by
  unfold Obligations.LampOnActs
  intro s p tag hq h
  have hown := s.ownerRefusal_lampOn
  refine ⟨fun hr => exec_ownerRefuses (c := .lampOn) hq h rfl (hown.trans (if_pos hr)), fun hr => ?_⟩
  refine ⟨_, exec_acts (c := .lampOn) h rfl (hown.trans (if_neg (by simp [hr]))) rfl rfl (State.runLampOn_room _ _), Lights.answered ?_⟩
  have hv := (hq.popInbox p).touch (portRequester p)
  have hlamp : ((s.popInbox p).touch (portRequester p)).lamp = (s.touch (portRequester p)).lamp := hv.read State.lamp fun _ _ => rfl
  have hanswer : (((s.popInbox p).touch (portRequester p)).lampOn (portRequester p)).2 =
      ((s.touch (portRequester p)).lampOn (portRequester p)).2 := by
    rw [State.lampOn_verdict, State.lampOn_verdict, hlamp]
  rw [Reply.withClamp_false, ← hanswer]
  exact State.lampOn_lights hv (hq.settled.touch _) (portRequester p) (s.told p tag .lampOn { verdict := _ })

/-- Settles O26: held in WARMUP, taken at once elsewhere, with the reduction in the answer. -/
theorem lampLevelSet : Obligations.LampLevelSet := by
  unfold Obligations.LampLevelSet
  intro s p tag l hq h
  refine ⟨_, exec_acts (c := .setLampLevel) h (parse_setLampLevel l) rfl rfl rfl (State.runLampLevel_room _ _ _), ?_⟩
  rw [Reply.withClamp_false]
  exact State.lampLevel_levels ((hq.popInbox p).touch _) (hq.settled.touch _) l
    fun v b => s.told p tag .setLampLevel { verdict := v, clamped := b }

/-- Settles O27: the deferral ended, and then the lamp-off with its answer. -/
theorem lampOffActs : Obligations.LampOffActs := by
  unfold Obligations.LampOffActs
  intro s p tag hq h
  refine ⟨_, exec_acts (c := .lampOff) h rfl rfl rfl rfl (State.runLampOff_room _ _), Darkens.answered (u := s.setDeferral none) ?_⟩
  have hv := (hq.popInbox p).portDeferral p
  have hlamp := hv.read State.lamp fun _ _ => rfl
  have hanswer : (((s.popInbox p).touch (portRequester p)).lampOffEndsDeferral (portRequester p)).lampOff.2 =
      (s.setDeferral none).lampOff.2 := by
    rw [State.lampOff_verdict, State.lampOff_verdict, hlamp]
  rw [Reply.withClamp_false, ← hanswer]
  exact State.lampOff_darkens hv (hq.settled.congr rfl rfl) (s.told p tag .lampOff { verdict := _ })
end

