-- ==== Sys2Proof/Proofs/SavedTelling.lean ====
section
/-! SUPPORT. A state that is another with notices still to tell and a save begun; an entry to COOLDOWN, a strike and the removal of one
lockout kind in those words (R47, R52, R69, R71 to R77, R160, R168, R185). -/

namespace Sys2Proof.Machine

/-! ## What `OnlySaved` lets through -/

/-- Whatever does not look at the store's part of the state is the same behind a save. -/
theorem OnlySaved.read {u t : State} (h : OnlySaved u t) {α : Type} (f : State → α)
    (hf : ∀ q o w n, f { u with store := q, saveOwed := o, resetWait := w, wear := { u.wear with replacement := n } } = f u) : f t = f u :=
  (congrArg f h.1).trans (hf _ _ _ _)

/-- A change that touches nothing of the store is made on both sides. -/
theorem OnlySaved.map {u t : State} (h : OnlySaved u t) (f : State → State)
    (hf : ∀ q o w n, f { u with store := q, saveOwed := o, resetWait := w, wear := { u.wear with replacement := n } } =
      { f u with store := q, saveOwed := o, resetWait := w, wear := { (f u).wear with replacement := n } })
    (hw : SameWaits u (f u)) : OnlySaved (f u) (f t) := by
  have ht : f t = _ := (congrArg f h.1).trans (hf _ _ _ _)
  obtain ⟨_, hr, hw', ho⟩ := h
  obtain ⟨h1, h2, h3⟩ := hw
  rw [ht]
  refine ⟨rfl, ?_, ?_, ?_⟩
  · rw [h1]
    exact hr
  · rw [h2]
    exact hw'
  · rw [h3]
    exact ho

/-! ## The end of an action that the engine is not part of -/

/-- No power-up is owed, and an UNMUTING that is over has no switch to end: the end of the action changes no more (R3, R99, R135). -/
def State.Still (u : State) : Prop := u.engine.powerUpOwed = false ∧ (UnmutingOver u → u.engine.inFlight = none)

theorem State.Settled.still {u : State} (h : u.Settled) : u.Still := ⟨h.2, fun hu => absurd hu h.1⟩

theorem State.Still.congr {s t : State} (h : s.Still) (he : t.engine = s.engine) (hs : t.sources = s.sources) : t.Still := by
  unfold State.Still UnmutingOver State.composition State.routedSource State.source at h ⊢
  rw [he, hs]
  exact h

theorem State.closed_of_still {x : State} (h : x.Still) (tell : List Notice → Ports) :
    x.closed tell = { x with ports := tell x.raised, raised := [] } := by
  obtain ⟨ho, hu⟩ := h
  have hsame : x.endUnmuting = x := by
    unfold State.endUnmuting
    split
    · unfold State.completeSwitch
      rw [hu ‹_›]
    · rfl
  have hsettle : x.settle = x := by
    unfold State.settle State.takePowerUp
    rw [hsame, if_neg (by simp [ho])]
  unfold State.closed
  rw [hsettle]

theorem State.Telling.closed_of_still {v u : State} {pre : List Notice} (h : v.Telling u pre) (hs : u.Still) (tell : List Notice → Ports) :
    v.closed tell = { u with ports := tell pre } := by
  obtain ⟨hr, ps, rfl⟩ := h
  have hv : State.Still { u with ports := ps, raised := pre } := hs
  rw [State.closed_of_still hv, ← hr]

/-! ## A state with notices to tell, and a save begun -/

/-- v is u with the notices `pre` raised so far in the action and a save begun, and u has none to tell. -/
def State.TellingSaved (v u : State) (pre : List Notice) : Prop := u.raised = [] ∧ ∃ ps, OnlySaved { u with ports := ps, raised := pre } v

theorem State.Telling.saved {v u : State} {pre : List Notice} (h : v.Telling u pre) : v.TellingSaved u pre := by
  obtain ⟨hr, ps, rfl⟩ := h
  exact ⟨hr, ps, .refl _⟩

theorem State.TellingSaved.read {v u : State} {pre : List Notice} (h : v.TellingSaved u pre) {α : Type} (f : State → α)
    (hf : ∀ ps l q o w n, f { u with
      ports := ps, raised := l, store := q, saveOwed := o, resetWait := w, wear := { u.wear with replacement := n } } = f u) :
    f v = f u := by
  obtain ⟨_, ps, h⟩ := h
  exact (h.read f fun q o w n =>
    (hf ps pre q o w n).trans (hf ps pre u.store u.saveOwed u.resetWait u.wear.replacement).symm).trans
      (hf ps pre u.store u.saveOwed u.resetWait u.wear.replacement)

theorem State.TellingSaved.map {v u : State} {pre : List Notice} (h : v.TellingSaved u pre) (f : State → State)
    (hf : ∀ ps l q o w n, f { u with
        ports := ps, raised := l, store := q, saveOwed := o, resetWait := w, wear := { u.wear with replacement := n } } =
      { f u with ports := ps, raised := l, store := q, saveOwed := o, resetWait := w, wear := { (f u).wear with replacement := n } })
    (hr : (f u).raised = u.raised) (hw : SameWaits u (f u)) (hs : (f u).store = u.store) : (f v).TellingSaved (f u) pre := by
  obtain ⟨hn, ps, h⟩ := h
  have base : f { u with ports := ps, raised := pre } = { f u with ports := ps, raised := pre } := by
    obtain ⟨h1, h2, h3⟩ := hw
    refine (hf ps pre u.store u.saveOwed u.resetWait u.wear.replacement).trans ?_
    rw [← h1, ← h2, ← h3, ← hs]
  refine ⟨hr.trans hn, ps, ?_⟩
  have := h.map f (fun q o w n => by rw [base]; exact hf ps pre q o w n) (by rw [base]; exact hw)
  rw [base] at this
  exact this

theorem State.TellingSaved.notify {v u : State} {pre : List Notice} (h : v.TellingSaved u pre) (n : Notice) :
    (v.notify n).TellingSaved u (pre ++ [n]) := by
  obtain ⟨hr, ps, h⟩ := h
  exact ⟨hr, ps, h.map (·.notify n) (fun _ _ _ _ => rfl) ⟨rfl, rfl, rfl⟩⟩

theorem State.TellingSaved.settled {v u : State} {pre : List Notice} (h : v.TellingSaved u pre) (hs : u.Settled) : v.Settled :=
  hs.congr (h.read State.engine fun _ _ _ _ _ _ => rfl) (h.read State.sources fun _ _ _ _ _ _ => rfl)

theorem State.TellingSaved.still {v u : State} {pre : List Notice} (h : v.TellingSaved u pre) (hs : u.Still) : v.Still :=
  hs.congr (h.read State.engine fun _ _ _ _ _ _ => rfl) (h.read State.sources fun _ _ _ _ _ _ => rfl)

/-- The end of such an action tells the notices. -/
theorem State.TellingSaved.closed_eq {v u : State} {pre : List Notice} (h : v.TellingSaved u pre) (hs : u.Still)
    (tell : List Notice → Ports) : v.closed tell = { v with ports := tell pre, raised := [] } := by
  rw [State.closed_of_still (h.still hs)]
  obtain ⟨_, ps, h⟩ := h
  rw [show v.raised = pre from h.read State.raised fun _ _ _ _ => rfl]

/-- Told, such a state is u with other ports and the save begun. -/
theorem State.TellingSaved.closed {v u : State} {pre : List Notice} (h : v.TellingSaved u pre) (hs : u.Still)
    (tell : List Notice → Ports) : OnlySaved { u with ports := tell pre } (v.closed tell) := by
  rw [h.closed_eq hs]
  obtain ⟨hr, ps, h⟩ := h
  have hc := h.close (tell pre) []
  rw [← hr] at hc ⊢
  exact hc

/-! ## Lockouts of one kind (R160) -/

/-- s with its lockouts changed, and the notices of that. -/
def State.relocked (s : State) (ls : List Lockout) (ns : List Notice) : State := { s with lockouts := ls, raised := s.raised ++ ns }

theorem State.Telling.relocked {v u : State} {pre : List Notice} (h : v.Telling u pre) (ls : List Lockout) (ns : List Notice) :
    (v.relocked ls ns).Telling (u.setLockouts ls) (pre ++ ns) := by
  obtain ⟨hr, ps, rfl⟩ := h
  exact ⟨hr, ps, rfl⟩

theorem State.TellingSaved.relocked {v u : State} {pre : List Notice} (h : v.TellingSaved u pre) (ls : List Lockout) (ns : List Notice) :
    (v.relocked ls ns).TellingSaved (u.setLockouts ls) (pre ++ ns) := by
  obtain ⟨hr, ps, h⟩ := h
  exact ⟨hr, ps, h.map (·.relocked ls ns) (fun _ _ _ _ => rfl) ⟨rfl, rfl, rfl⟩⟩

/-- Removing all the records of one kind, and no others, raises OUT_OF_FORCE for it alone, where one was present. -/
theorem lostNotices_of_kind {k : LockKind} {ls : List Lockout} {gone : Lockout → Bool} (h : ∀ x ∈ ls, gone x = true ↔ x.kind = k) :
    lostNotices ls (ls.filter fun x => !gone x) = if ls.any (fun x => x.kind == k) then [outOfForceNotice k] else [] := by
  have hleft : ∀ j, ((ls.filter fun x => !gone x).any fun x => x.kind == j) = (ls.any (fun x => x.kind == j) && !(j == k)) := by
    intro j
    rw [Bool.eq_iff_iff]
    simp only [List.any_eq_true, List.mem_filter, Bool.and_eq_true, Bool.not_eq_true', beq_iff_eq, beq_eq_false_iff_ne]
    constructor
    · rintro ⟨x, ⟨hx, hg⟩, rfl⟩
      exact ⟨⟨x, hx, rfl⟩, fun hk => by simp [(h x hx).mpr hk] at hg⟩
    · rintro ⟨⟨x, hx, rfl⟩, hk⟩
      exact ⟨x, ⟨hx, by simpa using fun hg => hk ((h x hx).mp hg)⟩, rfl⟩
  have hlost : (fun j => ls.any (fun x => x.kind == j) && !(ls.filter fun x => !gone x).any fun x => x.kind == j) =
      fun j => j == k && ls.any fun x => x.kind == k := by
    funext j
    rw [hleft]
    cases hj : j == k with
    | true => rw [eq_of_beq hj]; simp
    | false => simp
  unfold lostNotices
  rw [hlost]
  cases ls.any (fun x => x.kind == k) <;> cases k <;> rfl

/-! ## An entry to COOLDOWN (R52) -/

/-- u cooled for some seconds, its checkpoint taken. -/
def State.cooledFor (u : State) (n : Nat) (f : Bool) : State := { u with lamp := u.lamp.cooled n f, wear := u.wear.cooled }

theorem State.cooledFor_settled {u : State} (h : u.Settled) (n : Nat) (f : Bool) : (u.cooledFor n f).Settled := h.congr rfl rfl

/-- The entry to COOLDOWN up to its checkpoint (R52, R68). -/
theorem State.Telling.cool {u v : State} {pre : List Notice} (hv : v.Telling u pre) (n : Nat) (f : Bool) :
    (v.enterCooldown n f).TellingSaved (u.cooledFor n f) (pre ++ [lampNotice 5 u.lamp.attempts])
      ∧ Imaged (v.enterCooldown n f) u.wear.cooled.record := by
  obtain ⟨hr, ps, rfl⟩ := hv
  let c : State := { u with ports := ps, lamp := u.lamp.cooled n f, raised := pre ++ [lampNotice 5 u.lamp.attempts],
                            wear := { u.wear with running := false, record := { u.wear.record with litMarker := false } } }
  have hc : State.enterCooldown { u with ports := ps, raised := pre } n f = c.checkpoint := rfl
  rw [hc]
  exact ⟨⟨hr, ps, c.checkpoint_onlySaved⟩, c.checkpoint_imaged⟩

/-! ## A strike (R47, R69, R71 to R76) -/

/-- u once a strike has begun and its wear state has followed, the scaler's power-up owed where it had no power (R47, R69, R71 to R74,
R135). -/
def State.lighted (u : State) : State :=
  { (u.struck u.strikeAttempt).rebanded with
    engine := { u.engine with powerUpOwed := !u.scalerSupplied || u.engine.powerUpOwed } }

/-- The notices of a strike: STRIKING, and those of a new wear state. -/
def State.strikeNotices (u : State) : List Notice :=
  lampNotice 1 u.strikeAttempt :: (u.struck u.strikeAttempt).bandNotices

theorem State.Telling.strike {u v : State} {pre : List Notice} (hv : v.Telling u pre) :
    v.strike.TellingSaved u.lighted (pre ++ u.strikeNotices)
      ∧ ((u.struck u.strikeAttempt).newlyExpired = true → LockoutsSaving v.strike)
      ∧ Imaged v.strike u.wear.record.struck := by
  obtain ⟨hr, ps, rfl⟩ := hv
  let b : State := State.sparked { u with ports := ps, raised := pre }
  have hcheck : OnlySaved (b.setWear { b.wear with sinceCheckpoint := 0 }) b.checkpoint := b.checkpoint_onlySaved
  have hbusy := b.checkpoint_busy_after
  obtain ⟨hre, hlock⟩ := hcheck.testThresholds (.inl hbusy)
  rw [State.strike_eq]
  refine ⟨⟨hr, ps, ?_⟩, hlock, State.testThresholds_imaged hbusy b.checkpoint_imaged⟩
  have hpre : pre ++ u.strikeNotices = (pre ++ [lampNotice 1 u.strikeAttempt]) ++ (u.struck u.strikeAttempt).bandNotices := by
    rw [List.append_assoc]
    rfl
  rw [hpre]
  exact hre

/-- A strike with the scaler supplied already owes no power-up. -/
theorem State.lighted_supplied {u : State} (h : u.scalerSupplied = true) : u.lighted = (u.struck u.strikeAttempt).rebanded := by
  unfold State.lighted
  rw [h]
  rfl

/-- A strike with the scaler supplied already, as told. -/
theorem State.Telling.strike_closed {u v : State} {pre : List Notice} (hv : v.Telling u pre) (hs : u.Settled) (hp : u.scalerSupplied = true)
    (tell : List Notice → Ports) :
    Rebanded { u.struck u.strikeAttempt with ports := tell (pre ++ u.strikeNotices) } (v.strike.closed tell)
      ∧ Imaged (v.strike.closed tell) u.wear.record.struck := by
  obtain ⟨hsaved, hlock, himage⟩ := hv.strike
  rw [State.lighted_supplied hp] at hsaved
  have hset : ((u.struck u.strikeAttempt).rebanded).Settled := hs.congr rfl rfl
  have hclosed := hsaved.closed hset.still tell
  rw [hsaved.closed_eq hset.still] at hclosed ⊢
  exact ⟨⟨hclosed, hlock⟩, himage⟩

/-- A strike that the scaler's power follows, with attempt count 1. -/
theorem State.Telling.strike_struck {u v : State} {pre : List Notice} (hv : v.Telling u pre) (hp : u.scalerSupplied = false)
    (ha : u.strikeAttempt = 1) : Struck u v.strike ∧ v.strike.raised = pre ++ lampNotice 1 1 :: (u.struck 1).bandNotices := by
  obtain ⟨⟨_, ps, hsaved⟩, hlock, himage⟩ := hv.strike
  unfold State.strikeNotices State.lighted at hsaved
  rw [ha] at hsaved hlock
  rw [hp] at hsaved
  have hraised : v.strike.raised = _ := hsaved.read State.raised fun _ _ _ _ => rfl
  have hports : v.strike.ports = _ := hsaved.read State.ports fun _ _ _ _ => rfl
  have hengine : v.strike.engine = _ := hsaved.read State.engine fun _ _ _ _ => rfl
  refine ⟨⟨?_, hlock, himage, hengine⟩, hraised⟩
  rw [hraised, hports, hengine]
  exact hsaved

end Sys2Proof.Machine
end

