-- ==== Sys2Proof/Proofs/LampEvents.lean ====
section
/-! SUPPORT. The lamp's lines and timers: the ignition, the drop-out and the overheat (R47 to R52, R58 to R60, R167). -/

namespace Sys2Proof.Machine

/-! ## From a row to what it leaves -/

/-- The end of a row whose action leaves u with notices to tell. -/
theorem Quiet.finishes {s v u : State} {pre : List Notice} (hq : Quiet s) (h : v.Telling u pre) (he : u.engine = s.engine)
    (hs : u.sources = s.sources) (hp : v.ports = s.ports) : v.finish = { u with ports := s.ports.offerAll pre } :=
  h.finish (hq.settled.congr he hs) hp

/-- The end of a row whose action leaves u with notices to tell and the wear slot's write begun. -/
theorem Quiet.finishesSaved {s v u : State} {pre : List Notice} {r : WearRecord} (hq : Quiet s) (h : v.TellingSaved u pre)
    (hi : Imaged v r) (he : u.engine = s.engine) (hs : u.sources = s.sources) (hp : v.ports = s.ports) :
    OnlySaved { u with ports := s.ports.offerAll pre } v.finish ∧ Imaged v.finish r := by
  have hset : u.Still := hq.settled.still.congr he hs
  rw [State.finish_closed hp]
  refine ⟨h.closed hset _, ?_⟩
  rw [h.closed_eq hset]
  exact hi

/-! ## The ignition (R48 to R51) -/

theorem State.strikeFails_of_striking {s : State} (h : s.lamp.state = .striking) : s.strikeFails =
    if s.lamp.attempts < Config.maxAttempts then s.enterLamp .retryPause (some Config.retrySeconds)
    else s.enterCooldown Config.coolSeconds true := if_neg (not_not_intro h)

theorem State.retryEnds_of_retryPause {s : State} (h : s.lamp.state = .retryPause) : s.retryEnds =
    if s.inForce .lampLock then s.enterCooldown Config.coolSeconds false else s.strike := if_neg (not_not_intro h)

/-- s LIT, its held level taken and held-off forgotten (R51). -/
def State.warmed (s : State) : State :=
  let level : Level := if s.wear.band = .endOfLife ∨ s.wear.band = .expired then .eco else s.lamp.heldLevel.getD s.lamp.level
  { s with lamp := { s.lamp with state := .lit, timer := none, level := level, heldLevel := none, heldOff := false } }

theorem State.allowedLevel_eq (s : State) (l : Level) :
    s.allowedLevel l = if s.wear.band = .endOfLife ∨ s.wear.band = .expired then .eco else l := by
  unfold State.allowedLevel
  cases s.wear.band <;> rfl

theorem State.warmupEnds_of_warmup {s : State} (h : s.lamp.state = .warmup) : s.warmupEnds =
    if s.lamp.heldOff then (s.warmed.notify (lampNotice 4 s.lamp.attempts)).enterCooldown Config.coolSeconds false
    else s.warmed.notify (lampNotice 4 s.lamp.attempts) := by
  refine (if_neg (not_not_intro h)).trans ?_
  rw [State.allowedLevel_eq]
  rfl

theorem State.Telling.warmed {v u : State} {pre : List Notice} (hv : v.Telling u pre) : v.warmed.Telling u.warmed pre :=
  hv.map State.warmed (fun _ _ => rfl) rfl

/-- The rise of LAMP_SENSE in STRIKING (R48). -/
theorem State.senseRise_telling {v u : State} {pre : List Notice} (hv : v.Telling u pre) (h : u.lamp.state = .striking) :
    (v.setSense true).senseRise.Telling
      { u with lines := { u.lines with lampSense := true },
               lamp := { u.lamp with state := .warmup, timer := some 40, run := u.lamp.run + 1 },
               wear := { u.wear with running := true } }
      (pre ++ [lampNotice 3 u.lamp.attempts]) := by
  obtain ⟨hr, ps, rfl⟩ := hv
  exact ⟨hr, ps, if_pos h⟩

/-- The end of the strike window at attempts 1 and 2 (R49). -/
theorem State.strikeFails_pauses {v u : State} {pre : List Notice} (hv : v.Telling u pre) (h : u.lamp.state = .striking)
    (ha : u.lamp.attempts < 3) :
    v.strikeFails.Telling { u with lamp := { u.lamp with state := .retryPause, timer := some 20, run := u.lamp.run + 1 } }
      (pre ++ [lampNotice 2 u.lamp.attempts]) := by
  obtain ⟨hr, ps, rfl⟩ := hv
  exact ⟨hr, ps, (State.strikeFails_of_striking (s := { u with ports := ps, raised := pre }) h).trans (if_pos ha)⟩

/-- An earlier run of the lamp timer ends nothing (log 6). -/
theorem State.lampTimer_stale {s : State} {run : Nat} (h : s.lamp.run ≠ run) :
    exec (.strikeWindowExpiry run) s = .next s ∧ exec (.retryPauseEnd run) s = .next s ∧ exec (.warmupEnd run) s = .next s
      ∧ exec (.cooldownEnd run) s = .next s :=
  ⟨congrArg Host.Outcome.next (if_neg h), congrArg Host.Outcome.next (if_neg h), congrArg Host.Outcome.next (if_neg h),
    congrArg Host.Outcome.next (if_neg h)⟩

/-! ## The drop-out (R58) -/

theorem State.senseFall_burning {s : State} (h : s.lamp.state = .warmup ∨ s.lamp.state = .lit) :
    s.senseFall = (s.bookDropOut.enterCooldown Config.coolSeconds false).decideRestrike s.lamp.heldOff := by
  unfold State.senseFall
  rcases h with h | h <;> rw [h]

theorem State.senseFall_else {s : State} (h1 : s.lamp.state ≠ .warmup) (h2 : s.lamp.state ≠ .lit) : s.senseFall = s := by
  unfold State.senseFall
  cases h : s.lamp.state with
  | warmup => exact absurd h h1
  | lit => exact absurd h h2
  | off | striking | retryPause | cooldown | fault => rfl

/-- Held-off leaves no restrike (R58, log 40). -/
theorem State.decideRestrike_held (s : State) {held : Bool} (h : held = true) : s.decideRestrike held = s := if_pos h

theorem State.decideRestrike_used {s : State} {held : Bool} (h : held = false) (hu : s.lamp.restrikeUsed = true) :
    s.decideRestrike held = s.notify dropOutFinal := by
  unfold State.decideRestrike
  rw [if_neg (by simp [h]), if_pos hu]

/-- s with the one restrike used (R58). -/
def State.restrikeSpent (s : State) : State := s.setLamp { s.lamp with restrikeUsed := true }

/-- s with the lamp's own pending-on (R58). -/
def State.restrikeAsked (s : State) : State := s.setLamp { s.lamp with pendingOn := some .lamp }

theorem State.decideRestrike_locked {s : State} {held : Bool} (h : held = false) (hu : s.lamp.restrikeUsed = false)
    (hk : s.inForce .serviceLock = true) : s.decideRestrike held = s.restrikeSpent.notify (pendingDropped .lamp) := by
  unfold State.decideRestrike
  rw [if_neg (by simp [h]), if_neg (by simp [hu]), if_pos hk]
  rfl

theorem State.decideRestrike_asks {s : State} {held : Bool} (h : held = false) (hu : s.lamp.restrikeUsed = false)
    (hk : s.inForce .serviceLock = false) : s.decideRestrike held = s.restrikeSpent.restrikeAsked := by
  unfold State.decideRestrike
  rw [if_neg (by simp [h]), if_neg (by simp [hu]), if_neg (by simp [hk])]
  rfl

theorem State.TellingSaved.restrikeSpent {v u : State} {pre : List Notice} (hv : v.TellingSaved u pre) :
    v.restrikeSpent.TellingSaved u.restrikeSpent pre :=
  hv.map State.restrikeSpent (fun _ _ _ _ _ _ => rfl) rfl ⟨rfl, rfl, rfl⟩ rfl

theorem State.TellingSaved.restrikeAsked {v u : State} {pre : List Notice} (hv : v.TellingSaved u pre) :
    v.restrikeAsked.TellingSaved u.restrikeAsked pre :=
  hv.map State.restrikeAsked (fun _ _ _ _ _ _ => rfl) rfl ⟨rfl, rfl, rfl⟩ rfl

/-! ## The overheat (R59, R60, R167) -/

/-- The set once an overheat has added the THERMAL record (R167). -/
def State.heatLocks (s : State) : List Lockout :=
  if s.thermalPresent then s.lockouts
  else insertLockout { kind := .thermalLock, origin := .thermal, reason := none, setAt := s.uptime, expiry := none } s.lockouts

/-- Its notice (R160). -/
def State.heatNotices (s : State) : List Notice := if s.thermalPresent then [] else [inForceNotice .thermalLock .thermal]

theorem State.addThermal_eq {s : State} (h : s.thermalPresent = s.inForce .thermalLock) :
    s.addThermal = s.relocked s.heatLocks s.heatNotices := by
  unfold State.addThermal State.relocked State.heatLocks State.heatNotices State.addLockout
  cases hp : s.thermalPresent with
  | true => rw [if_pos rfl, if_pos rfl, if_pos rfl, List.append_nil]
  | false =>
    have hin : s.inForce .thermalLock = false := h.symm.trans hp
    simp only [Bool.false_eq_true, if_false, hin]
    rfl

theorem State.Telling.addThermal {v u : State} {pre : List Notice} (hv : v.Telling u pre) (h : u.thermalPresent = u.inForce .thermalLock) :
    v.addThermal.Telling (u.setLockouts u.heatLocks) (pre ++ u.heatNotices) := by
  have hv' : v.thermalPresent = v.inForce .thermalLock :=
    (hv.read State.thermalPresent fun _ _ => rfl).trans (h.trans (hv.read (·.inForce .thermalLock) fun _ _ => rfl).symm)
  rw [State.addThermal_eq hv', hv.read State.heatLocks fun _ _ => rfl, hv.read State.heatNotices fun _ _ => rfl]
  exact hv.relocked _ _

theorem State.TellingSaved.addThermal {v u : State} {pre : List Notice} (hv : v.TellingSaved u pre)
    (h : u.thermalPresent = u.inForce .thermalLock) : v.addThermal.TellingSaved (u.setLockouts u.heatLocks) (pre ++ u.heatNotices) := by
  have hv' : v.thermalPresent = v.inForce .thermalLock := (hv.read State.thermalPresent fun _ _ _ _ _ _ => rfl).trans
    (h.trans (hv.read (·.inForce .thermalLock) fun _ _ _ _ _ _ => rfl).symm)
  rw [State.addThermal_eq hv', hv.read State.heatLocks fun _ _ _ _ _ _ => rfl, hv.read State.heatNotices fun _ _ _ _ _ _ => rfl]
  exact hv.relocked _ _

theorem State.heatLamp_burning {s : State}
    (h : s.lamp.state = .striking ∨ s.lamp.state = .retryPause ∨ s.lamp.state = .warmup ∨ s.lamp.state = .lit) :
    s.heatLamp = s.enterCooldown Config.hotSeconds false := by
  unfold State.heatLamp
  rcases h with h | h | h | h <;> rw [h]

theorem State.heatLamp_dark {s : State} (h : s.lamp.state = .off ∨ s.lamp.state = .fault) : s.heatLamp = s := by
  unfold State.heatLamp
  rcases h with h | h <;> rw [h]

/-- The record of origin THERMAL is the one of kind THERMAL_LOCK (R159, R167). -/
abbrev ThermalMarked (ls : List Lockout) : Prop := ∀ x ∈ ls, x.origin = .thermal ↔ x.kind = .thermalLock

theorem State.thermalPresent_eq {s : State} (h : ThermalMarked s.lockouts) : s.thermalPresent = s.inForce .thermalLock := by
  rw [Bool.eq_iff_iff]
  unfold State.thermalPresent State.inForce
  simp only [List.any_eq_true, beq_iff_eq]
  exact exists_congr fun x => and_congr_right (h x)

/-- The set once the THERMAL record has been looked at outside COOLDOWN: it goes with the line deasserted (R60). -/
def State.coldLocks (s : State) : List Lockout :=
  if s.lines.thermHot || !s.thermalPresent then s.lockouts else s.lockouts.filter fun x => x.origin != .thermal

/-- Its notice (R160). -/
def State.coldNotices (s : State) : List Notice :=
  if s.lines.thermHot || !s.thermalPresent then [] else [outOfForceNotice .thermalLock]

theorem State.examineThermal_eq {s : State} (hl : s.lamp.state ≠ .cooldown) (ht : ThermalMarked s.lockouts) :
    s.examineThermal = s.relocked s.coldLocks s.coldNotices := by
  have hlost := lostNotices_of_kind (k := .thermalLock) (gone := fun x => x.origin == .thermal) (ls := s.lockouts) fun x hx => by
    rw [beq_iff_eq]
    exact ht x hx
  have hpres := State.thermalPresent_eq ht
  unfold State.examineThermal State.relocked State.coldLocks State.coldNotices
  by_cases hx : s.lines.thermHot = true ∨ (!s.thermalPresent) = true
  · rw [if_pos (by tauto), if_pos (by simpa using hx), if_pos (by simpa using hx), List.append_nil]
  · rw [if_neg (by tauto), if_neg (by simpa using hx), if_neg (by simpa using hx), State.removeLockouts_eq, hlost]
    have hin : s.lockouts.any (fun x => x.kind == .thermalLock) = true := hpres.symm.trans (by simpa using (not_or.mp hx).2)
    rw [if_pos hin]
    rfl

theorem State.Telling.examineThermal {v u : State} {pre : List Notice} (hv : v.Telling u pre) (hl : u.lamp.state ≠ .cooldown)
    (ht : ThermalMarked u.lockouts) : v.examineThermal.Telling (u.setLockouts u.coldLocks) (pre ++ u.coldNotices) := by
  have hl' : v.lamp.state ≠ .cooldown := by rw [hv.read State.lamp fun _ _ => rfl]; exact hl
  have ht' : ThermalMarked v.lockouts := by rw [hv.read State.lockouts fun _ _ => rfl]; exact ht
  rw [State.examineThermal_eq hl' ht', hv.read State.coldLocks fun _ _ => rfl, hv.read State.coldNotices fun _ _ => rfl]
  exact hv.relocked _ _

theorem State.TellingSaved.examineThermal {v u : State} {pre : List Notice} (hv : v.TellingSaved u pre) (hl : u.lamp.state ≠ .cooldown)
    (ht : ThermalMarked u.lockouts) : v.examineThermal.TellingSaved (u.setLockouts u.coldLocks) (pre ++ u.coldNotices) := by
  have hl' : v.lamp.state ≠ .cooldown := by rw [hv.read State.lamp fun _ _ _ _ _ _ => rfl]; exact hl
  have ht' : ThermalMarked v.lockouts := by rw [hv.read State.lockouts fun _ _ _ _ _ _ => rfl]; exact ht
  rw [State.examineThermal_eq hl' ht', hv.read State.coldLocks fun _ _ _ _ _ _ => rfl, hv.read State.coldNotices fun _ _ _ _ _ _ => rfl]
  exact hv.relocked _ _

/-- With the line deasserted no THERMAL record is left. -/
theorem State.coldLocks_deasserted {s : State} (hh : s.lines.thermHot = false) :
    s.coldLocks = s.lockouts.filter fun x => x.origin != .thermal := by
  unfold State.coldLocks
  cases hp : s.thermalPresent with
  | true => rw [hh]; rfl
  | false =>
    rw [hh]
    refine (List.filter_eq_self.mpr fun x hx => bne_iff_ne.mpr fun ho => ?_).symm
    have : s.thermalPresent = true := List.any_eq_true.mpr ⟨x, hx, by rw [ho]; rfl⟩
    exact absurd (hp.symm.trans this) (by decide)

theorem State.coldNotices_deasserted {s : State} (hh : s.lines.thermHot = false) (ht : ThermalMarked s.lockouts) :
    s.coldNotices = if s.inForce .thermalLock then [outOfForceNotice .thermalLock] else [] := by
  unfold State.coldNotices
  rw [← State.thermalPresent_eq ht, hh]
  cases s.thermalPresent <;> rfl

end Sys2Proof.Machine

open Sys2Proof Sys2Proof.Machine

/-- Settles O48: each event by the lamp state it meets. -/
theorem ignitionEvents : Obligations.IgnitionEvents := by
  unfold Obligations.IgnitionEvents
  intro s run hq
  have hv := hq.telling
  refine ⟨fun hs => ⟨fun hl => ?_, fun hl => ?_⟩, fun hr => ?_, fun hr hl => ⟨fun ha => ?_, fun ha => ?_⟩,
    fun hr hl => ⟨fun hk => ?_, fun hk => ?_⟩, fun hr hl => ⟨fun hh => ?_, fun hh => ?_⟩⟩
  · have hrise : (s.setSense true).senseRise.Telling _ [lampNotice 3 s.lamp.attempts] := State.senseRise_telling hv hl
    have hports : (s.setSense true).senseRise.ports = (s.setSense true).ports := State.ports_of_room (State.senseRise_room _)
    exact congrArg Host.Outcome.next ((if_neg (by simp [hs])).trans (hq.finishes hrise rfl rfl hports))
  · have hrise : (s.setSense true).senseRise = s.setSense true := if_neg hl
    refine congrArg Host.Outcome.next ((if_neg (by simp [hs])).trans ?_)
    rw [hrise]
    exact State.finish_of_quiet hq
  · obtain ⟨h1, h2, h3, _⟩ := State.lampTimer_stale hr
    exact ⟨h1, h2, h3⟩
  · refine congrArg Host.Outcome.next ((if_pos hr).trans ?_)
    exact hq.finishes (State.strikeFails_pauses hv hl ha) rfl rfl (State.ports_of_room s.strikeFails_room)
  · obtain ⟨hc, hi⟩ := hv.cool Config.coolSeconds true
    have hx : s.strikeFails = s.enterCooldown Config.coolSeconds true :=
      (State.strikeFails_of_striking hl).trans (if_neg (by rw [ha]; decide))
    rw [ha, ← hx] at hc
    rw [← hx] at hi
    exact ⟨_, congrArg Host.Outcome.next (if_pos hr), hq.finishesSaved hc hi rfl rfl (State.ports_of_room s.strikeFails_room)⟩
  · obtain ⟨hc, hi⟩ := hv.cool Config.coolSeconds false
    have hx : s.retryEnds = s.enterCooldown Config.coolSeconds false := (State.retryEnds_of_retryPause hl).trans (if_pos hk)
    rw [← hx] at hc hi
    exact ⟨_, congrArg Host.Outcome.next (if_pos hr), hq.finishesSaved hc hi rfl rfl (State.ports_of_room s.retryEnds_room)⟩
  · have hn : s.strikeAttempt = s.lamp.attempts + 1 := if_pos hl
    have hsup : s.scalerSupplied = true := by unfold State.scalerSupplied; rw [hl]
    have hx : s.retryEnds = s.strike := (State.retryEnds_of_retryPause hl).trans (if_neg (by simp [hk]))
    have hstrike := hv.strike_closed hq.settled hsup s.ports.offerAll
    unfold State.strikeNotices at hstrike
    rw [hn, ← hx, ← State.finish_closed (State.ports_of_room s.retryEnds_room)] at hstrike
    exact ⟨_, congrArg Host.Outcome.next (if_pos hr), hstrike⟩
  · have hx : s.warmupEnds.Telling s.warmed [lampNotice 4 s.lamp.attempts] := by
      rw [State.warmupEnds_of_warmup hl, if_neg (by simp [hh])]
      exact hv.warmed.notify _
    refine congrArg Host.Outcome.next ((if_pos hr).trans ?_)
    refine (hq.finishes hx rfl rfl (State.ports_of_room s.warmupEnds_room)).trans ?_
    unfold State.warmed
    rw [hh]
  · obtain ⟨hc, hi⟩ := (hv.warmed.notify (lampNotice 4 s.lamp.attempts)).cool Config.coolSeconds false
    have hx := (State.warmupEnds_of_warmup hl).trans (if_pos hh)
    rw [← hx] at hc hi
    exact ⟨_, congrArg Host.Outcome.next (if_pos hr), hq.finishesSaved hc hi rfl rfl (State.ports_of_room s.warmupEnds_room)⟩

/-- Settles O50: the drop-out booked and the lamp cooled, and then the decision on the restrike. -/
theorem dropOutActs : Obligations.DropOutActs := by
  unfold Obligations.DropOutActs
  intro s hq hs
  have hrow : exec .dropOut s = .next (s.setSense false).senseFall.finish := congrArg Host.Outcome.next (if_pos hs)
  have hports : (s.setSense false).senseFall.ports = (s.setSense false).ports := State.ports_of_room (State.senseFall_room _)
  rw [hrow]
  refine ⟨fun h1 h2 => ?_, fun hl => ?_⟩
  · rw [State.senseFall_else (s := s.setSense false) h1 h2]
    exact congrArg Host.Outcome.next (State.finish_of_quiet hq)
  have hv : (s.setSense false).bookDropOut.Telling (s.setSense false).bookDropOut [] :=
    hq.telling.map (fun x => (x.setSense false).bookDropOut) (fun _ _ => rfl) rfl
  obtain ⟨hc, hi⟩ := hv.cool Config.coolSeconds false
  have hused := hc.read (·.lamp.restrikeUsed) fun _ _ _ _ _ _ => rfl
  have hservice := hc.read (·.inForce .serviceLock) fun _ _ _ _ _ _ => rfl
  have hfall : (s.setSense false).senseFall =
      ((s.setSense false).bookDropOut.enterCooldown Config.coolSeconds false).decideRestrike s.lamp.heldOff := State.senseFall_burning hl
  rw [hfall] at hports ⊢
  refine ⟨fun hh => ⟨_, rfl, ?_⟩, fun hh hu => ⟨_, rfl, ?_⟩, fun hh hu hk => ⟨_, rfl, ?_⟩, fun hh hu hk => ⟨_, rfl, ?_⟩⟩
  · rw [State.decideRestrike_held _ hh] at hports ⊢
    exact hq.finishesSaved hc hi rfl rfl hports
  · rw [State.decideRestrike_used hh (hused.trans hu)] at hports ⊢
    exact hq.finishesSaved (hc.notify _) hi rfl rfl hports
  · rw [State.decideRestrike_locked hh (hused.trans hu) (hservice.trans hk)] at hports ⊢
    exact hq.finishesSaved (hc.restrikeSpent.notify _) hi rfl rfl hports
  · rw [State.decideRestrike_asks hh (hused.trans hu) (hservice.trans hk)] at hports ⊢
    exact hq.finishesSaved (hc.restrikeSpent.restrikeAsked) hi rfl rfl hports

/-- Settles O51: the lamp's part by its state and the record by its presence; on the deassertion, the record by the lamp's state. -/
theorem heatActs : Obligations.HeatActs := by
  unfold Obligations.HeatActs
  intro s hq
  have hv : (s.setHot true).Telling (s.setHot true) [] := hq.telling.map (·.setHot true) (fun _ _ => rfl) rfl
  refine ⟨fun hh ht => ?_, fun hh => ⟨fun hl => ?_, fun hl ht => ?_⟩⟩
  · have hrow : exec .overheat s = .next (s.setHot true).heat.finish := congrArg Host.Outcome.next (if_neg (by simp [hh]))
    have hports : (s.setHot true).heat.ports = (s.setHot true).ports := State.ports_of_room (State.heat_room _)
    rw [hrow]
    unfold State.heat at hports ⊢
    refine ⟨fun hl => ?_, fun hl => ?_, fun hl => ⟨_, rfl, ?_⟩⟩
    · rw [State.heatLamp_dark (s := s.setHot true) hl] at hports ⊢
      exact congrArg Host.Outcome.next (hq.finishes (hv.addThermal ht) rfl rfl hports)
    · rw [State.heatLamp_cooldown (s := s.setHot true) hl] at hports ⊢
      have hx := hv.map (fun x => x.setLamp { s.lamp with timer := some 180, run := s.lamp.run + 1, pendingOn := none })
        (fun _ _ => rfl) rfl
      exact congrArg Host.Outcome.next (hq.finishes (hx.addThermal ht) rfl rfl hports)
    · obtain ⟨hc, hi⟩ := hv.cool Config.hotSeconds false
      rw [State.heatLamp_burning (s := s.setHot true) hl] at hports ⊢
      refine hq.finishesSaved (hc.addThermal ht) ?_ rfl rfl hports
      unfold Imaged
      rw [State.addThermal_store]
      exact hi
  · have hrow : exec .thermHotDeassert s = .next (s.setHot false).examineThermal.finish := congrArg Host.Outcome.next (if_pos hh)
    have hx : (s.setHot false).examineThermal = s.setHot false := if_pos (.inr (.inl hl))
    rw [hrow, hx]
    exact congrArg Host.Outcome.next (State.finish_of_quiet hq)
  · have hrow : exec .thermHotDeassert s = .next (s.setHot false).examineThermal.finish := congrArg Host.Outcome.next (if_pos hh)
    have hports : (s.setHot false).examineThermal.ports = (s.setHot false).ports := State.ports_of_room (State.examineThermal_room _)
    have hx : (s.setHot false).Telling (s.setHot false) [] := hq.telling.map (·.setHot false) (fun _ _ => rfl) rfl
    have hcold := hx.examineThermal hl ht
    rw [State.coldLocks_deasserted rfl, State.coldNotices_deasserted (s := s.setHot false) rfl ht] at hcold
    rw [hrow]
    exact congrArg Host.Outcome.next (hq.finishes hcold rfl rfl hports)
end

