-- ==== Sys2Proof/Proofs/LampReplacement.lean ====
section
/-! SUPPORT. The replacement of the lamp: the lamp out of FAULT, the LAMP record removed, the wear state of a new record, and the record
queued with the replacement pending (R63, R78 to R80, R166, R168). -/

namespace Sys2Proof.Machine

/-! ## The LAMP record removed (R166) -/

/-- A checkpoint goes before the queue, and leaves a record that is being saved so (R77, R185). -/
theorem State.checkpoint_saving {s : State} {r : RecordId} (h : Saving s r) : Saving s.checkpoint r := by
  by_cases hb : s.store.inFlight.isSome ∨ s.store.fault = true
  · rw [State.checkpoint_busy hb]
    cases r <;> exact h
  · obtain ⟨hi, hf⟩ := not_or.mp hb
    have hidle : s.store.inFlight = none := by simpa using hi
    rw [State.checkpoint_idle hidle (by simpa using hf)]
    rcases h with h | h
    · exact .inl h
    · exact absurd (hidle.symm.trans h) nofun

theorem State.checkpoint_lockoutsSaving {s : State} (h : LockoutsSaving s) : LockoutsSaving s.checkpoint := by
  rcases h with h | h
  · exact .inl (State.checkpoint_saving h)
  · refine .inr ?_
    by_cases hb : s.store.inFlight.isSome ∨ s.store.fault = true
    · rw [State.checkpoint_busy hb]
      exact h
    · obtain ⟨hi, hf⟩ := not_or.mp hb
      rw [State.checkpoint_idle (by simpa using hi) (by simpa using hf)]
      exact h

/-- Removing the LAMP records that `which` picks, where those are the records of kind LAMP_LOCK (R160, R166, R168). -/
theorem State.Telling.removeLampLock {v u : State} {pre : List Notice} (hv : v.Telling u pre) {which gone : Lockout → Bool}
    (hgone : ∀ x, (x.origin == .lamp && which x) = gone x) (h : ∀ x ∈ u.lockouts, gone x = true ↔ x.kind = .lampLock) :
    (v.removeLampLock which).TellingSaved (u.setLockouts (u.lockouts.filter fun x => !gone x))
        (pre ++ if u.inForce .lampLock then [outOfForceNotice .lampLock] else [])
      ∧ (u.lockouts.any gone = true → LockoutsSaving (v.removeLampLock which)) := by
  have hgone : (fun x => x.origin == .lamp && which x) = gone := funext hgone
  have hin : u.inForce .lampLock = u.lockouts.any gone := by
    rw [Bool.eq_iff_iff]
    unfold State.inForce
    simp only [List.any_eq_true, beq_iff_eq]
    exact exists_congr fun x => and_congr_right fun hx => (h x hx).symm
  have hl : v.lockouts = u.lockouts := hv.read State.lockouts fun _ _ => rfl
  unfold State.removeLampLock
  rw [hgone, hl, hin]
  cases ha : u.lockouts.any gone with
  | false =>
    have hkeep : (u.lockouts.filter fun x => !gone x) = u.lockouts := by
      refine List.filter_eq_self.mpr fun x hx => ?_
      have := List.any_eq_false.mp ha x hx
      simpa using this
    rw [hkeep, if_neg (by decide), if_neg (by decide), List.append_nil]
    exact ⟨hv.saved, nofun⟩
  | true =>
    have hlost := lostNotices_of_kind h
    rw [show u.lockouts.any (fun x => x.kind == .lampLock) = true from hin.trans ha] at hlost
    have hremoved := hv.remove gone
    rw [hlost] at hremoved
    rw [if_pos rfl]
    refine ⟨?_, fun _ => State.saveLockouts_saving _⟩
    obtain ⟨hr, ps, hx⟩ := hremoved
    rw [hx]
    exact ⟨hr, ps, (OnlySaved.refl _).saveLockouts (.inr ⟨rfl, rfl, rfl⟩)⟩

/-! ## The lamp out of FAULT (R63) -/

/-- The lamp once a replacement is accepted. -/
def Lamp.replaced (l : Lamp) : Lamp := if l.state = .fault then { l with state := .off, timer := none } else l

theorem State.Telling.leaveFault {v u : State} {pre : List Notice} (hv : v.Telling u pre) :
    v.leaveFault.Telling (u.setLamp u.lamp.replaced)
      (pre ++ if u.lamp.state = .fault then [lampNotice 0 u.lamp.attempts] else []) := by
  have hl : v.lamp = u.lamp := hv.read State.lamp fun _ _ => rfl
  unfold State.leaveFault Lamp.replaced
  rw [hl]
  by_cases h : u.lamp.state = .fault
  · rw [if_pos h, if_pos h, if_pos h]
    obtain ⟨hr, ps, rfl⟩ := hv
    exact ⟨hr, ps, rfl⟩
  · rw [if_neg h, if_neg h, if_neg h, List.append_nil]
    exact hv

/-! ## The wear state of a new lamp (R71 to R74) -/

/-- The test of the thresholds on a record with no wear. -/
theorem State.testThresholds_new {s : State} (h : s.wear.record.wu = 0) : s.testThresholds =
    { s with wear := { s.wear with band := .good },
             raised := s.raised ++ if s.wear.band = .good then [] else [wearStateNotice .good] } := by
  have hband : bandOfRatio s.ratio = .good := by
    unfold State.ratio wearRatio
    rw [h, Nat.mul_zero, Nat.zero_div]
    rfl
  have hnew : s.newlyExpired = false := by simp [State.newlyExpired, hband]
  have heco : s.ecoForced = false := by simp [State.ecoForced, hband, worn]
  rw [State.testThresholds_eq, hnew, if_neg (by decide)]
  unfold State.rebandedRaised State.rebanded State.bandNotices
  simp only [hband, hnew, heco]
  by_cases hb : s.wear.band = .good
  · simp [hb]
  · simp [hb, Ne.symm hb]
    rfl

theorem State.TellingSaved.testThresholds_new {v u : State} {pre : List Notice} (hv : v.TellingSaved u pre) (h : u.wear.record.wu = 0) :
    v.testThresholds.TellingSaved (u.setWear { u.wear with band := .good })
        (pre ++ if u.wear.band = .good then [] else [wearStateNotice .good])
      ∧ (LockoutsSaving v → LockoutsSaving v.testThresholds) := by
  have hwu : v.wear.record.wu = u.wear.record.wu := hv.read (·.wear.record.wu) fun _ _ _ _ _ _ => rfl
  have hband : v.wear.band = u.wear.band := hv.read (·.wear.band) fun _ _ _ _ _ _ => rfl
  rw [State.testThresholds_new (hwu.trans h), hband]
  obtain ⟨hr, ps, hv⟩ := hv
  exact ⟨⟨hr, ps, hv.map (fun x => { x with
      wear := { x.wear with band := .good },
      raised := x.raised ++ if u.wear.band = .good then [] else [wearStateNotice .good] }) (fun _ _ _ _ => rfl) ⟨rfl, rfl, rfl⟩⟩, id⟩

/-! ## The end of a replacement (R80) -/

/-- The record goes to the wear slot with the replacement pending, and REPLACED is the last notice (R78 to R80). -/
theorem State.TellingSaved.endReplacement {v u : State} {pre : List Notice} (hv : v.TellingSaved u pre) (hs : u.Settled)
    (hw : u.resetWait = none) (m : ReplaceMode) (tell : List Notice → Ports) :
    let t := (v.endReplacement m).closed tell
    t = { u with ports := tell (pre ++ [replacedNotice m]), store := t.store, saveOwed := t.saveOwed,
                 wear := { u.wear with sinceCheckpoint := 0, replacement := t.wear.replacement } }
      ∧ t.replacing = true ∧ Imaged t u.wear.record ∧ (LockoutsSaving v → LockoutsSaving t) := by
  let c : State := v.setWear { v.wear with replacement := .toBegin }
  obtain ⟨he, hwait, hreset, _⟩ := c.checkpoint_onlySaved
  have himage : Imaged c.checkpoint v.wear.record := c.checkpoint_imaged
  have hrec : v.wear.record = u.wear.record := hv.read (·.wear.record) fun _ _ _ _ _ _ => rfl
  have hset : (v.endReplacement m).Settled := (hv.settled hs).congr
    (c.checkpoint_engine : c.checkpoint.engine = _) (c.checkpoint_sources : c.checkpoint.sources = _)
  have hwv : v.resetWait = none := by
    obtain ⟨_, ps, _, _, h, _⟩ := hv
    rcases h with h | ⟨h, _⟩
    · exact h.trans hw
    · exact absurd (hw.symm.trans h) nofun
  have hwc : c.checkpoint.resetWait = none := by
    rcases hreset with h | ⟨h, _⟩
    · exact h.trans hwv
    · exact absurd (hwv.symm.trans h) nofun
  have hreplacing : c.checkpoint.replacing = true := by
    unfold State.replacing
    rcases hwait with h | ⟨_, h⟩ <;> rw [h] <;> rfl
  have hraised : c.checkpoint.raised = v.raised := c.checkpoint_onlySaved.read State.raised fun _ _ _ _ => rfl
  have hpre : v.raised = pre := by
    obtain ⟨_, ps, h⟩ := hv
    exact h.read State.raised fun _ _ _ _ => rfl
  have hclosed : (v.endReplacement m).closed tell = { c.checkpoint with ports := tell (pre ++ [replacedNotice m]), raised := [] } := by
    rw [State.closed_of_settled hset, ← hpre, ← hraised]
    rfl
  dsimp only
  rw [hclosed]
  refine ⟨?_, hreplacing, ?_, fun h => ?_⟩
  · obtain ⟨hr, ps, hv, _⟩ := hv
    generalize c.checkpoint = x at he hwc
    have hx : ({ x with ports := tell (pre ++ [replacedNotice m]), raised := [] } : State) =
        { v with ports := tell (pre ++ [replacedNotice m]), raised := [], store := x.store, saveOwed := x.saveOwed, resetWait := none,
                 wear := { v.wear with sinceCheckpoint := 0, replacement := x.wear.replacement } } := by
      rw [← hwc, he]
      rfl
    rw [hx, hv, ← hr, ← hw]
  · rw [← hrec]
    exact himage
  · exact State.checkpoint_lockoutsSaving (s := c) h

/-! ## The command -/

theorem parse_replaceLamp (m : ReplaceMode) (i : Vector Byte 8) :
    parseCmd .replaceLamp ((match m with | .new => 0 | .reinstate => 1) :: i.toList) = some (plain (.replaceLamp m i)) := by
  have hid : ∀ b, identityOf (b :: i.toList) = i := by
    intro b
    obtain ⟨⟨l⟩, hl⟩ := i
    match l, hl with
    | [_, _, _, _, _, _, _, _], _ => rfl
  cases m with
  | new => exact congrArg (fun i => some (plain (.replaceLamp .new i))) (hid 0)
  | reinstate => exact congrArg (fun i => some (plain (.replaceLamp .reinstate i))) (hid 1)

/-- The owner lets a replacement be made of a dark lamp with none pending, but for REINSTATE under an EXPIRED record (R63, R78, R79). -/
theorem State.ownerRefusal_replaceLamp {s : State} (hl : s.lamp.state = .off ∨ s.lamp.state = .fault) (hr : s.replacing = false)
    (m : ReplaceMode) (i : Vector Byte 8) :
    s.ownerRefusal (.replaceLamp m i) = if m = .reinstate ∧ s.expiredLocked = true then some .wrongState else none := by
  have hdark : s.lampDark = true := by
    unfold State.lampDark
    rcases hl with h | h <;> rw [h] <;> rfl
  unfold State.ownerRefusal State.valuesOk State.stateOk
  cases m <;> cases s.expiredLocked <;> simp [hdark, hr]

theorem State.lateRefusal_replaceLamp {s : State} (hf : s.store.fault = false) (r : Requester) (m : ReplaceMode) (i : Vector Byte 8) :
    s.lateRefusal r (.replaceLamp m i) = none := by
  unfold State.lateRefusal State.storeRefuses
  simp [State.storeNeed, hf, State.setIsFull]

/-- Without an EXPIRED record, the LAMP records are those of reason IGNITION (R166, R79). -/
theorem LockoutsSound.ignition_iff {s : State} (h : LockoutsSound s) (he : s.expiredLocked = false) {x : Lockout} (hx : x ∈ s.lockouts) :
    (x.origin == .lamp && x.reason == some .ignition) = true ↔ x.kind = .lampLock := by
  obtain ⟨_, _, _, hall⟩ := h
  obtain ⟨horigin, _, hreason, _⟩ := hall x hx
  constructor
  · intro hb
    simp only [Bool.and_eq_true, beq_iff_eq] at hb
    exact horigin.mp hb.1
  · intro hk
    have hne : x.reason ≠ some .expired := by
      intro hr
      have := List.any_eq_false.mp he x hx
      simp [horigin.mpr hk, hr] at this
    have hsome := hreason.mpr hk
    cases hr : x.reason with
    | none => exact absurd hr hsome
    | some r =>
      cases r with
      | ignition => simp [horigin.mpr hk]
      | expired => exact absurd hr hne

theorem State.any_of_lampRecord {s : State} (h : s.lampRecord ≠ none) : s.lockouts.any (fun x => x.origin == .lamp) = true := by
  obtain ⟨x, hx⟩ := Option.ne_none_iff_exists'.mp h
  exact List.any_eq_true.mpr ⟨x, List.mem_of_find?_eq_some hx, List.find?_some (p := fun x : Lockout => x.origin == .lamp) hx⟩

end Sys2Proof.Machine

open Sys2Proof Sys2Proof.Machine

/-- Settles O45: each mode from the record it writes, by the lamp, the LAMP record, the wear state and the wear slot. -/
theorem lampReplaced : Obligations.LampReplaced := by
  unfold Obligations.LampReplaced
  intro s p tag i hq hs hl hr hf
  have hv := hq.popInbox p
  have hown := State.ownerRefusal_replaceLamp hl hr
  have hlate := State.lateRefusal_replaceLamp hf (portRequester p)
  refine ⟨fun h => ?_, fun h => ⟨fun he => ?_, fun he => ?_⟩⟩
  · refine ⟨_, exec_acts (c := .replaceLamp) h (parse_replaceLamp .new i) ((hown .new i).trans (if_neg (by simp))) rfl (hlate _ _)
      (State.replaceNew_room _ _), ?_⟩
    obtain ⟨_, _, hw, _⟩ := h
    let f (x : State) : State := x.setWear { x.wear with record := x.wear.record.renewed i, warnReported := false }
    have h1 : (f (s.popInbox p)).Telling (f s) [] := hv.map f (fun _ _ => rfl) rfl
    obtain ⟨_, _, _, hall⟩ := hs
    have hkind : ∀ x ∈ s.lockouts, (x.origin == .lamp) = true ↔ x.kind = .lampLock := fun x hx => by
      rw [beq_iff_eq]
      exact (hall x hx).1
    obtain ⟨h2, hsave⟩ := h1.leaveFault.removeLampLock (which := fun _ => true) (fun x => Bool.and_true _) hkind
    obtain ⟨h3, hkeep⟩ := h2.testThresholds_new rfl
    obtain ⟨ht, hpend, himage, hlocks⟩ := h3.endReplacement (hq.settled.congr rfl rfl) hw .new
      (s.told p tag .replaceLamp { verdict := .started })
    rw [Reply.withClamp_false]
    exact ⟨ht, hpend, himage, fun hrec => hlocks (hkeep (hsave (State.any_of_lampRecord hrec)))⟩
  · exact exec_ownerRefuses (c := .replaceLamp) hq h (parse_replaceLamp .reinstate i) ((hown .reinstate i).trans (if_pos ⟨rfl, he⟩))
  · refine ⟨_, exec_acts (c := .replaceLamp) h (parse_replaceLamp .reinstate i) ((hown .reinstate i).trans (if_neg (by simp [he]))) rfl
      (hlate _ _) (State.replaceOld_room _), ?_⟩
    obtain ⟨_, _, hw, _⟩ := h
    let f (x : State) : State := x.setWear { x.wear with record := x.wear.record.reinstated }
    have h1 : (f (s.popInbox p)).Telling (f s) [] := hv.map f (fun _ _ => rfl) rfl
    obtain ⟨h2, hsave⟩ := h1.leaveFault.removeLampLock (which := fun x => x.reason == some .ignition) (fun _ => rfl)
      fun x hx => LockoutsSound.ignition_iff hs he hx
    rw [← List.append_nil (_ ++ _)] at h2
    obtain ⟨ht, hpend, himage, hlocks⟩ := h2.endReplacement (hq.settled.congr rfl rfl) hw .reinstate
      (s.told p tag .replaceLamp { verdict := .started })
    rw [Reply.withClamp_false]
    exact ⟨ht, hpend, himage, fun hany => hlocks (hsave hany)⟩
end

