-- ==== Sys2Proof/Proofs/ScalerDark.lean ====
section
/-! SUPPORT. The scaler's power going: its requests, tables and picture dropped, a switch in flight aborted with its pending target, and the
unit's end where no elect and no barred holder stands behind it (R27, R33, R91, R92, R103, R121, R136). -/

namespace Sys2Proof.Machine

/-! ## The requests, the tables and the picture (R91, R103, R121) -/

/-- u once the scaler has no power, b its last computed table. -/
def State.unpowered (u : State) (b : BandTable) : State :=
  { u with
    engine := { u.engine with powered := false, blankReq := none, lockReq := none, blank := .blanked },
    geo := { u.geo with last := b, inTransfer := none, pendingTable := none, scalerTable := none },
    sources := u.sources.set u.engine.routed { u.routedSource with timing := none } }

/-- An unpowered scaler is handed no table (R118). -/
theorem State.retabled_unpowered {u : State} (h : u.engine.powered = false) :
    u.retabled = { u with geo := { u.geo with last := bandTable (u.effectivePair u.profiles.active) u.routedAspect } } :=
  if_pos (.inl h)

theorem State.Telling.cutPower {v u : State} {pre : List Notice} (hv : v.Telling u pre) :
    ∃ b, v.cutPower.Telling (u.unpowered b) pre := by
  obtain ⟨hr, ps, rfl⟩ := hv
  unfold State.cutPower State.tellAspect
  dsimp only
  split
  · exact ⟨u.geo.last, hr, ps, rfl⟩
  · rw [State.recompute_eq]
    exact ⟨_, hr, ps, State.retabled_unpowered rfl⟩

/-! ## The switch in flight (R103, R136) -/

/-- u with its pending target dropped and selected (R103). -/
def State.pendingDark (u : State) : State :=
  u.setEngine { u.engine with selected := (u.engine.pendingTarget.map PendingTarget.input).getD u.engine.selected, pendingTarget := none }

theorem State.Telling.abortPending {v u : State} {pre : List Notice} (hv : v.Telling u pre) :
    v.abortPending.Telling u.pendingDark
      (pre ++ u.engine.pendingTarget.toList.map fun q => switchEnd q.input SwitchResult.aborted.code (some q.requester)) := by
  have he : v.engine = u.engine := hv.read State.engine fun _ _ => rfl
  unfold State.abortPending State.pendingDark
  rw [he]
  cases h : u.engine.pendingTarget with
  | none =>
    have hsame : u.setEngine { u.engine with selected := u.engine.selected, pendingTarget := none } = u := by rw [← h]; rfl
    simp only [Option.map_none, Option.getD_none, Option.toList_none, List.map_nil, List.append_nil, hsame]
    exact hv
  | some q =>
    exact (hv.map (·.setEngine { u.engine with selected := q.input, pendingTarget := none }) (fun _ _ => rfl) rfl).notify _

/-- A unit's end with nothing behind it clears the marker alone (R27, R33). -/
theorem State.Telling.chainEnds {v u : State} {pre : List Notice} (hv : v.Telling u pre)
    (h : u.floor.marker = true → u.floor.elect = none ∧ u.holderBarred = false) :
    v.chainEnds.Telling { u with floor := { u.floor with marker := false } } pre := by
  cases hm : u.floor.marker with
  | true =>
    obtain ⟨he, hb⟩ := h hm
    exact (State.chainEnds_alone hv he).1 hb
  | false =>
    have hv' : v.floor.marker = false := (hv.read (·.floor.marker) fun _ _ => rfl).trans hm
    have hsame : { u with floor := { u.floor with marker := false } } = u := by rw [← hm]
    unfold State.chainEnds
    rw [if_neg (by simp [hv']), hsame]
    exact hv

/-- u with a switch to n in flight aborted, nothing behind its unit. -/
def State.aborted (u : State) (n : InputIdx) : State :=
  { u with
    engine := { u.engine with
      selected := (u.engine.pendingTarget.map PendingTarget.input).getD n, inFlight := none, pendingTarget := none, state := .idle,
      owedRelock := false, switchCond := false },
    recallNow := none, floor := { u.floor with marker := false } }

/-- The SWITCH_END notices of that: the switch's and the pending target's. -/
def State.abortNotices (u : State) : List Notice :=
  if u.engine.inFlight.isSome then
    (u.engine.inFlight.toList.map fun w => switchEnd w.target SwitchResult.aborted.code w.requester)
      ++ u.engine.pendingTarget.toList.map fun q => switchEnd q.input SwitchResult.aborted.code (some q.requester)
  else []

theorem State.Telling.abortSwitch {v u : State} {pre : List Notice} (hv : v.Telling u pre) {w : Switch} (hw : u.engine.inFlight = some w)
    (h : u.floor.marker = true → u.floor.elect = none ∧ u.holderBarred = false) :
    v.abortSwitch.Telling (u.aborted w.target) (pre ++ u.abortNotices) := by
  have hw' : v.engine.inFlight = some w := (hv.read (·.engine.inFlight) fun _ _ => rfl).trans hw
  let off (x : State) : State := x.setEngine { x.engine with selected := w.target, inFlight := none }
  let idle (x : State) : State := (x.setEngine { x.engine with state := .idle, owedRelock := false, switchCond := false }).setRecallNow none
  have h1 := ((hv.map off (fun _ _ => rfl) rfl).notify (switchEnd w.target SwitchResult.aborted.code w.requester)).abortPending
  have h2 := (h1.map idle (fun _ _ => rfl) rfl).chainEnds h
  have hns : pre ++ u.abortNotices = (pre ++ [switchEnd w.target SwitchResult.aborted.code w.requester])
      ++ (off u).engine.pendingTarget.toList.map fun q => switchEnd q.input SwitchResult.aborted.code (some q.requester) := by
    unfold State.abortNotices
    rw [hw, List.append_assoc]
    rfl
  unfold State.abortSwitch
  rw [hw', hns]
  exact h2

/-- With no switch in flight nothing is aborted. -/
theorem State.abortSwitch_none {s : State} (h : s.engine.inFlight = none) : s.abortSwitch = s := by
  unfold State.abortSwitch
  rw [h]

/-! ## The blank control (R92) -/

theorem State.Telling.watchDark {v u : State} {pre : List Notice} (hv : v.Telling u pre) (hp : u.engine.powered = false)
    (ht : u.routedSource.timing = none) : v.watchBlank.Telling (u.setEngine { u.engine with compHeld := true }) pre := by
  have hw : u.watched = u.setEngine { u.engine with compHeld := true } := by
    unfold State.watched
    simp [State.composition_of_dark ht, hp, State.setEngine]
  rw [State.watchBlank_eq, ← hw]
  exact hv.map State.watched (fun _ _ => rfl) rfl

/-! ## The power-down (R103) -/

/-- y is u with the scaler's power gone, a switch in flight aborted and nothing behind its unit (R103, R121, R136). -/
structure WentDark (u y : State) : Prop where
  rest : y = { u with
    engine := y.engine, geo := y.geo, sources := y.sources, recallNow := if u.engine.inFlight.isSome then none else u.recallNow,
    floor := { u.floor with marker := u.floor.marker && !u.engine.inFlight.isSome } }
  engine : y.engine = { u.engine with
    powered := false, blank := .blanked, blankReq := none, lockReq := none, compHeld := true, inFlight := none,
    state := if u.engine.inFlight.isSome then .idle else u.engine.state,
    owedRelock := u.engine.owedRelock && !u.engine.inFlight.isSome, switchCond := u.engine.switchCond && !u.engine.inFlight.isSome,
    pendingTarget := if u.engine.inFlight.isSome then none else u.engine.pendingTarget,
    selected := if u.engine.inFlight.isSome then
        (u.engine.pendingTarget.map PendingTarget.input).getD ((u.engine.inFlight.map Switch.target).getD u.engine.selected)
      else u.engine.selected }
  geo : y.geo = { u.geo with last := y.geo.last, inTransfer := none, pendingTable := none, scalerTable := none }
  sources : y.sources = u.sources.set u.engine.routed { u.routedSource with timing := none }

theorem WentDark.timing {u y : State} (h : WentDark u y) : y.routedSource.timing = none := by
  unfold State.routedSource State.source
  rw [h.sources, h.engine]
  simp

theorem WentDark.composition {u y : State} (h : WentDark u y) : y.composition = true := State.composition_of_dark h.timing

theorem State.Telling.powerDown {v u : State} {pre : List Notice} (hv : v.Telling u pre)
    (h : u.engine.inFlight.isSome = true → u.floor.marker = true → u.floor.elect = none ∧ u.holderBarred = false) :
    ∃ y, WentDark u y ∧ v.powerDown.Telling y (pre ++ u.abortNotices) := by
  obtain ⟨b, hcut⟩ := hv.cutPower
  have htiming : (u.unpowered b).routedSource.timing = none := by
    unfold State.routedSource State.source State.unpowered
    simp
  unfold State.powerDown
  cases hw : u.engine.inFlight with
  | none =>
    have hcut' : v.cutPower.engine.inFlight = none := (hcut.read (·.engine.inFlight) fun _ _ => rfl).trans hw
    have hns : u.abortNotices = [] := by unfold State.abortNotices; rw [hw]; rfl
    refine ⟨(u.unpowered b).setEngine { (u.unpowered b).engine with compHeld := true }, ⟨?_, ?_, rfl, rfl⟩, ?_⟩
    · simp only [hw, Option.isSome_none, Bool.not_false, Bool.and_true]
      rfl
    · simp only [hw, Option.isSome_none, Bool.not_false, Bool.and_true]
      rw [← hw]
      rfl
    · rw [State.abortSwitch_none hcut', hns, List.append_nil]
      exact hcut.watchDark rfl htiming
  | some w =>
    refine ⟨((u.unpowered b).aborted w.target).setEngine { ((u.unpowered b).aborted w.target).engine with compHeld := true },
      ⟨?_, ?_, rfl, rfl⟩, ?_⟩
    · simp only [hw, Option.isSome_some, Bool.not_true, Bool.and_false]
      rfl
    · simp only [hw, Option.isSome_some, Bool.not_true, Bool.and_false]
      rfl
    · exact (hcut.abortSwitch (u := u.unpowered b) hw (h (by rw [hw]; rfl))).watchDark rfl htiming

end Sys2Proof.Machine
end

