-- ==== Sys2Proof/Proofs/CooldownOver.lean ====
section
/-! SUPPORT. The end of a cooldown: the lamp at rest in OFF or FAULT with what goes with it, or the strike of a pending-on (R45, R53, R60,
R103, R121, R136, R166). -/

namespace Sys2Proof.Machine

/-! ## The lamp at rest (R46, R53) -/

/-- The lamp at rest in a state. -/
def Lamp.rested (l : Lamp) (x : LampState) : Lamp :=
  { l with state := x, timer := none, restrikeUsed := false, faultPending := false, pendingOn := none, startUp := false }

theorem State.Telling.enterRest {v u : State} {pre : List Notice} (hv : v.Telling u pre) (x : LampState) :
    (v.enterRest x).Telling (u.setLamp (u.lamp.rested x)) (pre ++ [lampNotice (lampCode x) u.lamp.attempts]) := by
  obtain ⟨hr, ps, rfl⟩ := hv
  exact ⟨hr, ps, rfl⟩

/-! ## The supply (R45, R103) -/

/-- The end of s's cooldown aborts a switch, and with it the unit (R45, R103). -/
def State.losesUnit (s : State) : Bool := !s.lamp.startUp && s.engine.inFlight.isSome

/-- What of the engine, the tables and the unit the end of s's cooldown leaves in t, the rest as in s. -/
def State.endingAs (s t : State) : State :=
  { s with engine := t.engine, geo := t.geo, sources := t.sources, recallNow := if s.losesUnit then none else s.recallNow,
           floor := { s.floor with marker := s.floor.marker && !s.losesUnit } }

/-- What the end of s's cooldown leaves of the engine, the tables and the picture: after a start-up all, else a dark scaler (R45, R103,
R121). -/
abbrev Darkened (s t : State) : Prop :=
  if s.lamp.startUp then t.engine = s.engine ∧ t.geo = s.geo ∧ t.sources = s.sources
  else
    t.engine = { s.engine with
        powered := false, blank := .blanked, blankReq := none, lockReq := none, compHeld := t.composition,
        inFlight := none, state := if s.losesUnit then .idle else s.engine.state, owedRelock := s.engine.owedRelock && !s.losesUnit,
        switchCond := s.engine.switchCond && !s.losesUnit, pendingTarget := if s.losesUnit then none else s.engine.pendingTarget,
        selected := if s.losesUnit then
            (s.engine.pendingTarget.map PendingTarget.input).getD ((s.engine.inFlight.map Switch.target).getD s.engine.selected)
          else s.engine.selected }
      ∧ t.geo = { s.geo with last := t.geo.last, inTransfer := none, pendingTable := none, scalerTable := none }
      ∧ t.sources = s.sources.set s.engine.routed { s.routedSource with timing := none }

/-- The SWITCH_END notices of the end of s's cooldown (R103). -/
def State.restNotices (s : State) : List Notice :=
  if s.losesUnit then
    (s.engine.inFlight.toList.map fun w => switchEnd w.target SwitchResult.aborted.code w.requester)
      ++ s.engine.pendingTarget.toList.map fun q => switchEnd q.input SwitchResult.aborted.code (some q.requester)
  else []

theorem State.scalerSupplied_cooldown {s : State} (h : s.lamp.state = .cooldown) : s.scalerSupplied = !s.lamp.startUp := by
  unfold State.scalerSupplied
  rw [h]

theorem WentDark.still {u y : State} (h : WentDark u y) (ho : u.engine.powerUpOwed = false) : y.Still := by
  refine ⟨?_, fun _ => ?_⟩
  · rw [h.engine]
    exact ho
  · rw [h.engine]

/-- The composition looks at the engine and the sources alone (R92). -/
theorem State.composition_congr {s t : State} (he : t.engine = s.engine) (hs : t.sources = s.sources) : t.composition = s.composition := by
  unfold State.composition State.routedSource State.source
  rw [he, hs]

/-- The lamp at rest with the scaler's power gone, if it had any. -/
theorem Quiet.rests {s : State} (hq : Quiet s) (hl : s.lamp.state = .cooldown)
    (last : s.losesUnit = true → s.floor.marker = true → s.floor.elect = none ∧ s.holderBarred = false) (x : LampState) :
    ∃ y, y = { s.endingAs y with lamp := s.lamp.rested x }
      ∧ (∀ t : State, t.engine = y.engine → t.geo = y.geo → t.sources = y.sources → Darkened s t) ∧ y.Still
      ∧ ((s.enterRest x).loseSupply s.scalerSupplied).Telling y (lampNotice (lampCode x) s.lamp.attempts :: s.restNotices) := by
  have hv := hq.telling.enterRest x
  rw [State.scalerSupplied_cooldown hl]
  unfold State.loseSupply State.endingAs Darkened State.restNotices
  cases hs : s.lamp.startUp with
  | true =>
    have hlost : s.losesUnit = false := by unfold State.losesUnit; rw [hs]; rfl
    rw [hlost]
    refine ⟨s.setLamp (s.lamp.rested x), ?_, fun t he hg hsrc => ⟨he, hg, hsrc⟩, hq.settled.still.congr rfl rfl, hv⟩
    simp only [Bool.not_false, Bool.and_true]
    rfl
  | false =>
    have hlost : s.losesUnit = s.engine.inFlight.isSome := by unfold State.losesUnit; rw [hs]; rfl
    rw [hlost] at last ⊢
    obtain ⟨y, hy, htell⟩ := hv.powerDown last
    refine ⟨y, hy.rest, fun t he hg hsrc => ?_, hy.still hq.2.1, htell⟩
    rw [if_neg (by decide), State.composition_congr he hsrc, hy.composition, he, hg, hsrc]
    exact ⟨hy.engine, hy.geo, hy.sources⟩

/-! ## PENDING_DROPPED (R53) -/

theorem State.dropNotice_eq (s : State) (a : Option LampAsker) :
    s.dropNotice a = s.relocked s.lockouts (a.toList.map pendingDropped) := by
  cases a with
  | none =>
    change s = { s with lockouts := s.lockouts, raised := s.raised ++ [] }
    rw [List.append_nil]
  | some a => rfl

theorem State.Telling.dropNotice {v u : State} {pre : List Notice} (hv : v.Telling u pre) (a : Option LampAsker) :
    (v.dropNotice a).Telling u (pre ++ a.toList.map pendingDropped) := by
  rw [State.dropNotice_eq, show v.lockouts = u.lockouts from hv.read State.lockouts fun _ _ => rfl]
  exact hv.relocked _ _

theorem State.TellingSaved.dropNotice {v u : State} {pre : List Notice} (hv : v.TellingSaved u pre) (a : Option LampAsker) :
    (v.dropNotice a).TellingSaved u (pre ++ a.toList.map pendingDropped) := by
  rw [State.dropNotice_eq, show v.lockouts = u.lockouts from hv.read State.lockouts fun _ _ _ _ _ _ => rfl]
  exact hv.relocked _ _

/-! ## LAMP_LOCK of reason IGNITION (R166) -/

/-- The record an ignition that failed adds. -/
def State.ignitionLock (s : State) : Lockout :=
  { kind := .lampLock, origin := .lamp, reason := some .ignition, setAt := s.uptime, expiry := none }

/-- The set once an ignition has failed: a LAMP record that stands is kept (R166). -/
def State.faultLocks (s : State) : List Lockout :=
  if s.lampRecord = none then insertLockout s.ignitionLock s.lockouts else s.lockouts

/-- Its notice (R160). -/
def State.faultNotices (s : State) : List Notice :=
  if s.lampRecord = none ∧ s.inForce .lampLock = false then [inForceNotice .lampLock .lamp] else []

theorem State.addIgnition_eq (s : State) : s.addLampLock .ignition =
    if s.lampRecord = none then (s.relocked s.faultLocks s.faultNotices).saveLockouts else s := by
  unfold State.addLampLock State.relocked State.faultLocks State.faultNotices State.addLockout
  cases hr : s.lampRecord with
  | some l => simp
  | none =>
    cases hk : s.inForce .lampLock with
    | true => simp [State.setLockouts, State.ignitionLock]
    | false => simp [State.setLockouts, State.ignitionLock, State.notify, State.setRaised]

theorem State.Telling.addIgnition {v u : State} {pre : List Notice} (hv : v.Telling u pre) :
    (v.addLampLock .ignition).TellingSaved (u.setLockouts u.faultLocks) (pre ++ u.faultNotices)
      ∧ (u.lampRecord = none → LockoutsSaving (v.addLampLock .ignition)) := by
  rw [State.addIgnition_eq, hv.read State.lampRecord fun _ _ => rfl, hv.read State.faultLocks fun _ _ => rfl,
    hv.read State.faultNotices fun _ _ => rfl]
  by_cases hr : u.lampRecord = none
  · rw [if_pos hr]
    refine ⟨?_, fun _ => State.saveLockouts_saving _⟩
    obtain ⟨hn, ps, hx⟩ := hv.relocked u.faultLocks u.faultNotices
    rw [hx]
    exact ⟨hn, ps, (OnlySaved.refl _).saveLockouts (.inr ⟨rfl, rfl, rfl⟩)⟩
  · have hkeep : u.faultLocks = u.lockouts := if_neg hr
    have hnone : u.faultNotices = [] := if_neg fun h => hr h.1
    rw [if_neg hr, hkeep, hnone, List.append_nil]
    exact ⟨hv.saved, fun h => absurd h hr⟩

theorem mem_insertLockout {x l : Lockout} {ls : List Lockout} (h : x ∈ insertLockout l ls) : x = l ∨ x ∈ ls := by
  induction ls with
  | nil => simpa [insertLockout] using h
  | cons y r ih =>
    unfold insertLockout at h
    split at h
    · simpa using h
    · rcases List.mem_cons.mp h with h | h
      · exact .inr (h ▸ List.mem_cons_self)
      · exact (ih h).imp id (List.mem_cons_of_mem _)

theorem ThermalMarked.faultLocks {s : State} (h : ThermalMarked s.lockouts) : ThermalMarked s.faultLocks := by
  unfold State.faultLocks
  split
  · intro x hx
    rcases mem_insertLockout hx with rfl | hx
    · constructor <;> intro he <;> cases he
    · exact h x hx
  · exact h

theorem State.faultLocks_thermal (s : State) : (s.faultLocks.any fun x => x.origin == .thermal) = s.thermalPresent := by
  unfold State.faultLocks
  split
  · rw [insertLockout_any]
    rfl
  · rfl

/-! ## The checkpoint behind another save (R76, R77) -/

/-- A checkpoint behind other operations of the store is one that the waits and the owed save go through (R77, R168, R185). -/
theorem OnlySaved.checkpoint {u t : State} (h : OnlySaved u t) :
    OnlySaved (u.setWear { u.wear with sinceCheckpoint := 0 }) t.checkpoint := by
  have hset := h.map (fun x => x.setWear { x.wear with sinceCheckpoint := 0 }) (fun _ _ _ _ => rfl) ⟨rfl, rfl, rfl⟩
  obtain ⟨he, hw, hr, ho⟩ := hset
  obtain ⟨ce, cw, cr, _⟩ := t.checkpoint_onlySaved
  have howed : t.checkpoint.saveOwed = t.saveOwed ∧ t.checkpoint.store.queue = t.store.queue := by
    by_cases hb : t.store.inFlight.isSome ∨ t.store.fault = true
    · rw [State.checkpoint_busy hb]
      exact ⟨rfl, rfl⟩
    · obtain ⟨hi, hf⟩ := not_or.mp hb
      rw [State.checkpoint_idle (by simpa using hi) (by simpa using hf)]
      exact ⟨rfl, rfl⟩
  obtain ⟨ho1, ho2⟩ := howed
  refine ⟨?_, ?_, ?_, ?_⟩
  · rw [ce, he]
  · rcases cw with c | ⟨c, d⟩
    · rw [c]
      exact hw
    · rcases hw with w | ⟨_, w⟩
      · exact .inr ⟨w.symm.trans c, d⟩
      · exact absurd (w.symm.trans c) nofun
  · rcases cr with c | ⟨c, d⟩
    · rw [c]
      exact hr
    · rcases hr with w | ⟨_, w⟩
      · exact .inr ⟨w.symm.trans c, d⟩
      · exact absurd (w.symm.trans c) nofun
  · rw [ho1, ho2]
    exact ho

theorem State.TellingSaved.checkpoint {v u : State} {pre : List Notice} (h : v.TellingSaved u pre) :
    v.checkpoint.TellingSaved (u.setWear { u.wear with sinceCheckpoint := 0 }) pre ∧ Imaged v.checkpoint u.wear.record := by
  have hrec : v.wear.record = u.wear.record := h.read (·.wear.record) fun _ _ _ _ _ _ => rfl
  obtain ⟨hr, ps, h⟩ := h
  rw [← hrec]
  exact ⟨⟨hr, ps, h.checkpoint⟩, v.checkpoint_imaged⟩

/-! ## The THERMAL record is no part of the saved table (R168) -/

theorem State.coldLocks_persistent {s : State} (h : ThermalMarked s.lockouts) :
    s.coldLocks.filter Lockout.persistent = s.lockouts.filter Lockout.persistent := by
  unfold State.coldLocks
  split
  · rfl
  · rw [List.filter_filter]
    refine List.filter_congr fun x hx => ?_
    cases hp : x.persistent with
    | false => rfl
    | true =>
      have hk : x.kind ≠ .thermalLock := by
        intro hk
        unfold Lockout.persistent at hp
        rw [hk] at hp
        exact absurd hp (by decide)
      rw [Bool.true_and]
      exact bne_iff_ne.mpr fun ho => hk ((h x hx).mp ho)

theorem LockoutsSaving.relocked {s : State} (h : LockoutsSaving s) {ls : List Lockout} (ns : List Notice)
    (hp : ls.filter Lockout.persistent = s.lockouts.filter Lockout.persistent) : LockoutsSaving (s.relocked ls ns) := by
  have himage : (s.relocked ls ns).imageOf .lockout = s.imageOf .lockout := by
    change Image.lockout ((ls.filter Lockout.persistent).map Lockout.image) = _
    rw [hp]
    rfl
  rcases h with h | h
  · left
    unfold Saving
    rw [himage]
    exact h
  · exact .inr h

theorem LockoutsSaving.examineThermal {s : State} (h : LockoutsSaving s) (hl : s.lamp.state ≠ .cooldown) (ht : ThermalMarked s.lockouts) :
    LockoutsSaving s.examineThermal := by
  rw [State.examineThermal_eq hl ht]
  exact LockoutsSaving.relocked h _ (State.coldLocks_persistent ht)

theorem LockoutsSaving.dropNotice {s : State} (h : LockoutsSaving s) (a : Option LampAsker) : LockoutsSaving (s.dropNotice a) := by
  rw [State.dropNotice_eq]
  exact LockoutsSaving.relocked h _ rfl

/-! ## The cooldown's end, as told (R53) -/

/-- What is told last of the end of s's cooldown: the THERMAL record gone, and a pending-on dropped (R53, log 26). -/
def State.restTail (s : State) : List Notice := s.coldNotices ++ s.lamp.pendingOn.toList.map pendingDropped

/-- A cooldown that ends in OFF. -/
theorem Quiet.restsInOff {s : State} (hq : Quiet s) (hl : s.lamp.state = .cooldown)
    (last : s.losesUnit = true → s.floor.marker = true → s.floor.elect = none ∧ s.holderBarred = false) (ht : ThermalMarked s.lockouts)
    (hp : s.restInOff.ports = s.ports) :
    s.restInOff.finish = { s.endingAs s.restInOff.finish with
        ports := s.ports.offerAll (lampNotice 0 s.lamp.attempts :: s.restNotices ++ s.restTail), lamp := s.lamp.rested .off,
        lockouts := s.coldLocks }
      ∧ Darkened s s.restInOff.finish := by
  obtain ⟨y, hy, hdark, hstill, htell⟩ := hq.rests hl last .off
  have hlamp : y.lamp.state ≠ .cooldown := by rw [hy]; change LampState.off ≠ .cooldown; decide
  have hmarked : ThermalMarked y.lockouts := by rw [hy]; exact ht
  have hlocks : y.coldLocks = s.coldLocks := by rw [hy]; rfl
  have hcold : y.coldNotices = s.coldNotices := by rw [hy]; rfl
  have hx := (htell.examineThermal hlamp hmarked).dropNotice s.lamp.pendingOn
  rw [hlocks, hcold, List.append_assoc] at hx
  have hfinish : s.restInOff.finish = { y.setLockouts s.coldLocks with
      ports := s.ports.offerAll (lampNotice 0 s.lamp.attempts :: s.restNotices ++ s.restTail) } := by
    rw [State.finish_closed hp]
    exact hx.closed_of_still (hstill.congr rfl rfl) _
  rw [hfinish]
  refine ⟨?_, hdark _ rfl rfl rfl⟩
  exact congrArg (fun z : State => { z with
    ports := s.ports.offerAll (lampNotice 0 s.lamp.attempts :: s.restNotices ++ s.restTail), lockouts := s.coldLocks }) hy

/-- The set that a cooldown's end in FAULT leaves: LAMP_LOCK in it, and the THERMAL record gone with the line deasserted. -/
def State.faultColdLocks (s : State) : List Lockout :=
  if s.lines.thermHot || !s.thermalPresent then s.faultLocks else s.faultLocks.filter fun x => x.origin != .thermal

/-- y with LAMP_LOCK in its set and its checkpoint taken. -/
def State.faulted (y : State) : State := (y.setLockouts y.faultLocks).setWear { y.wear with sinceCheckpoint := 0 }

theorem State.faulted_thermalPresent (y : State) : y.faulted.thermalPresent = y.thermalPresent := y.faultLocks_thermal

theorem State.faulted_coldLocks (y : State) : y.faulted.coldLocks = y.faultColdLocks := by
  unfold State.coldLocks
  rw [State.faulted_thermalPresent]
  rfl

theorem State.faulted_coldNotices (y : State) : y.faulted.coldNotices = y.coldNotices := by
  unfold State.coldNotices
  rw [State.faulted_thermalPresent]
  rfl

/-- What follows the power-down at an entry to FAULT, up to PENDING_DROPPED (R53, R60, R166). -/
theorem State.Telling.fails {v y : State} {pre : List Notice} (hv : v.Telling y pre) (hl : y.lamp.state ≠ .cooldown)
    (ht : ThermalMarked y.lockouts) :
    (v.addLampLock .ignition).checkpoint.examineThermal.TellingSaved (y.faulted.setLockouts y.faultColdLocks)
        (pre ++ y.faultNotices ++ y.coldNotices)
      ∧ Imaged (v.addLampLock .ignition).checkpoint.examineThermal y.wear.record
      ∧ (y.lampRecord = none → LockoutsSaving (v.addLampLock .ignition).checkpoint.examineThermal) := by
  obtain ⟨hlock, hsaving⟩ := hv.addIgnition
  obtain ⟨hcheck, himage⟩ := hlock.checkpoint
  have hcheck : (v.addLampLock .ignition).checkpoint.TellingSaved y.faulted (pre ++ y.faultNotices) := hcheck
  have hmarked : ThermalMarked y.faulted.lockouts := ThermalMarked.faultLocks ht
  have hx := hcheck.examineThermal hl hmarked
  rw [State.faulted_coldLocks, State.faulted_coldNotices] at hx
  refine ⟨hx, ?_, fun hr => LockoutsSaving.examineThermal (State.checkpoint_lockoutsSaving (hsaving hr)) ?_ ?_⟩
  · unfold Imaged
    rw [State.examineThermal_store]
    exact himage
  · rw [hcheck.read State.lamp fun _ _ _ _ _ _ => rfl]
    exact hl
  · rw [hcheck.read State.lockouts fun _ _ _ _ _ _ => rfl]
    exact hmarked

/-- A cooldown that ends in FAULT. -/
theorem Quiet.restsInFault {s : State} (hq : Quiet s) (hl : s.lamp.state = .cooldown)
    (last : s.losesUnit = true → s.floor.marker = true → s.floor.elect = none ∧ s.holderBarred = false) (ht : ThermalMarked s.lockouts)
    (hp : s.restInFault.ports = s.ports) :
    OnlySaved { s.endingAs s.restInFault.finish with
        ports := s.ports.offerAll (lampNotice 6 s.lamp.attempts :: s.restNotices ++ s.faultNotices ++ s.restTail),
        lamp := s.lamp.rested .fault, wear := { s.wear with sinceCheckpoint := 0 }, lockouts := s.faultColdLocks } s.restInFault.finish
      ∧ Darkened s s.restInFault.finish ∧ Imaged s.restInFault.finish s.wear.record
      ∧ (s.lampRecord = none → LockoutsSaving s.restInFault.finish) := by
  obtain ⟨y, hy, hdark, hstill, htell⟩ := hq.rests hl last .fault
  have hlamp : y.lamp.state ≠ .cooldown := by rw [hy]; change LampState.fault ≠ .cooldown; decide
  have hmarked : ThermalMarked y.lockouts := by rw [hy]; exact ht
  have hlocks : y.faultColdLocks = s.faultColdLocks := by rw [hy]; rfl
  have hcold : y.coldNotices = s.coldNotices := by rw [hy]; rfl
  have hnotices : y.faultNotices = s.faultNotices := by rw [hy]; rfl
  have hrecord : y.lampRecord = s.lampRecord := by rw [hy]; rfl
  have hwear : y.wear.record = s.wear.record := by rw [hy]; rfl
  obtain ⟨hx, himage, hsaving⟩ := htell.fails hlamp hmarked
  rw [hlocks, hcold, hnotices] at hx
  rw [hrecord] at hsaving
  rw [hwear] at himage
  have hx := hx.dropNotice s.lamp.pendingOn
  rw [List.append_assoc] at hx
  have hset : (y.faulted.setLockouts s.faultColdLocks).Still := hstill.congr rfl rfl
  have hfinish : s.restInFault.finish = _ := (State.finish_closed hp).trans (hx.closed_eq hset _)
  have honly := hx.closed hset s.ports.offerAll
  rw [hx.closed_eq hset, ← hfinish] at honly
  have he : s.restInFault.finish.engine = y.engine := honly.read State.engine fun _ _ _ _ => rfl
  have hg : s.restInFault.finish.geo = y.geo := honly.read State.geo fun _ _ _ _ => rfl
  have hs : s.restInFault.finish.sources = y.sources := honly.read State.sources fun _ _ _ _ => rfl
  refine ⟨?_, hdark _ he hg hs, ?_, fun hr => ?_⟩
  · have hend : s.endingAs s.restInFault.finish = s.endingAs y := by unfold State.endingAs; rw [he, hg, hs]
    have hbase : ({ s.endingAs y with
        ports := s.ports.offerAll (lampNotice 6 s.lamp.attempts :: s.restNotices ++ s.faultNotices ++ s.restTail),
        lamp := s.lamp.rested .fault, wear := { s.wear with sinceCheckpoint := 0 }, lockouts := s.faultColdLocks } : State) = _ :=
      (congrArg (fun z : State => { z with
        ports := s.ports.offerAll (lampNotice 6 s.lamp.attempts :: s.restNotices ++ s.faultNotices ++ s.restTail),
        wear := { z.wear with sinceCheckpoint := 0 }, lockouts := s.faultColdLocks }) hy).symm
    rw [hend, hbase]
    exact honly
  · rw [hfinish]
    unfold Imaged
    exact (congrArg (fun q : Store => q.slot = some s.wear.record ∨ q.inFlight = some (.wear s.wear.record))
      (State.dropNotice_store _ _)).mpr himage
  · rw [hfinish]
    exact LockoutsSaving.dropNotice (hsaving hr) _

/-! ## The pending-on (R53) -/

/-- s with its pending-on taken. -/
def State.asked (s : State) : State := s.setLamp { s.lamp with pendingOn := none }

theorem State.coolEnds_rests {s : State} (hl : s.lamp.state = .cooldown) (hf : s.lamp.faultPending = false)
    (hp : ∀ a ∈ s.lamp.pendingOn, s.askerPasses a = false) : s.coolEnds = s.restInOff := by
  unfold State.coolEnds
  rw [if_neg (not_not_intro hl), if_neg (by simp [hf])]
  split
  · rename_i a ha
    rw [if_neg (by simp [hp a ha])]
  · rfl

theorem State.coolEnds_fails {s : State} (hl : s.lamp.state = .cooldown) (hf : s.lamp.faultPending = true) : s.coolEnds = s.restInFault := by
  unfold State.coolEnds
  rw [if_neg (not_not_intro hl), if_pos hf]

theorem State.coolEnds_strikes {s : State} (hl : s.lamp.state = .cooldown) (hf : s.lamp.faultPending = false) {a : LampAsker}
    (ha : s.lamp.pendingOn = some a) (hp : s.askerPasses a = true) : s.coolEnds = s.asked.strike := by
  unfold State.coolEnds
  rw [if_neg (not_not_intro hl), if_neg (by simp [hf]), ha]
  exact if_pos hp

theorem State.asked_attempt {s : State} (hl : s.lamp.state = .cooldown) : s.asked.strikeAttempt = 1 :=
  if_neg (show s.lamp.state ≠ .retryPause by rw [hl]; decide)

end Sys2Proof.Machine

open Sys2Proof Sys2Proof.Machine

/-- Settles O49: the lamp at rest in OFF or FAULT, or the strike of the pending-on with or without the scaler's power. -/
theorem cooldownEnds : Obligations.CooldownEnds := by
  unfold Obligations.CooldownEnds
  intro s run hq hl
  have hports : s.coolEnds.ports = s.ports := State.ports_of_room s.coolEnds_room
  refine ⟨fun hr => ?_, fun hr last ht => ⟨fun hf hp => ?_, fun hf => ?_⟩, fun hr hf a ha hp => ?_⟩
  · obtain ⟨_, _, _, hstale⟩ := State.lampTimer_stale hr
    exact hstale
  · have hx := State.coolEnds_rests hl hf hp
    rw [hx] at hports
    exact ⟨_, congrArg Host.Outcome.next ((if_pos hr).trans (congrArg State.finish hx)), hq.restsInOff hl last ht hports⟩
  · have hx := State.coolEnds_fails hl hf
    rw [hx] at hports
    exact ⟨_, congrArg Host.Outcome.next ((if_pos hr).trans (congrArg State.finish hx)), hq.restsInFault hl last ht hports⟩
  · have hx := State.coolEnds_strikes hl hf ha hp
    have hfinish : s.coolEnds.finish = s.asked.strike.closed s.ports.offerAll := by rw [State.finish_closed hports, hx]
    have hrow : exec (.cooldownEnd run) s = .next (s.asked.strike.closed s.ports.offerAll) :=
      congrArg Host.Outcome.next ((if_pos hr).trans hfinish)
    have hv : s.asked.Telling s.asked [] := hq.telling.map State.asked (fun _ _ => rfl) rfl
    have hsup : s.asked.scalerSupplied = !s.lamp.startUp := State.scalerSupplied_cooldown (s := s.asked) hl
    have hn := State.asked_attempt hl
    refine ⟨fun hs => ⟨_, hrow, ?_⟩, fun hs he hpow hb => ⟨_, hrow, ?_⟩⟩
    · have hstrike := hv.strike_closed (hq.settled.congr rfl rfl) (by rw [hsup, hs]; rfl) s.ports.offerAll
      unfold State.strikeNotices at hstrike
      rw [hn] at hstrike
      exact hstrike
    · obtain ⟨hstruck, hraised⟩ := hv.strike_struck (by rw [hsup, hs]; rfl) hn
      obtain ⟨hre, himage, hup, _⟩ := hstruck.lit hq.1 he hpow hb s.ports.offerAll
      rw [hraised] at hre
      exact ⟨hre, himage, hup⟩
end

