-- ==== Sys2Proof/Proofs/Gauges.lean ====
section
/-! SUPPORT. What the ranges, the keystone limits and the wear state depend on (R66, R67, R70, R71, R83, R91, R106, R109, R138, R141, R142,
R152, R158, R175): a part of the state's fields, and the operations that leave them alone, one lemma for each. -/

namespace Sys2Proof.Machine

/-- The keystone pairs that are stored, on trial, or waiting as elect (R109). -/
structure Pairings where
  stored : Vector Keystone 4
  slots : Vector (Option Trial) 2
  elect : Option (Requester × Cmd)

/-- The counts and fields that have a range. -/
structure Counts where
  record : WearRecord
  since : Nat
  ratedLife : Nat
  grace : Nat
  room : Option Nat
  sources : Vector Source 6
  linkNext : Nat
  nextSeq : Nat
  minute : Nat
  weekday : Nat
  week : Nat
  uptime : Nat
  entries : Vector Entry 24
  attempts : Nat
  lamp : LampState
  lockouts : List Lockout

/-- The pairs, the counts, and the wear state beside the record that it is the band of. -/
structure Gauges where
  pairs : Pairings
  counts : Counts
  band : WearBand

def State.gauges (s : State) : Gauges :=
  { pairs := { stored := s.profiles.stored, slots := s.profiles.slots, elect := s.floor.elect },
    counts := { record := s.wear.record, since := s.wear.sinceCheckpoint, ratedLife := s.wear.ratedLife, grace := s.schedule.grace,
                room := s.console.room, sources := s.sources, linkNext := s.engine.linkNext, nextSeq := s.geo.nextSeq,
                minute := s.clock.minute, weekday := s.clock.weekday, week := s.clock.week, uptime := s.uptime,
                entries := s.schedule.entries, attempts := s.lamp.attempts, lamp := s.lamp.state, lockouts := s.lockouts },
    band := s.wear.band }

/-- Every pair is within the limits of R109. -/
structure Pairings.Fitted (g : Pairings) : Prop where
  stored : ∀ k ∈ g.stored.toList, Keystone.inLimits k = true
  slots : ∀ x ∈ g.slots.toList, trialOk x = true
  elect : electPairOk g.elect = true

/-- A record's expiry, where it has one, is of 1 to 1440 minutes (R158). -/
def Lockout.Timed (l : Lockout) : Prop := ∀ x ∈ l.expiry, 1 ≤ x ∧ x ≤ 1440

/-- Every count is in its range. -/
structure Counts.InRange (g : Counts) : Prop where
  record : g.record.valid = true
  since : g.since < Config.checkpointMinutes
  config : ConfigImage.valid { ratedLife := g.ratedLife, grace := g.grace, room := g.room } = true
  sources : ∀ c ∈ g.sources.toList, SourceInRange c
  link : 1 ≤ g.linkNext ∧ g.linkNext ≤ 255
  seq : g.nextSeq ≤ 255
  clock : g.minute ≤ 1439 ∧ g.weekday ≤ 6 ∧ g.week ≤ 60
  uptime : g.uptime ≤ Config.top32
  entries : ∀ e ∈ g.entries.toList, e.valid = true
  attempts : g.attempts ≤ Config.maxAttempts
  pausing : g.lamp = .retryPause → g.attempts < Config.maxAttempts
  lockouts : ∀ l ∈ g.lockouts, l.Timed

/-- The wear state is the band of the record's ratio (R71). -/
def Gauges.Banded (g : Gauges) : Prop := g.band = bandOfRatio (wearRatio g.counts.record.wu g.counts.ratedLife)

theorem pairsSound_iff (s : State) : PairsSound s ↔ s.gauges.pairs.Fitted :=
  ⟨fun ⟨hstored, hslots, helect⟩ => ⟨hstored, hslots, helect⟩, fun h => ⟨h.stored, h.slots, h.elect⟩⟩

theorem rangesSound_iff (s : State) : RangesSound s ↔ s.gauges.counts.InRange := by
  constructor
  · rintro ⟨hrec, hsince, hcfg, hsrc, hlo, hhi, hseq, hmin, hday, hweek, hup, hent, hatt, hpause, hlock⟩
    exact ⟨hrec, hsince, hcfg, hsrc, ⟨hlo, hhi⟩, hseq, ⟨hmin, hday, hweek⟩, hup, hent, hatt, hpause, hlock⟩
  · rintro ⟨hrec, hsince, hcfg, hsrc, ⟨hlo, hhi⟩, hseq, ⟨hmin, hday, hweek⟩, hup, hent, hatt, hpause, hlock⟩
    exact ⟨hrec, hsince, hcfg, hsrc, hlo, hhi, hseq, hmin, hday, hweek, hup, hent, hatt, hpause, hlock⟩

theorem bandSound_iff (s : State) : BandSound s ↔ s.gauges.Banded := Iff.rfl

/-! ## Notices, the store, the lockout table's save -/

@[simp] theorem State.kick_gauges (s : State) : s.kick.gauges = s.gauges := by rw [s.kick_onlySaved.1]; rfl
@[simp] theorem State.queueRecord_gauges (s : State) (r : RecordId) : (s.queueRecord r).gauges = s.gauges := by
  rw [(s.queueRecord_onlySaved r).1]; rfl
@[simp] theorem State.saveLockouts_gauges (s : State) : s.saveLockouts.gauges = s.gauges := State.queueRecord_gauges _ _
@[simp] theorem State.saveIfService_gauges (s : State) (k : LockKind) : (s.saveIfService k).gauges = s.gauges := by
  unfold State.saveIfService; split <;> simp
@[simp] theorem State.completeWrite_gauges (s : State) : s.completeWrite.gauges = s.gauges := by
  unfold State.completeWrite
  split
  · rfl
  · rw [State.kick_gauges]; split <;> rfl
@[simp] theorem State.failWrite_gauges (s : State) : s.failWrite.gauges = s.gauges := by
  unfold State.failWrite
  split
  · rfl
  · dsimp only; split <;> rfl
@[simp] theorem State.clearFault_gauges (s : State) : s.clearFault.gauges = s.gauges := by
  unfold State.clearFault
  split
  · rw [State.kick_gauges]; rfl
  · rfl

/-! ## The deferral, the lamp's records beside its state -/

@[simp] theorem State.endDeferral_gauges (s : State) (n : Nat) : (s.endDeferral n).gauges = s.gauges := by
  unfold State.endDeferral; split <;> rfl
@[simp] theorem State.touch_gauges (s : State) (r : Requester) : (s.touch r).gauges = s.gauges := by rw [State.touch_eq]; rfl
@[simp] theorem State.lampOffEndsDeferral_gauges (s : State) (r : Requester) : (s.lampOffEndsDeferral r).gauges = s.gauges := by
  unfold State.lampOffEndsDeferral; split <;> simp
@[simp] theorem State.examineDeferral_gauges (s : State) : s.examineDeferral.gauges = s.gauges := by
  unfold State.examineDeferral; split <;> rfl
@[simp] theorem State.lampLevel_gauges (s : State) (l : Level) : (s.lampLevel l).1.gauges = s.gauges := by
  unfold State.lampLevel; dsimp only; split <;> rfl
@[simp] theorem State.recallLevel_gauges (s : State) (r : Requester) (l : SceneLevel) : (s.recallLevel r l).1.gauges = s.gauges := by
  unfold State.recallLevel; (repeat' split) <;> simp
@[simp] theorem State.dropPendingOn_gauges (s : State) : s.dropPendingOn.gauges = s.gauges := by
  unfold State.dropPendingOn; (repeat' split) <;> rfl
@[simp] theorem State.dropNotice_gauges (s : State) (a : Option LampAsker) : (s.dropNotice a).gauges = s.gauges := by
  unfold State.dropNotice; split <;> rfl
@[simp] theorem State.decideRestrike_gauges (s : State) (b : Bool) : (s.decideRestrike b).gauges = s.gauges := by
  unfold State.decideRestrike; (repeat' split) <;> rfl

/-! ## The floor but for its elect, and the recall in flight -/

@[simp] theorem State.tellHolder_gauges (s : State) (f : Floor) : (s.tellHolder f).gauges = s.gauges := by
  unfold State.tellHolder; split <;> rfl
@[simp] theorem State.mark_gauges (s : State) (c : Cmd) (v : Verdict) : (s.mark c v).gauges = s.gauges := by
  unfold State.mark; split <;> rfl
@[simp] theorem State.freeBarredHolder_gauges (s : State) (k : LockKind) : (s.freeBarredHolder k).gauges = s.gauges := by
  unfold State.freeBarredHolder
  split
  · split
    · rw [State.tellHolder_gauges]; rfl
    · rfl
  · rfl
@[simp] theorem State.endRecall_gauges (s : State) (n : InputIdx) : (s.endRecall n).gauges = s.gauges := by
  rw [State.endRecall_eq]; rfl
@[simp] theorem State.takeRecall_gauges (s : State) (k : SceneIdx) (r : Requester) (n : InputIdx) (v : Verdict) :
    (s.takeRecall k r n v).gauges = s.gauges := by unfold State.takeRecall; split <;> rfl
@[simp] theorem State.joinRecall_gauges (s : State) (w : Switch) (r : Requester) (n : InputIdx) :
    (s.joinRecall w r n).gauges = s.gauges := by unfold State.joinRecall; split <;> rfl
@[simp] theorem State.askBusy_gauges (s : State) (w : Switch) (r : Requester) (n : InputIdx) :
    (s.askBusy w r n).1.gauges = s.gauges := by rw [State.askBusy_eq]; rfl
@[simp] theorem State.abortPending_gauges (s : State) : s.abortPending.gauges = s.gauges := by
  unfold State.abortPending; split <;> rfl

/-! ## The start -/

@[simp] theorem State.startNotices_gauges (s : State) : s.startNotices.gauges = s.gauges := by
  have h : ∀ (l : List LockKind) (t : State), (l.foldl (fun t k =>
      match s.lockouts.find? fun l => l.kind == k with
      | some l => t.notify (inForceNotice k l.origin)
      | none => t) t).gauges = t.gauges := by
    intro l
    induction l with
    | nil => intro t; rfl
    | cons k l ih =>
      intro t
      rw [List.foldl_cons, ih]
      split <;> rfl
  exact h allKinds s

end Sys2Proof.Machine
end

