-- ==== Sys2Proof/Proofs/GaugeSteps.lean ====
section
/-! SUPPORT. The ranges, the keystone limits and the wear state through the operations that move them: the lockout set, the wear counter,
the lamp, the link's counts, the source records, the keystone pairs and the floor's elect. -/

namespace Sys2Proof.Machine

/-! ## What an action keeps -/

/-- From the gauges o to g the pairs stay within their limits and the counts in their ranges; and the wear state stays the band of the
ratio, once the thresholds have been tested (R71). -/
structure Gauges.Kept (tested : Bool) (o g : Gauges) : Prop where
  pairs : o.pairs.Fitted → g.pairs.Fitted
  ranges : o.counts.InRange → g.counts.InRange
  band : tested = true → o.Banded → g.Banded

/-- An action that began with the gauges o has kept them up to s. -/
abbrev Kept (tested : Bool) (o : Gauges) (s : State) : Prop := o.Kept tested s.gauges

theorem Kept.refl (s : State) : Kept true s.gauges s := ⟨id, id, fun _ => id⟩

section
variable {b : Bool} {o : Gauges} {s t : State}

theorem Kept.same (h : Kept b o s) (ht : t.gauges = s.gauges) : Kept b o t := by
  unfold Kept
  rw [ht]
  exact h

/-- A change of the pairs alone. -/
theorem Kept.paired (h : Kept b o s) (hr : t.gauges.counts = s.gauges.counts) (hb : t.gauges.band = s.gauges.band)
    (hp : o.pairs.Fitted → s.gauges.pairs.Fitted → t.gauges.pairs.Fitted) : Kept b o t :=
  ⟨fun ho => hp ho (h.pairs ho), fun ho => hr ▸ h.ranges ho, fun ht ho => by unfold Gauges.Banded; rw [hr, hb]; exact h.band ht ho⟩

/-- A change of the counts that leaves the wear ratio alone. -/
theorem Kept.ranged (h : Kept b o s) (hp : t.gauges.pairs = s.gauges.pairs) (hb : s.gauges.Banded → t.gauges.Banded)
    (hr : s.gauges.counts.InRange → t.gauges.counts.InRange) : Kept b o t :=
  ⟨fun ho => hp ▸ h.pairs ho, fun ho => hr (h.ranges ho), fun ht ho => hb (h.band ht ho)⟩

/-- A change of the counts with the thresholds still to be tested. -/
theorem Kept.charged (h : Kept b o s) (hp : t.gauges.pairs = s.gauges.pairs)
    (hr : s.gauges.counts.InRange → t.gauges.counts.InRange) : Kept false o t :=
  ⟨fun ho => hp ▸ h.pairs ho, fun ho => hr (h.ranges ho), nofun⟩

/-! ## Fields with no range beside one that has -/

theorem Kept.engine (h : Kept b o s) {e : Engine} (he : e.linkNext = s.engine.linkNext) : Kept b o (s.setEngine e) :=
  h.ranged rfl id fun r => { r with link := by change 1 ≤ e.linkNext ∧ e.linkNext ≤ 255; rw [he]; exact r.link }

theorem Kept.geo (h : Kept b o s) {g : Geometry} (hg : g.nextSeq = s.geo.nextSeq) : Kept b o (s.setGeo g) :=
  h.ranged rfl id fun r => { r with seq := hg.trans_le r.seq }

theorem Kept.lamp (h : Kept b o s) {x : Lamp} (ha : x.attempts = s.lamp.attempts) (hx : x.state = s.lamp.state) :
    Kept b o (s.setLamp x) :=
  h.ranged rfl id fun r => { r with attempts := ha.trans_le r.attempts, pausing := fun e => ha.trans_lt (r.pausing (hx.symm.trans e)) }

/-! ## The lockout set (R158 to R167) -/

theorem Kept.lockouts (h : Kept b o s) {l : List Lockout} (hl : (∀ x ∈ s.lockouts, x.Timed) → ∀ x ∈ l, x.Timed) :
    Kept b o (s.setLockouts l) := h.ranged rfl id fun r => { r with lockouts := hl r.lockouts }

/-- A record without an expiry. -/
theorem Lockout.timed_of_none {l : Lockout} (h : l.expiry = none) : l.Timed := by
  unfold Lockout.Timed
  rw [h]
  exact nofun

theorem Lockout.Timed.congr {l m : Lockout} (h : l.Timed) (he : m.expiry = l.expiry) : m.Timed := by
  unfold Lockout.Timed
  rw [he]
  exact h

theorem forall_mem_insertLockout {l : Lockout} {ls : List Lockout} (hl : l.Timed) (hs : ∀ x ∈ ls, x.Timed) :
    ∀ x ∈ insertLockout l ls, x.Timed := fun x hx => by
  obtain rfl | hx := mem_insertLockout hx
  · exact hl
  · exact hs x hx

/-- Records changed in place, their expiries kept. -/
theorem forall_mem_map_expiry {ls : List Lockout} {f : Lockout → Lockout} (hf : ∀ l, (f l).expiry = l.expiry)
    (hs : ∀ x ∈ ls, x.Timed) : ∀ x ∈ ls.map f, x.Timed :=
  List.forall_mem_map.mpr fun l hl => (hs l hl).congr (hf l)

theorem Kept.insert (h : Kept b o s) {l : Lockout} (hl : l.Timed) : Kept b o (s.setLockouts (insertLockout l s.lockouts)) :=
  h.lockouts (forall_mem_insertLockout hl)

theorem Kept.addLockout (h : Kept b o s) {l : Lockout} (hl : l.Timed) : Kept b o (s.addLockout l) := by
  unfold State.addLockout
  dsimp only
  split <;> exact h.insert hl

theorem Kept.removeLockouts (h : Kept b o s) (gone : Lockout → Bool) : Kept b o (s.removeLockouts gone) := by
  rw [State.removeLockouts_eq]
  exact h.lockouts fun hs x hx => hs x (List.mem_of_mem_filter hx)

theorem Kept.saveLockouts (h : Kept b o s) : Kept b o s.saveLockouts := h.same s.saveLockouts_gauges

theorem Lockout.expire_expiry (l : Lockout) : l.expire.expiry = l.expiry := by unfold Lockout.expire; split <;> rfl

theorem Kept.addLampLock (h : Kept b o s) (reason : LockReason) : Kept b o (s.addLampLock reason) := by
  unfold State.addLampLock
  split
  · exact (h.addLockout (Lockout.timed_of_none rfl)).saveLockouts
  · split
    · exact (h.lockouts (forall_mem_map_expiry Lockout.expire_expiry)).saveLockouts
    · exact h

theorem Kept.removeLampLock (h : Kept b o s) (which : Lockout → Bool) : Kept b o (s.removeLampLock which) := by
  unfold State.removeLampLock
  split
  · exact (h.removeLockouts _).saveLockouts
  · exact h

theorem Kept.addThermal (h : Kept b o s) : Kept b o s.addThermal := by
  unfold State.addThermal
  split
  · exact h
  · exact h.addLockout (Lockout.timed_of_none rfl)

theorem Kept.examineThermal (h : Kept b o s) : Kept b o s.examineThermal := by
  unfold State.examineThermal
  split
  · exact h
  · exact h.removeLockouts _

theorem Kept.renameSchedule (h : Kept b o s) (e : EntryIdx) : Kept b o (s.renameSchedule e) :=
  h.lockouts (forall_mem_map_expiry fun l => by split <;> rfl)

/-! ## The wear counter (R66 to R71) -/

theorem WearRecord.valid_iff (r : WearRecord) : r.valid = true ↔
    r.wu ≤ Config.top32 ∧ r.lit ≤ 59 ∧ r.realMinutes ≤ Config.top32 ∧ r.strikes ≤ Config.top16 ∧ r.dropOuts ≤ Config.top16
      ∧ r.uncleanOffs ≤ Config.top16 ∧ r.replacements ≤ Config.top8 ∧ r.reinstatements ≤ Config.top8 := by
  simp [WearRecord.valid]

theorem satAdd_le (top n k : Nat) : satAdd top n k ≤ top := by unfold satAdd; exact Nat.min_le_left _ _

theorem Kept.checkpoint (h : Kept b o s) : Kept b o s.checkpoint := by
  have zeroed : Kept b o (s.setWear { s.wear with sinceCheckpoint := 0 }) :=
    h.ranged rfl id fun r => { r with since := Nat.zero_lt_succ 14 }
  refine zeroed.same ?_
  rw [s.checkpoint_onlySaved.1]
  rfl

/-- A change of the record that leaves the WU alone. -/
theorem Kept.recorded (h : Kept b o s) {r : WearRecord} (hv : s.wear.record.valid = true → r.valid = true)
    (hw : r.wu = s.wear.record.wu) : Kept b o (s.setRecord r) :=
  h.ranged rfl (fun hb => hb.trans (by change _ = bandOfRatio (wearRatio r.wu s.wear.ratedLife); rw [hw]; rfl))
    fun c => { c with record := hv c.record }

/-- Once the thresholds are tested the wear state is the band of the ratio, whatever it was before (R71). -/
theorem Kept.testThresholds (h : Kept b o s) : Kept true o s.testThresholds := by
  have locked : (∀ x ∈ s.lockouts, x.Timed) → ∀ x ∈ s.rebanded.lockouts, x.Timed := fun hs => by
    unfold State.rebanded
    dsimp only
    split
    · split
      · exact forall_mem_insertLockout (Lockout.timed_of_none rfl) hs
      · exact forall_mem_map_expiry (fun l => by split <;> rfl) hs
    · exact hs
  have moved : Kept true o s.rebandedRaised :=
    ⟨h.pairs, fun ho => { h.ranges ho with lockouts := locked (h.ranges ho).lockouts }, fun _ _ => rfl⟩
  rw [State.testThresholds_eq]
  split
  · exact moved.saveLockouts
  · exact moved

theorem Kept.bookDropOut (h : Kept b o s) : Kept b o s.bookDropOut := by
  refine h.recorded (fun hv => ?_) rfl
  obtain ⟨hwu, hlit, hmin, hstr, _, hunc, hrep, hrei⟩ := (WearRecord.valid_iff _).mp hv
  exact (WearRecord.valid_iff _).mpr ⟨hwu, hlit, hmin, hstr, satAdd_le _ _ _, hunc, hrep, hrei⟩

theorem Kept.bookUnclean (h : Kept b o s) : Kept b o s.bookUnclean := by
  refine h.recorded (fun hv => ?_) rfl
  obtain ⟨hwu, hlit, hmin, hstr, hdrop, _, hrep, hrei⟩ := (WearRecord.valid_iff _).mp hv
  exact (WearRecord.valid_iff _).mpr ⟨hwu, hlit, hmin, hstr, hdrop, satAdd_le _ _ _, hrep, hrei⟩

theorem Kept.bookCooldown (h : Kept b o s) : Kept b o s.bookCooldown :=
  Kept.checkpoint (h.ranged (t := s.setWear { s.wear with running := false, record := { s.wear.record with litMarker := false } }) rfl id
    fun r => { r with record := r.record })

theorem Kept.countMinute (h : Kept b o s) : Kept b o s.countMinute := by
  unfold State.countMinute
  split
  · exact h.checkpoint
  · rename_i hn
    exact h.ranged rfl id fun r => { r with since := lt_of_le_of_ne r.since hn }

theorem Kept.litSecond (h : Kept true o s) : Kept true o s.litSecond := by
  unfold State.litSecond
  split
  · exact h
  · split
    · rename_i hl
      refine h.recorded (fun hv => ?_) rfl
      obtain ⟨hwu, _, hrest⟩ := (WearRecord.valid_iff _).mp hv
      exact (WearRecord.valid_iff _).mpr ⟨hwu, Nat.le_of_lt_succ hl, hrest⟩
    · refine Kept.testThresholds (b := false) (Kept.countMinute (h.charged rfl fun r => { r with record := ?_ }))
      obtain ⟨_, _, _, hstr, hrest⟩ := (WearRecord.valid_iff _).mp r.record
      exact (WearRecord.valid_iff _).mpr ⟨satAdd_le _ _ _, Nat.zero_le _, satAdd_le _ _ _, hstr, hrest⟩

/-! ## The lamp (R47 to R59) -/

/-- The lamp enters a state with no attempt counted: any but the retry pause (R47). -/
theorem Kept.lampMoved (h : Kept b o s) {x : Lamp} (ha : x.attempts = s.lamp.attempts) (hx : x.state ≠ .retryPause) :
    Kept b o (s.setLamp x) :=
  h.ranged rfl id fun r => { r with attempts := ha.trans_le r.attempts, pausing := fun e => absurd e hx }

theorem Kept.enterLamp (h : Kept b o s) {l : LampState} {timer : Option Nat} (hl : l ≠ .retryPause) :
    Kept b o (s.enterLamp l timer) :=
  h.lampMoved (x := { s.lamp with state := l, timer := timer, run := s.lamp.nextRun timer }) rfl hl

theorem State.strikeAttempt_le {s : State} (h : s.gauges.counts.InRange) : s.strikeAttempt ≤ Config.maxAttempts := by
  unfold State.strikeAttempt
  split
  · rename_i hl
    exact h.pausing hl
  · decide

theorem WearRecord.struck_valid {r : WearRecord} (h : r.valid = true) : r.struck.valid = true := by
  obtain ⟨_, hlit, hmin, _, hrest⟩ := (WearRecord.valid_iff _).mp h
  exact (WearRecord.valid_iff _).mpr ⟨Nat.min_le_left _ _, hlit, hmin, Nat.min_le_left _ _, hrest⟩

/-- A strike counts an attempt and is charged (R47, R69). -/
theorem Kept.strike (h : Kept b o s) : Kept true o s.strike := by
  have sparked : Kept false o s.sparked := h.charged rfl fun r =>
    { r with record := WearRecord.struck_valid r.record, attempts := State.strikeAttempt_le r, pausing := nofun }
  rw [State.strike_eq]
  exact sparked.checkpoint.testThresholds

theorem Kept.enterCooldown (h : Kept b o s) (n : Nat) (f : Bool) : Kept b o (s.enterCooldown n f) := by
  unfold State.enterCooldown
  exact ((h.lamp (by rfl) (by rfl)).enterLamp (by decide)).bookCooldown

theorem Kept.enterRest (h : Kept b o s) {l : LampState} (hl : l ≠ .retryPause) : Kept b o (s.enterRest l) := by
  unfold State.enterRest
  exact (h.lamp (by rfl) (by rfl)).enterLamp hl

theorem Kept.leaveFault (h : Kept b o s) : Kept b o s.leaveFault := by
  unfold State.leaveFault
  split
  · exact h.enterLamp (by decide)
  · exact h

theorem Kept.lampOn (h : Kept true o s) (r : Requester) : Kept true o (s.lampOn r).1 := by
  unfold State.lampOn
  split
  · exact h.strike
  all_goals exact h

theorem Kept.lampOff (h : Kept b o s) : Kept b o s.lampOff.1 := by
  unfold State.lampOff
  split <;> first | exact h | exact h.enterCooldown _ _

theorem Kept.senseRise (h : Kept b o s) : Kept b o s.senseRise := by
  unfold State.senseRise
  split
  · exact h.enterLamp (by decide)
  · exact h

/-- The retry pause is entered with an attempt to spare (R49). -/
theorem Kept.strikeFails (h : Kept b o s) : Kept b o s.strikeFails := by
  unfold State.strikeFails
  split
  · exact h
  · split
    · rename_i ha
      exact h.ranged rfl id fun r => { r with pausing := fun _ => ha }
    · exact h.enterCooldown _ _

theorem Kept.retryEnds (h : Kept true o s) : Kept true o s.retryEnds := by
  unfold State.retryEnds
  split
  · exact h
  · split
    · exact h.enterCooldown _ _
    · exact h.strike

theorem Kept.warmupEnds (h : Kept b o s) : Kept b o s.warmupEnds := by
  unfold State.warmupEnds
  split
  · exact h
  · dsimp only
    split
    · exact ((h.lamp (by rfl) (by rfl)).enterLamp (by decide)).enterCooldown _ _
    · exact (h.lamp (by rfl) (by rfl)).enterLamp (by decide)

theorem Kept.senseFall (h : Kept b o s) : Kept b o s.senseFall := by
  have fallen : Kept b o ((s.bookDropOut.enterCooldown Config.coolSeconds false).decideRestrike s.lamp.heldOff) :=
    (h.bookDropOut.enterCooldown Config.coolSeconds false).same (State.decideRestrike_gauges _ _)
  unfold State.senseFall
  split <;> first | exact fallen | exact h

theorem Kept.heat (h : Kept b o s) : Kept b o s.heat := by
  have cooled : Kept b o s.heatLamp := by
    unfold State.heatLamp
    split <;> first | exact h | exact h.enterCooldown _ _
  exact cooled.addThermal

/-! ## The link's number and the table's sequence number (R91, R118) -/

theorem nextLink_range (n : Nat) : 1 ≤ nextLink n ∧ nextLink n ≤ 255 := by
  unfold nextLink
  split <;> omega

theorem Kept.bumpLink (h : Kept b o s) : Kept b o s.bumpLink := h.ranged rfl id fun r => { r with link := nextLink_range _ }

theorem Kept.sendTable (h : Kept b o s) (t : BandTable) : Kept b o (s.sendTable t) := by
  have taken : Kept b o (s.setGeo { s.geo with
      inTransfer := some { num := s.engine.linkNext, seq := s.geo.nextSeq, table := t }, nextSeq := (s.geo.nextSeq + 1) % 256 }) :=
    h.ranged rfl id fun r => { r with seq := Nat.le_of_lt_succ (Nat.mod_lt _ (by decide)) }
  exact taken.bumpLink

theorem Kept.recompute (h : Kept b o s) (forced : Bool) : Kept b o (s.recompute forced) := by
  have computed : Kept b o (s.setGeo { s.geo with last := s.computed }) := h
  unfold State.recompute State.hand
  (repeat' split) <;> first | exact computed | exact computed.sendTable _

theorem Kept.tellAspect (h : Kept b o s) (old : AspectClass) : Kept b o (s.tellAspect old) := by
  unfold State.tellAspect
  split
  · exact h
  · exact h.recompute _

theorem Kept.tellPair (h : Kept b o s) (old : Keystone) : Kept b o (s.tellPair old) := by
  unfold State.tellPair
  split
  · exact h
  · exact h.recompute _

theorem Kept.tableApplied (h : Kept b o s) (t : Transfer) : Kept b o (s.tableApplied t) := by
  unfold State.tableApplied
  dsimp only
  split
  · rename_i q _
    exact (h.geo (by rfl)).sendTable q
  · exact h

theorem Kept.compareBlank (h : Kept b o s) : Kept b o s.compareBlank := by
  have sent : ∀ k, Kept b o (s.sendBlank k) := fun k => by
    unfold State.sendBlank
    exact (h.engine (by rfl)).bumpLink
  unfold State.compareBlank
  (repeat' split) <;> first | exact h | exact sent _

theorem Kept.watchBlank (h : Kept b o s) : Kept b o s.watchBlank := by
  unfold State.watchBlank
  split
  · exact h
  · exact (h.engine (by rfl)).compareBlank

/-! ## The source records (R83 to R87) -/

/-- Every member of a vector but the one replaced is the old one's. -/
theorem forall_mem_set {α : Type} {n : Nat} {v : Vector α n} {p : α → Prop} (h : ∀ x ∈ v.toList, p x) {i : Nat} (hi : i < n) {y : α}
    (hy : p y) : ∀ x ∈ (v.set i y hi).toList, p x := fun x hx => by
  rw [Vector.toList_set] at hx
  rcases List.mem_or_eq_of_mem_set hx with hx | rfl
  · exact h x hx
  · exact hy

theorem getElem_of_forall {α : Type} {n : Nat} {v : Vector α n} {p : α → Prop} (h : ∀ x ∈ v.toList, p x) {i : Nat} (hi : i < n) :
    p v[i] := h _ (Vector.mem_toList_iff.mpr (Vector.getElem_mem hi))

theorem Kept.setSource (h : Kept b o s) (n : InputIdx) {c : Source} (hc : SourceInRange (s.source n) → SourceInRange c) :
    Kept b o (s.setSource n c) :=
  h.ranged rfl id fun r => { r with sources := forall_mem_set r.sources n.isLt (hc (getElem_of_forall r.sources n.isLt)) }

theorem Kept.clearTiming (h : Kept b o s) (n : InputIdx) : Kept b o (s.clearTiming n) := h.setSource n fun hc => ⟨hc.1, nofun, hc.2.2⟩

theorem Kept.forget (h : Kept b o s) (n : InputIdx) : Kept b o (s.forget n) := h.setSource n fun hc => ⟨hc.1, hc.2.1, nofun⟩

/-! ## Switches up to their end (R93 to R101) -/

theorem Kept.attempt (h : Kept b o s) (w : Switch) (m : LockMode) : Kept b o (s.attempt w m) := by
  unfold State.attempt
  exact (h.engine (by rfl)).bumpLink

theorem Kept.enterLocking (h : Kept b o s) (w : Switch) : Kept b o (s.enterLocking w) := by
  unfold State.enterLocking
  exact (h.engine (by rfl)).attempt _ _

theorem Kept.route (h : Kept b o s) (w : Switch) : Kept b o (s.route w) := by
  have left : Kept b o (if s.engine.routed = w.target then s else s.clearTiming s.engine.routed) := by
    split
    · exact h
    · exact h.clearTiming _
  unfold State.route
  exact (((left.engine (by rfl)).clearTiming w.target).tellAspect _).watchBlank.enterLocking w

theorem Kept.endMuting (h : Kept b o s) : Kept b o s.endMuting := by
  unfold State.endMuting
  split
  · split
    · exact h.route _
    · exact h
  · exact h

theorem Kept.enterApplying (h : Kept b o s) (w : Switch) : Kept b o (s.enterApplying w) := by
  unfold State.enterApplying
  exact (h.engine (by rfl)).recompute true

theorem Kept.startSwitch (h : Kept b o s) (kind : SwitchKind) (n : InputIdx) (r : Option Requester) :
    Kept b o (s.startSwitch kind n r) := by
  unfold State.startSwitch
  dsimp only
  split
  · exact (h.engine (by rfl)).enterApplying _
  · exact ((h.engine (by rfl)).engine (by rfl)).compareBlank.endMuting

theorem Kept.wantRelock (h : Kept b o s) : Kept b o s.wantRelock := by
  unfold State.wantRelock
  split
  · exact h.startSwitch _ _ _
  · exact h.attempt _ _
  all_goals exact h

theorem Kept.selectInput (h : Kept b o s) (r : Requester) (n : InputIdx) : Kept b o (s.selectInput r n).1 := by
  unfold State.selectInput
  split
  · exact h
  · split
    · exact h.same (s.askBusy_gauges _ _ _)
    · split
      · exact h
      · exact h.startSwitch _ _ _

theorem Kept.mute (h : Kept b o s) (m : Bool) : Kept b o (s.mute m) := by
  unfold State.mute
  exact (h.engine (by rfl)).watchBlank

/-! ## Keystone pairs (R109, R110, R125 to R129) -/

theorem Keystone.inLimits_iff (k : Keystone) : Keystone.inLimits k = true ↔
    -30 ≤ k.v ∧ k.v ≤ 30 ∧ -20 ≤ k.h ∧ k.h ≤ 20 ∧ 3 * |k.v| + 4 * |k.h| ≤ 120 := by simp [Keystone.inLimits]

/-- Step 2 of R109 brings a pair whose coordinates are each within their limit within the limits together. -/
theorem budget_inLimits {k : Keystone} (hv : -30 ≤ k.v ∧ k.v ≤ 30) (hh : -20 ≤ k.h ∧ k.h ≤ 20) :
    Keystone.inLimits (budget k) = true := by
  have hav : |k.v| ≤ 30 := abs_le.mpr hv
  have hpos : 0 ≤ |k.v| := abs_nonneg _
  rw [Keystone.inLimits_iff]
  unfold budget
  split
  · exact ⟨hv.1, hv.2, hh.1, hh.2, ‹_›⟩
  · rename_i hover
    have hah : |k.h| ≤ 20 := abs_le.mpr hh
    dsimp only
    generalize hq : (120 - 3 * |k.v|) / 4 = q
    have hq0 : 0 ≤ q := by omega
    have habs : |if k.h < 0 then -q else q| = q := by
      split
      · rw [abs_neg, abs_of_nonneg hq0]
      · exact abs_of_nonneg hq0
    have hlim : -20 ≤ (if k.h < 0 then -q else q) ∧ (if k.h < 0 then -q else q) ≤ 20 := by rw [← abs_le, habs]; omega
    rw [habs]
    exact ⟨hv.1, hv.2, hlim.1, hlim.2, by omega⟩

theorem clampKeystone_inLimits (k : Keystone) : Keystone.inLimits (clampKeystone k) = true := by
  unfold clampKeystone clampInt
  exact budget_inLimits ⟨by dsimp only; omega, by dsimp only; omega⟩ ⟨by dsimp only; omega, by dsimp only; omega⟩

theorem nudge_inLimits {k : Keystone} (h : Keystone.inLimits k = true) (d : Direction) : Keystone.inLimits ((nudge k d).1) = true := by
  obtain ⟨hv1, hv2, hh1, hh2, _⟩ := (Keystone.inLimits_iff k).mp h
  unfold nudge limitedMove
  dsimp only
  split
  · exact budget_inLimits ⟨hv1, hv2⟩ ⟨hh1, hh2⟩
  · exact budget_inLimits (by omega) (by omega)

/-- The effective pair is a stored or a trial pair (R126). -/
theorem State.effectivePair_inLimits {s : State} (h : s.gauges.pairs.Fitted) (p : ProfileIdx) :
    Keystone.inLimits (s.effectivePair p) = true := by
  have stored : Keystone.inLimits s.profiles.stored[p] = true :=
    getElem_of_forall (p := fun k => Keystone.inLimits k = true) h.stored p.isLt
  unfold State.effectivePair
  split
  · rename_i t _
    have slot : trialOk (s.slot t) = true := getElem_of_forall (p := fun x => trialOk x = true) h.slots t.isLt
    cases hs : s.slot t with
    | none => exact stored
    | some x => rw [hs] at slot; exact slot
  · exact stored

theorem Kept.setSlot (h : Kept b o s) (t : SlotIdx) {x : Option Trial} (hx : o.pairs.Fitted → trialOk x = true) :
    Kept b o (s.setSlot t x) :=
  h.paired rfl rfl fun ho f => { f with slots := forall_mem_set (p := fun x => trialOk x = true) f.slots t.isLt (hx ho) }

theorem Kept.setStored (h : Kept b o s) (p : ProfileIdx) {k : Keystone} (hk : o.pairs.Fitted → Keystone.inLimits k = true) :
    Kept b o (s.setStored p k) :=
  h.paired rfl rfl fun ho f => { f with stored := forall_mem_set (p := fun k => Keystone.inLimits k = true) f.stored p.isLt (hk ho) }

theorem Kept.writePair (h : Kept b o s) (p : ProfileIdx) {k : Keystone} (hk : o.pairs.Fitted → Keystone.inLimits k = true) :
    Kept b o (s.writePair p k) := by
  unfold State.writePair
  dsimp only
  split
  · exact (h.setSlot (x := some { target := p, pair := k }) _ hk).tellPair _
  · exact ((h.setStored p hk).same (State.queueRecord_gauges _ _)).tellPair _

theorem Kept.nudgePair (h : Kept b o s) (p : ProfileIdx) (d : Direction) : Kept b o (s.nudgePair p d).1 :=
  h.writePair p fun ho => nudge_inLimits (State.effectivePair_inLimits (h.pairs ho) p) d

theorem Kept.selectProfile (h : Kept b o s) (p : ProfileIdx) : Kept b o (s.selectProfile p) := by
  unfold State.selectProfile
  split
  · exact h
  · exact Kept.recompute (s := s.setProfiles { s.profiles with active := p }) h _

theorem Kept.discardTrial (h : Kept b o s) (t : SlotIdx) : Kept b o (s.discardTrial t) := by
  have emptied : Kept b o (s.setSlot t none) := h.setSlot t fun _ => rfl
  unfold State.discardTrial
  split
  · exact h
  · split
    · exact emptied.recompute _
    · exact emptied

theorem Kept.openTrial (h : Kept b o s) (t : SlotIdx) (p : ProfileIdx) : Kept b o (s.openTrial t p) := by
  have hd := h.discardTrial t
  have taken : Kept b o ((s.discardTrial t).setSlot t (some { target := p, pair := (s.discardTrial t).effectivePair p })) :=
    hd.setSlot t fun ho => State.effectivePair_inLimits (hd.pairs ho) p
  unfold State.openTrial State.enableTrial
  dsimp only
  split
  · exact taken.recompute _
  · exact taken

theorem Kept.commitTrial (h : Kept b o s) (t : SlotIdx) : Kept b o (s.commitTrial t) := by
  unfold State.commitTrial
  split
  · exact h
  · rename_i x hx
    have pair : o.pairs.Fitted → Keystone.inLimits x.pair = true := fun ho => by
      have slot : trialOk (s.slot t) = true := getElem_of_forall (p := fun x => trialOk x = true) (h.pairs ho).slots t.isLt
      rw [hx] at slot
      exact slot
    have written : Kept b o (((s.setStored x.target x.pair).queueRecord (.profile x.target)).setSlot t none) :=
      ((h.setStored x.target pair).same (State.queueRecord_gauges _ _)).setSlot t fun _ => rfl
    dsimp only
    split
    · exact written.recompute _
    · exact written

theorem Kept.setAspect (h : Kept b o s) (n : InputIdx) (a : AspectOverride) : Kept b o (s.setAspect n a) :=
  (Kept.tellAspect (h.setSource n (c := { s.source n with settings := { (s.source n).settings with aspect := a }, remembered := none })
    fun hc => ⟨hc.1, hc.2.1, nofun⟩) _).same (State.queueRecord_gauges _ _)

/-! ## The floor (R27 to R38) -/

theorem Kept.setElect (h : Kept b o s) {e : Option (Requester × Cmd)} (he : o.pairs.Fitted → electPairOk e = true) :
    Kept b o (s.setElect e) := h.paired rfl rfl fun ho f => { f with elect := he ho }

theorem Kept.dropElect (h : Kept b o s) (n : Nat) : Kept b o (s.dropElect n) := by
  unfold State.dropElect
  split
  · exact h.setElect fun _ => rfl
  · exact h

theorem Kept.holdDropsElect (h : Kept b o s) : Kept b o s.holdDropsElect := by
  unfold State.holdDropsElect
  (repeat' split) <;> first | exact h | exact h.dropElect _

theorem Kept.becomeElect (h : Kept b o s) {r : Requester} {c : Cmd} (hc : o.pairs.Fitted → electPairOk (some (r, c)) = true) :
    Kept b o (s.becomeElect r c) := by
  unfold State.becomeElect
  split <;> exact h.setElect hc

theorem Kept.dropBarredElect (h : Kept b o s) (k : LockKind) : Kept b o (s.dropBarredElect k) := by
  unfold State.dropBarredElect
  (repeat' split) <;> first | exact h | exact h.dropElect _

theorem Kept.recallPower (h : Kept true o s) (r : Requester) (p : ScenePower) : Kept true o (s.recallPower r p) := by
  have asked : Kept true o (if s.issuePasses r .lampOn then (s.lampOn r).1 else s) := by
    split
    · exact h.lampOn r
    · exact h
  unfold State.recallPower
  split <;> first | exact asked | exact h

theorem Kept.recallInput (h : Kept b o s) (r : Requester) (n : InputIdx) (c : Bool) : Kept b o (s.recallInput r n c).1 := by
  unfold State.recallInput
  (repeat' split) <;> first | exact h | exact h.startSwitch _ _ _ | exact h.same (by simp)

theorem Kept.runRecall (h : Kept true o s) (r : Requester) (k : SceneIdx) : Kept true o (s.runRecall r k).1 := by
  have leveled : Kept true o ((s.recallPower r s.scenes[k].power).recallLevel r s.scenes[k].level).1 :=
    (h.recallPower r _).same (State.recallLevel_gauges _ _ _)
  exact (((leveled.mute _).selectProfile _).recallInput r _ _).same (State.takeRecall_gauges _ _ _ _ _)

/-- The owners of floor commands, the pair of a SET_KEYSTONE being within the limits (R26, R27). -/
theorem Kept.ownerActs (h : Kept true o s) {r : Requester} {c : Cmd} (hc : o.pairs.Fitted → electPairOk (some (r, c)) = true) :
    Kept true o (s.ownerActs r c).1 := by
  cases c
  case selectInput n => exact h.selectInput r n
  case recallScene k => exact h.runRecall r k
  case setMute | clearMute => exact h.mute _
  case selectProfile p => exact h.selectProfile p
  case setKeystone p k => exact h.writePair p hc
  case nudgeKeystone p d => exact h.nudgePair p d
  all_goals exact h

theorem Kept.proceed (h : Kept true o s) (f : Floor) {r : Requester} {c : Cmd}
    (hc : o.pairs.Fitted → electPairOk (some (r, c)) = true) : Kept true o (s.proceed f r c).1 := by
  unfold State.proceed
  split
  · have held : Kept true o ((s.setFloor { s.floor with hold := true }).tellHolder f) := h.same (State.tellHolder_gauges _ _)
    dsimp only
    split
    · exact held
    · exact held.holdDropsElect
  · exact (Kept.ownerActs (h.same (s.tellHolder_gauges f)) hc).same (State.mark_gauges _ _ _)

theorem Kept.handOver (h : Kept true o s) (f : Floor) : Kept true o (s.handOver f) := by
  have cleared : Kept true o (s.setElect none) := h.setElect fun _ => rfl
  unfold State.handOver
  split
  · exact h.same (s.tellHolder_gauges f)
  · rename_i r c he
    split
    · exact cleared.same (State.tellHolder_gauges _ _)
    · refine Kept.proceed (s := (s.setElect none).passFloor r) cleared f fun ho => ?_
      rw [← he]
      exact (h.pairs ho).elect

theorem Kept.chainEnds (h : Kept true o s) : Kept true o s.chainEnds := by
  have cleared : Kept true o (s.setFloor { s.floor with marker := false }) := h
  unfold State.chainEnds State.unitEnd
  split
  · split
    · exact Kept.handOver (s := (s.setFloor { s.floor with marker := false }).freeFloor) cleared _
    · exact cleared.handOver _
  · exact h

theorem Kept.releaseBy (h : Kept true o s) (r : Requester) : Kept true o (s.releaseBy r) := by
  unfold State.releaseBy
  split
  · exact Kept.handOver (s := s.freeFloor) h _
  · exact h

theorem Kept.loseStanding (h : Kept true o s) (r : Requester) : Kept true o (s.loseStanding r) := by
  unfold State.loseStanding
  split
  · exact Kept.handOver (s := s.freeFloor) h _
  · split
    · split
      · exact h.dropElect 0
      · exact h
    · exact h

theorem Kept.floorIntake (h : Kept true o s) {r : Requester} {c : Cmd} (hc : o.pairs.Fitted → electPairOk (some (r, c)) = true) :
    Kept true o (s.floorIntake r c).1 := by
  have touched : Kept true o (s.touch r) := h.same (s.touch_gauges r)
  unfold State.floorIntake
  split
  · exact h
  · exact h
  · split
    · exact h
    · split
      · exact touched.becomeElect hc
      · exact Kept.proceed (s := (s.touch r).passFloor r) touched _ hc
      · exact touched.proceed _ hc

/-! ## Kinds that come into force (R161) -/

theorem Kept.comeIntoForce (h : Kept b o s) (k : LockKind) (r : Origin) : Kept b o (s.comeIntoForce k r) := by
  cases k with
  | panelHold => exact (h.dropBarredElect _).same (State.freeBarredHolder_gauges _ _)
  | serviceLock => exact (h.dropBarredElect .serviceLock).same (by simp [State.comeIntoForce])
  | roomClosed => exact Kept.lampOff (h.same (s.lampOffEndsDeferral_gauges _))
  | lampLock | thermalLock => exact h

theorem Kept.placeLockout (h : Kept b o s) {l : Lockout} (hl : l.Timed) : Kept b o (s.placeLockout l) := by
  rw [State.placeLockout_eq]
  split
  · exact h.insert hl
  · exact Kept.comeIntoForce (s := State.notify _ _) (h.insert hl) _ _

end

end Sys2Proof.Machine
end

