-- ==== Sys2Proof/Proofs/GaugeCommands.lean ====
section
/-! SUPPORT. The ranges, the keystone limits and the wear state through the end of a switch and of an action, through the schedule, and
through the commands of the ports, whose values intake has brought into range (R14). -/

namespace Sys2Proof.Machine

section
variable {b : Bool} {o : Gauges} {s t : State}

/-! ## The end of a switch (R96 to R99) -/

theorem Kept.payRelock (h : Kept b o s) : Kept b o s.payRelock := by
  unfold State.payRelock
  split
  · split
    · exact h.startSwitch _ _ _
    · exact h
  · exact h

theorem Kept.endSwitchCond (h : Kept b o s) : Kept b o s.endSwitchCond := by
  have cond : Kept b o (s.setEngine { s.engine with switchCond := false }).watchBlank := (h.engine (by rfl)).watchBlank
  unfold State.endSwitchCond
  split
  · exact cond
  · split
    · exact cond
    · exact h

theorem Kept.goIdle (h : Kept true o s) : Kept true o s.goIdle := by
  unfold State.goIdle
  exact (h.engine (by rfl)).chainEnds.payRelock.endSwitchCond

theorem Kept.completeSwitch (h : Kept true o s) (r : SwitchResult) : Kept true o (s.completeSwitch r) := by
  unfold State.completeSwitch
  split
  · exact h
  · rename_i w _
    have ended : Kept true o ((s.notify (switchEnd w.target r.code w.requester)).endRecall w.target) := h.same (State.endRecall_gauges _ _)
    unfold State.nextSwitch
    dsimp only
    split
    · exact ((ended.engine (by rfl)).engine (by rfl)).startSwitch _ _ _
    · exact (ended.engine (by rfl)).goIdle

theorem Kept.endApplying (h : Kept true o s) : Kept true o s.endApplying := by
  unfold State.endApplying State.enterUnmuting
  (repeat' split) <;> first | exact h | exact h.completeSwitch _ | exact (h.engine (by rfl)).watchBlank

theorem Kept.lockFails (h : Kept true o s) : Kept true o s.lockFails := by
  unfold State.lockFails
  split
  · split
    · exact (h.forget _).attempt _ _
    · exact h.completeSwitch _
  all_goals exact h

/-! ## The end of an action, and the power-down (R99, R103, R135) -/

theorem Kept.settle (h : Kept true o s) : Kept true o s.settle := by
  have unmuted : Kept true o s.endUnmuting := by
    unfold State.endUnmuting
    split
    · exact h.completeSwitch _
    · exact h
  unfold State.settle State.takePowerUp State.powerUp
  split
  · exact (unmuted.engine (by rfl)).startSwitch _ _ _
  · exact unmuted

theorem Kept.finish (h : Kept true o s) : Kept true o s.finish := h.settle

theorem Kept.answerPort (h : Kept true o s) (p : Port) (tag code : Byte) (r : Reply) : Kept true o (s.answerPort p tag code r) := h.settle

theorem Kept.powerDown (h : Kept true o s) : Kept true o s.powerDown := by
  have cut : Kept true o s.cutPower := by
    unfold State.cutPower State.dropTables
    exact (((h.engine (by rfl)).geo (by rfl)).clearTiming _).tellAspect _
  have aborted : Kept true o s.cutPower.abortSwitch := by
    unfold State.abortSwitch
    split
    · exact cut
    · rename_i w _
      let u := ((s.cutPower.setEngine { s.cutPower.engine with selected := w.target, inFlight := none }).notify
        (switchEnd w.target SwitchResult.aborted.code w.requester)).abortPending
      have hu : Kept true o u := Kept.same (s := s.cutPower) cut (State.abortPending_gauges _)
      exact Kept.chainEnds (s := (u.setEngine { u.engine with state := .idle, owedRelock := false, switchCond := false }).setRecallNow none)
        hu
  exact aborted.watchBlank

theorem Kept.loseSupply (h : Kept true o s) (supplied : Bool) : Kept true o (s.loseSupply supplied) := by
  unfold State.loseSupply
  split
  · exact h.powerDown
  · exact h

theorem Kept.coolEnds (h : Kept true o s) : Kept true o s.coolEnds := by
  have off : Kept true o s.restInOff :=
    (((h.enterRest (l := .off) (by decide)).loseSupply _).examineThermal).same (State.dropNotice_gauges _ _)
  have fault : Kept true o s.restInFault :=
    (((((h.enterRest (l := .fault) (by decide)).loseSupply _).addLampLock _).checkpoint).examineThermal).same (State.dropNotice_gauges _ _)
  unfold State.coolEnds
  (repeat' split) <;> first | exact h | exact off | exact fault | exact (h.lamp (by rfl) (by rfl)).strike

/-! ## Commands formed inside the part, and the schedule (R6, R146 to R154) -/

theorem Kept.innerIntake (h : Kept b o s) (r : Requester) (c : Cmd) {rest : State → State × Reply} (hr : Kept b o (rest s).1) :
    Kept b o (s.innerIntake r c rest).1 := by
  rw [State.innerIntake_eq]
  split
  · exact h
  · exact hr

theorem Kept.runLampOn (h : Kept true o s) (r : Requester) : Kept true o (s.runLampOn r).1 :=
  Kept.lampOn (h.same (s.touch_gauges r)) r

theorem Kept.runLampOff (h : Kept b o s) (r : Requester) : Kept b o (s.runLampOff r).1 :=
  Kept.lampOff (s := (s.touch r).lampOffEndsDeferral r) (h.same (by simp))

theorem Kept.runLampLevel (h : Kept b o s) (r : Requester) (l : Level) : Kept b o (s.runLampLevel r l).1 :=
  h.same ((State.lampLevel_gauges _ l).trans (s.touch_gauges r))

theorem Kept.innerFloor (h : Kept true o s) {r : Requester} {c : Cmd} (hc : electPairOk (some (r, c)) = true) :
    Kept true o (s.innerFloor r c).1 := h.innerIntake _ _ (h.floorIntake fun _ => hc)

/-- LOCAL's commands (R176). -/
theorem Kept.runLocal (h : Kept true o s) {c : Cmd} (hc : electPairOk (some (.console, c)) = true) : Kept true o (s.runLocal c).1 := by
  unfold State.runLocal
  split
  · exact h.innerIntake _ _ (h.runLampOn _)
  · exact h.innerIntake _ _ (h.runLampOff _)
  · exact h.innerIntake _ _ (h.runLampLevel _ _)
  · exact h.innerFloor hc

theorem Kept.fireDeferral (h : Kept b o s) : Kept b o s.fireDeferral :=
  Kept.innerIntake (s := s.endDeferral 0) (h.same (s.endDeferral_gauges 0)) _ _ (Kept.runLampOff (h.same (s.endDeferral_gauges 0)) _)

theorem Kept.leaveEntry (h : Kept b o s) (old new : Option Effective) : Kept b o (s.leaveEntry old new) := by
  have gone : Kept b o (if removesRecord (kindOf old) (kindOf new) then s.removeLockouts Lockout.ofSchedule else s) := by
    split
    · exact h.removeLockouts _
    · exact h
  have deferred : ∀ (u : State) (e : EntryIdx), Kept b o u → Kept b o (u.startDeferral e) := fun u e hu => by
    unfold State.startDeferral
    dsimp only
    split
    · exact Kept.fireDeferral (s := State.notify _ _) hu
    · exact hu
  unfold State.leaveEntry
  dsimp only
  split
  · split
    · exact deferred _ _ gone
    · exact gone
  · exact gone
  · exact gone

theorem Kept.enterEntry (h : Kept true o s) (e : Effective) (old : Option Effective) : Kept true o (s.enterEntry e old) := by
  have ended : Kept true o (s.endDeferral 2) := h.same (s.endDeferral_gauges 2)
  have booked : ∀ k, Kept true o ((s.endDeferral 2).bookLockout e old k) := fun k => by
    unfold State.bookLockout
    split
    · exact ended.renameSchedule _
    · exact ended.placeLockout (Lockout.timed_of_none rfl)
  have kind : Kept true o ((s.endDeferral 2).bookKind e old) := by
    unfold State.bookKind
    split
    · exact ended
    · exact booked _
    · exact booked _
  have lit : Kept true o (((s.endDeferral 2).bookKind e old).innerLampOn .schedule).1 := kind.innerIntake _ _ (kind.runLampOn _)
  unfold State.enterEntry
  dsimp only
  split
  · exact kind
  · unfold State.bookScene
    split
    · split
      · exact lit
      · exact lit.innerFloor rfl
    · exact lit

theorem Kept.evaluate (h : Kept true o s) : Kept true o s.evaluate := by
  have left : ∀ n x y, Kept true o (((s.setSchedule { s.schedule with remembered := s.effective }).notify n).leaveEntry x y) :=
    fun n x y => Kept.leaveEntry (s := (s.setSchedule { s.schedule with remembered := s.effective }).notify n) h x y
  unfold State.evaluate
  dsimp only
  split
  · exact h
  · split
    · exact (left _ _ _).enterEntry _ _
    · exact left _ _ _

theorem nextWeekday_le {w : Nat} (h : w ≤ 6) : nextWeekday w ≤ 6 := by
  unfold nextWeekday
  split <;> omega

theorem nextWeek_le {w : Nat} (h : w ≤ 60) : nextWeek w ≤ 60 := by
  unfold nextWeek
  split <;> omega

/-- A minute leaves the room clock in its range (R138, R139). -/
theorem Clock.tick_range {c : Clock} (h : c.minute ≤ 1439 ∧ c.weekday ≤ 6 ∧ c.week ≤ 60) :
    c.tick.minute ≤ 1439 ∧ c.tick.weekday ≤ 6 ∧ c.tick.week ≤ 60 := by
  obtain ⟨_, hday, hweek⟩ := h
  have wrapped : (if c.weekday = 6 then nextWeek c.week else c.week) ≤ 60 := by
    split
    · exact nextWeek_le hweek
    · exact hweek
  unfold Clock.tick
  split
  · rename_i hm
    exact ⟨Nat.le_of_lt_succ hm, hday, hweek⟩
  · exact ⟨Nat.zero_le _, nextWeekday_le hday, wrapped⟩

theorem Kept.minuteTick (h : Kept true o s) : Kept true o s.minuteTick := by
  unfold State.minuteTick
  split
  · exact Kept.evaluate (h.ranged rfl id fun r => { r with clock := Clock.tick_range r.clock })
  · exact h

theorem Kept.tickUptime (h : Kept b o s) : Kept b o s.tickUptime := by
  have ticked : Kept b o (s.setUptime (satAdd Config.top32 s.uptime 1)) := h.ranged rfl id fun r => { r with uptime := satAdd_le _ _ _ }
  exact ticked.same (State.examineDeferral_gauges _)

theorem Kept.expireDeferral (h : Kept b o s) : Kept b o s.expireDeferral := by
  unfold State.expireDeferral
  (repeat' split) <;> first | exact h | exact h.fireDeferral

theorem Kept.expireLockouts (h : Kept b o s) : Kept b o s.expireLockouts := by
  unfold State.expireLockouts
  dsimp only
  split
  · exact (h.removeLockouts _).saveLockouts
  · exact h.removeLockouts _

/-! ## The values of a command (R14) -/

/-- What intake's step 7 makes sure of a command's values (R14, R21). -/
def Cmd.Fits : Cmd → Prop
  | .setKeystone _ k => Keystone.inLimits k = true
  | .setInputEnable _ _ role => role ≤ 15
  | .setClock minute weekday week => minute ≤ 1439 ∧ weekday ≤ 6 ∧ week ≤ 60
  | .writeEntry _ f => f.start ≤ 1439 ∧ f.finish ≤ 1440 ∧ f.start < f.finish ∧ sceneFits f.kind f.scene = true
  | .setGrace minutes => minutes ≤ 30
  | .setLockout _ x => ∀ n ∈ x, 1 ≤ n ∧ n ≤ 1440
  | .setRatedLife hours => 500 ≤ hours ∧ hours ≤ 20000 ∧ hours % 100 = 0
  | .setIrRoom room => ∀ k ∈ room, k ≤ 15
  | _ => True

theorem Cmd.Fits.pairOk {c : Cmd} (h : Cmd.Fits c) (r : Requester) : electPairOk (some (r, c)) = true := by
  cases c
  case setKeystone p k => exact h
  all_goals rfl

theorem clampRatedLife_range (n : Nat) : 500 ≤ clampRatedLife n ∧ clampRatedLife n ≤ 20000 ∧ clampRatedLife n % 100 = 0 := by
  unfold clampRatedLife
  omega

theorem sceneFits_some {k : EntryKind} (h : k ≠ .closed) {c : SceneIdx} : sceneFits k (some c) = true := by
  cases k with
  | closed => exact absurd rfl h
  | session | exam => rfl

theorem entryFieldsOf_fits {pl : List Byte} {f : EntryFields} (h : entryFieldsOf pl = some f) :
    f.start ≤ 1439 ∧ f.finish ≤ 1440 ∧ f.start < f.finish ∧ sceneFits f.kind f.scene = true := by
  unfold entryFieldsOf at h
  split at h
  · dsimp only at h
    split at h
    · rename_i ht
      obtain ⟨hstart, _, hfinish, hlt⟩ := ht
      split at h
      · cases h
        exact ⟨hstart, hfinish, hlt, rfl⟩
      · rename_i hk _ _
        cases h
        exact ⟨hstart, hfinish, hlt, sceneFits_some hk⟩
      · cases h
    · cases h
  · cases h

/-- What passes step 7 has its values in range (R14). -/
theorem parseCmd_fits {c : Code} {pl : List Byte} {x : Cmd × Bool} (h : parseCmd c pl = some x) : Cmd.Fits x.1 := by
  obtain ⟨cmd, clamped⟩ := x
  obtain rfl : cmdCode cmd = c := parseCmd_code h
  cases cmd
  case setKeystone p k =>
    obtain ⟨q, _, hq⟩ := Option.map_eq_some_iff.mp h
    cases hq
    exact clampKeystone_inLimits _
  case setInputEnable n e role =>
    simp only [cmdCode, parseCmd] at h
    split at h
    · split at h
      · cases h
        assumption
      · cases h
    · cases h
  case setClock minute weekday week =>
    simp only [cmdCode, parseCmd] at h
    split at h
    · cases h
      assumption
    · cases h
  case writeEntry e f =>
    simp only [cmdCode, parseCmd] at h
    split at h
    · rename_i hf
      cases h
      exact entryFieldsOf_fits hf
    · cases h
  case setGrace n =>
    cases h
    exact Nat.min_le_left _ _
  case setLockout k e =>
    obtain ⟨q, _, hq⟩ := Option.map_eq_some_iff.mp h
    split at hq
    · cases hq
      exact nofun
    · rename_i hz
      cases hq
      rintro n ⟨⟩
      omega
  case setRatedLife n =>
    cases h
    exact clampRatedLife_range _
  case setIrRoom room =>
    obtain ⟨q, hr, hq⟩ := Option.map_eq_some_iff.mp h
    cases hq
    unfold roomOf at hr
    split at hr
    · cases hr
      rintro n ⟨⟩
      assumption
    · split at hr
      · cases hr
        exact nofun
      · cases hr
  all_goals exact trivial

theorem State.checkFrame_fits {r : Requester} {c : Code} {pl : List Byte} {x : Cmd × Bool} (h : s.checkFrame r c pl = .ok x) :
    Cmd.Fits x.1 := by
  unfold State.checkFrame at h
  split at h
  · cases h
  · split at h
    · cases h
    · split at h
      · cases h
      · split at h
        · cases h
        · cases h
          exact parseCmd_fits ‹_›

/-! ## The owners of the commands that are no floor commands -/

theorem ConfigImage.valid_iff (c : ConfigImage) : c.valid = true ↔
    (500 ≤ c.ratedLife ∧ c.ratedLife ≤ 20000 ∧ c.ratedLife % 100 = 0) ∧ c.grace ≤ 30 ∧ ∀ k ∈ c.room, k ≤ 15 := by
  unfold ConfigImage.valid
  cases c.room <;> simp [and_assoc]

theorem Kept.setGrace (h : Kept b o s) {n : Nat} (hn : n ≤ 30) : Kept b o (s.setGrace n) := by
  have changed : Kept b o (s.setSchedule { s.schedule with grace := n }) := by
    refine h.ranged rfl id fun r => ?_
    obtain ⟨hlife, _, hroom⟩ := (ConfigImage.valid_iff _).mp r.config
    exact { r with config := (ConfigImage.valid_iff _).mpr ⟨hlife, hn, hroom⟩ }
  exact changed.same (State.queueRecord_gauges _ _)

theorem Kept.setRoom (h : Kept b o s) {room : Option Nat} (hroom : ∀ k ∈ room, k ≤ 15) : Kept b o (s.setRoom room) := by
  have changed : Kept b o (s.setConsole { s.console with room := room }) := by
    refine h.ranged rfl id fun r => ?_
    obtain ⟨hlife, hgrace, _⟩ := (ConfigImage.valid_iff _).mp r.config
    exact { r with config := (ConfigImage.valid_iff _).mpr ⟨hlife, hgrace, hroom⟩ }
  exact changed.same (State.queueRecord_gauges _ _)

/-- A new rated life moves the ratio, and the thresholds are tested (R70, R71). -/
theorem Kept.setRatedLife (h : Kept b o s) {n : Nat} (hn : 500 ≤ n ∧ n ≤ 20000 ∧ n % 100 = 0) : Kept true o (s.setRatedLife n) := by
  have changed : Kept false o (s.setWear { s.wear with ratedLife := n }) := by
    refine h.charged rfl fun r => ?_
    obtain ⟨_, hgrace, hroom⟩ := (ConfigImage.valid_iff _).mp r.config
    exact { r with config := (ConfigImage.valid_iff _).mpr ⟨hn, hgrace, hroom⟩ }
  exact Kept.testThresholds (changed.same (State.queueRecord_gauges _ _))

theorem Kept.setEnable (h : Kept b o s) (n : InputIdx) (e : Bool) {role : Nat} (hr : role ≤ 15) : Kept b o (s.setEnable n e role) :=
  Kept.same (h.setSource n (c := { s.source n with settings := { (s.source n).settings with enabled := e, role := role } })
    fun hc => ⟨decide_eq_true hr, hc.2⟩) (State.queueRecord_gauges _ _)

theorem Entry.valid_iff (e : Entry) :
    e.valid = true ↔ e.start ≤ 1439 ∧ e.finish ≤ 1440 ∧ e.start < e.finish ∧ sceneFits e.kind e.scene = true := by
  simp [Entry.valid]

theorem Kept.changeEntry (h : Kept true o s) (e : EntryIdx) {c : Entry} (hc : s.schedule.entries[e].valid = true → c.valid = true) :
    Kept true o (s.changeEntry e c) := by
  have changed : Kept true o (s.setSchedule { s.schedule with entries := s.schedule.entries.set e c }) := by
    refine h.ranged rfl id fun r => ?_
    have entry : c.valid = true := hc (getElem_of_forall (p := fun e => Entry.valid e = true) r.entries e.isLt)
    exact { r with entries := forall_mem_set (p := fun e => Entry.valid e = true) r.entries e.isLt entry }
  exact Kept.evaluate (changed.same (State.queueRecord_gauges _ _))

theorem Kept.takeClock (h : Kept true o s) {minute weekday week : Nat} (hc : minute ≤ 1439 ∧ weekday ≤ 6 ∧ week ≤ 60) :
    Kept true o (s.takeClock minute weekday week) :=
  Kept.evaluate (h.ranged rfl id fun r => { r with clock := hc })

theorem Kept.setByHand (h : Kept b o s) (r : Requester) (k : LockKind) {x : Option Nat} (hx : ∀ n ∈ x, 1 ≤ n ∧ n ≤ 1440) :
    Kept b o (s.setByHand r k x) := by
  unfold State.setByHand
  dsimp only
  refine Kept.same ?_ (State.saveIfService_gauges _ k)
  split
  · refine h.lockouts fun hs => List.forall_mem_map.mpr fun l hl => ?_
    unfold renew
    split
    · exact hx
    · exact hs l hl
  · exact h.placeLockout hx

theorem Kept.clearByHand (h : Kept b o s) (r : Requester) (k : LockKind) : Kept b o (s.clearByHand r k).1 := by
  unfold State.clearByHand
  dsimp only
  split
  · exact (h.removeLockouts _).same (State.saveIfService_gauges _ _)
  · exact h.removeLockouts _

theorem Kept.endReplacement (h : Kept b o s) (m : ReplaceMode) : Kept b o (s.endReplacement m) :=
  Kept.checkpoint (s := s.setWear { s.wear with replacement := .toBegin }) h

/-- A new lamp's record is all zero but for the replacements and the reinstatements, which saturate (R78). -/
theorem Kept.replaceNew (h : Kept b o s) (i : Vector Byte 8) : Kept true o (s.replaceNew i) := by
  have renewed : Kept false o (s.setWear { s.wear with record := s.wear.record.renewed i, warnReported := false }) := by
    refine h.charged rfl fun r => ?_
    obtain ⟨_, _, _, _, _, _, _, hrei⟩ := (WearRecord.valid_iff _).mp r.record
    have zero : ∀ {n : Nat}, 0 ≤ n := Nat.zero_le _
    exact { r with record := (WearRecord.valid_iff _).mpr ⟨zero, zero, zero, zero, zero, zero, satAdd_le _ _ _, hrei⟩ }
  exact (renewed.leaveFault.removeLampLock _).testThresholds.endReplacement _

theorem Kept.replaceOld (h : Kept b o s) : Kept b o s.replaceOld := by
  have put : Kept b o (s.setWear { s.wear with record := s.wear.record.reinstated }) := by
    refine h.ranged rfl id fun r => ?_
    obtain ⟨hwu, hlit, hmin, hstr, hdrop, hunc, hrep, _⟩ := (WearRecord.valid_iff _).mp r.record
    exact { r with record := (WearRecord.valid_iff _).mpr ⟨hwu, hlit, hmin, hstr, hdrop, hunc, hrep, satAdd_le _ _ _⟩ }
  exact (put.leaveFault.removeLampLock _).endReplacement _

theorem Kept.askReset (h : Kept b o s) : Kept b o s.askReset := by
  unfold State.askReset
  split
  · exact h
  · exact Kept.checkpoint (s := s.setResetWait _) h

/-! ## Commands of a port -/

/-- The owner's action on a command with its values in range. -/
theorem Kept.act (h : Kept true o s) (p : Port) {c : Cmd} (hc : Cmd.Fits c) : Kept true o (s.act p c).1 := by
  cases c
  case lampOn => exact h.runLampOn _
  case lampOff => exact h.runLampOff _
  case setLampLevel l => exact h.runLampLevel _ _
  case releaseFloor => exact h.releaseBy _
  case openTrial q k => exact h.openTrial q k
  case commitTrial q => exact h.commitTrial q
  case discardTrial q => exact h.discardTrial q
  case storeScene k => exact h.same (State.queueRecord_gauges (s.setScenes _) _)
  case setSourceAspect n a => exact h.setAspect n a
  case setInputEnable n e role => exact h.setEnable n e hc
  case setClock minute weekday week => exact h.takeClock hc
  case writeEntry e f => exact h.changeEntry e fun _ => (Entry.valid_iff _).mpr hc
  case eraseEntry e => exact h.changeEntry e fun _ => rfl
  case protectEntry e f => exact h.changeEntry e id
  case setGrace n => exact h.setGrace hc
  case setLockout k x => exact h.setByHand _ k hc
  case clearLockout k => exact h.clearByHand _ k
  case replaceLamp m i =>
    cases m with
    | new => exact h.replaceNew i
    | reinstate => exact h.replaceOld
  case writeAuthority row c => exact h.same (State.queueRecord_gauges (s.setAuthority _) _)
  case clearStoreFault => exact h.same s.clearFault_gauges
  case setRatedLife n => exact h.setRatedLife hc
  case setIrRoom room => exact h.setRoom hc
  case controllerReset => exact h.askReset
  case selectInput | recallScene | setMute | clearMute | selectProfile | setKeystone | nudgeKeystone | holdFloor =>
    exact h.ownerActs fun _ => hc.pairOk (portRequester p)
  all_goals exact h

theorem Kept.accept (h : Kept true o s) (p : Port) {c : Cmd} (hc : Cmd.Fits c) : Kept true o (s.accept p c).1 := by
  unfold State.accept
  split
  · exact h.floorIntake fun _ => hc.pairOk _
  · split
    · exact h
    · exact h.act p hc

theorem Kept.intakeFrame (h : Kept true o s) (p : Port) (c : Code) (pl : List Byte) : Kept true o (s.intakeFrame p c pl).1 := by
  unfold State.intakeFrame
  split
  · exact h
  · split
    · exact h
    · split
      · exact h
      · exact h.accept p (State.checkFrame_fits ‹_›)

theorem Kept.takeCommand (h : Kept true o s) (c : Code) (p : Port) : Kept true o (takeCommand c p s) := by
  unfold Machine.takeCommand
  split
  · split
    · exact (Kept.intakeFrame (s := s.popInbox p) h p c _).answerPort _ _ _ _
    · exact h
  all_goals exact h

end

end Sys2Proof.Machine
end

