-- ==== Sys2Proof/Proofs/FieldsKept.lean ====
section
/-! SUPPORT. The ranges, the keystone limits and the wear state through the rows of the console, the scaler and the resets, and so through
every step (R66, R67, R70, R71, R83, R91, R106, R109, R126, R138, R141, R142, R152, R158, R175, R182). -/

namespace Sys2Proof.Machine

section
variable {b : Bool} {o : Gauges} {s t : State}

/-! ## The console's rows -/

theorem State.keyCommand_pairOk {s : State} {k : Key} {c : Cmd} (h : s.keyCommand k = some c) (r : Requester) :
    electPairOk (some (r, c)) = true := by
  cases k with
  | power | mute =>
    injection h with h
    rw [← h]
    split <;> rfl
  | source =>
    obtain ⟨n, _, rfl⟩ := Option.map_eq_some_iff.mp h
    rfl
  | eco | normal | input n =>
    injection h with h
    rw [← h]
    rfl

theorem Kept.takeKey (h : Kept true o s) (k : Key) : Kept true o (s.takeKey k) := by
  unfold State.takeKey
  split
  · exact h
  · rename_i c hc
    have ran : Kept true o ((s.setRaised []).runLocal c).1 := Kept.runLocal (s := s.setRaised []) h (State.keyCommand_pairOk hc _)
    exact Kept.settle (s := ((s.setRaised []).runLocal c).1.setRaised _) ran

theorem Kept.sample (h : Kept true o s) (v : Byte) : Kept true o (s.sample v) := by
  have console : ∀ x, Kept true o (s.setConsole { s.console with keypad := x }) := fun _ => h
  unfold State.sample
  dsimp only
  split
  · exact (console _).takeKey _
  · exact console _

theorem Kept.takeElement (h : Kept true o s) (e : IrElement) : Kept true o (s.takeElement e) := by
  have console : ∀ x, Kept true o (s.setConsole { s.console with ir := x }) := fun _ => h
  unfold State.takeElement State.takeFrame
  dsimp only
  (repeat' split) <;> first | exact (console _).takeKey _ | exact console _

theorem Kept.takeElements (h : Kept true o s) (l : List IrElement) : Kept true o (s.takeElements l) := by
  induction l generalizing s with
  | nil => exact h
  | cons e l ih => exact ih (h.takeElement e)

/-! ## The scaler's rows -/

theorem Kept.sigRises (h : Kept b o s) (n : InputIdx) : Kept b o (s.sigRises n) := by
  have present : Kept b o (s.setSource n { s.source n with present := true }) := h.setSource n id
  have told : Kept b o (((s.setSource n { s.source n with present := true }).notify (presenceNotice n true)).watchBlank) :=
    Kept.watchBlank (s := State.notify _ _) present
  unfold State.sigRises
  dsimp only
  split
  · split
    · exact (told.forget n).wantRelock
    · exact told.wantRelock
  · exact told

theorem Kept.sigFalls (h : Kept b o s) (n : InputIdx) : Kept b o (s.sigFalls n) := by
  have gone : Kept b o (s.setSource n { s.source n with present := false, timing := none, remembered := none }) :=
    h.setSource n fun hc => ⟨hc.1, nofun, nofun⟩
  exact (Kept.tellAspect (s := (s.setSource n _).notify (presenceNotice n false)) gone _).watchBlank

theorem Kept.timingChanges (h : Kept b o s) : Kept b o s.timingChanges := by
  unfold State.timingChanges
  split
  · exact (((h.forget _).clearTiming _).tellAspect _).watchBlank.wantRelock
  · exact h

theorem Kept.blankAnswered (h : Kept b o s) (k : BlankKind) (n : Nat) (x : BlankRecord) : Kept b o (s.blankAnswered k n x) := by
  unfold State.blankAnswered
  split
  · exact (h.engine (by rfl)).compareBlank.endMuting
  · exact h

theorem Kept.blankLost (h : Kept true o s) (n : Nat) : Kept true o (s.blankLost n) := by
  have lost : ∀ r : BlankRequest, Kept true o ((s.setEngine { s.engine with blankReq := none, blank := .unknown }).notify
      (noAnswer (blankKindCode r.kind) 0)) := fun _ => h.engine rfl
  unfold State.blankLost
  split
  · exact h
  · split
    · exact h
    · dsimp only
      split
      · exact (lost _).completeSwitch _
      · exact lost _

/-- A timing is recorded when it is in range alone (R96). -/
theorem Kept.lockAnswered (h : Kept true o s) (t : Timing) : Kept true o (s.lockAnswered t) := by
  unfold State.lockAnswered
  split
  · rename_i w _ _
    split
    · rename_i ht
      have locked : Kept true o (s.setSource w.target { s.source w.target with timing := some t, remembered := some t }) :=
        h.setSource _ fun hc => ⟨hc.1, by rintro x ⟨⟩; exact ht.1, by rintro x ⟨⟩; exact ht.1⟩
      exact (locked.enterApplying w).watchBlank
    · exact h.lockFails
  all_goals exact h

theorem Kept.windowEnds (h : Kept true o s) (n : Nat) : Kept true o (s.windowEnds n) := by
  unfold State.windowEnds
  (repeat' split) <;> first | exact h | exact h.lockFails

theorem Kept.limitEnds (h : Kept true o s) (n : Nat) : Kept true o (s.limitEnds n) := by
  unfold State.limitEnds
  (repeat' split) <;> first | exact h | exact h.completeSwitch _

theorem Kept.tableAnswered (h : Kept true o s) (n q : Nat) : Kept true o (s.tableAnswered n q) := by
  unfold State.tableAnswered
  (repeat' split) <;> first | exact h | exact (h.tableApplied _).endApplying

theorem Kept.tableLate (h : Kept true o s) (n : Nat) : Kept true o (s.tableLate n) := by
  have lost : ∀ x : Transfer, Kept true o (s.tableLost x) := fun _ => h.geo rfl
  unfold State.tableLate
  (repeat' split)
  · exact h
  · exact (lost _).completeSwitch _
  · exact lost _
  · exact h

/-! ## The resets: what the store's records and the factory values give (R182) -/

/-- A start takes a record's content when it passes its owner's check alone (R182). -/
theorem Memory.take_of {α : Type} {m : Memory} {r : RecordId} {p : α → Prop} {content factory : α}
    (hc : m.contentOk r = true → p content) (hf : p factory) : p (m.take r content factory) := by
  unfold Memory.take
  split
  · rename_i h
    exact hc ((Bool.and_eq_true_iff.mp h).2)
  · exact hf

theorem forall_mem_ofFn {α : Type} {n : Nat} {f : Fin n → α} {p : α → Prop} (h : ∀ i, p (f i)) :
    ∀ x ∈ (Vector.ofFn f).toList, p x := by
  rw [Vector.toList_ofFn]
  exact List.forall_mem_ofFn_iff.mpr h

theorem LockImage.restored_timed {l : LockImage} (h : l.valid = true) : l.restored.Timed := by
  have fits : expiryFits l.expiry = true := by
    unfold LockImage.valid at h
    rcases Bool.or_eq_true_iff.mp h with h | h
    · exact (Bool.and_eq_true_iff.mp h).2
    · rw [eq_of_beq (Bool.and_eq_true_iff.mp h).2]
      rfl
  intro x hx
  rw [show l.expiry = some x from hx] at fits
  exact of_decide_eq_true fits

theorem restored_timed {images : List LockImage} (hi : ∀ l ∈ images, l.valid = true) {set : List Lockout} (hs : ∀ l ∈ set, l.Timed) :
    ∀ l ∈ images.foldl (fun set l => insertLockout l.restored set) set, l.Timed := by
  induction images generalizing set with
  | nil => exact hs
  | cons l images ih =>
    obtain ⟨hl, hi⟩ := List.forall_mem_cons.mp hi
    exact ih hi (forall_mem_insertLockout (LockImage.restored_timed hl) hs)

/-- The lockout records a start restores have the expiries that the owner's check lets pass (R158, R169, R182). -/
theorem Memory.loadLockouts_timed (m : Memory) : ∀ l ∈ m.loadLockouts, l.Timed := by
  refine restored_timed (Memory.take_of (p := fun images => ∀ l ∈ images, LockImage.valid l = true) (fun hc => ?_)
    (List.forall_mem_nil _)) (List.forall_mem_nil _)
  have checked : lockImagesValid m.lockouts = true := hc
  unfold lockImagesValid at checked
  exact List.all_eq_true.mp (Bool.and_eq_true_iff.mp (Bool.and_eq_true_iff.mp checked).1).1

theorem State.load_fitted (s : State) (sig : Vector Bool 6) : (s.load sig).gauges.pairs.Fitted where
  stored := forall_mem_ofFn (p := fun k => Keystone.inLimits k = true) fun p =>
    Memory.take_of (r := .profile p) (p := fun k => Keystone.inLimits k = true) id (by decide)
  slots := show ∀ x ∈ (Vector.replicate 2 none).toList, trialOk x = true by decide
  elect := rfl

/-- Every count a start begins with is in its range; the room clock is the one found (R138, R182). -/
theorem State.load_inRange {s : State} (h : s.gauges.counts.InRange) (sig : Vector Bool 6) : (s.load sig).gauges.counts.InRange where
  record := Memory.take_of (r := .wear) (p := fun r => WearRecord.valid r = true) id (by decide)
  since := Nat.zero_lt_succ 14
  config := Memory.take_of (r := .config) (p := fun c => ConfigImage.valid c = true) id (by decide)
  sources := forall_mem_ofFn fun n =>
    ⟨Memory.take_of (r := .source n) (p := fun c => SourceSettings.valid c = true) id (by decide), nofun, nofun⟩
  link := show 1 ≤ 1 ∧ 1 ≤ 255 by decide
  seq := Nat.zero_le _
  clock := h.clock
  uptime := Nat.zero_le _
  entries := forall_mem_ofFn (p := fun e => Entry.valid e = true) fun e =>
    Memory.take_of (r := .entry e) (p := fun e => Entry.valid e = true) id (by decide)
  attempts := Nat.zero_le _
  pausing := nofun
  lockouts := s.memory.loadLockouts_timed

theorem Kept.load (h : Kept b o s) (sig : Vector Bool 6) : Kept false o (s.load sig) :=
  ⟨fun _ => s.load_fitted sig, fun ho => State.load_inRange (h.ranges ho) sig, nofun⟩

/-! ## The resets: the start (R65, R81, R156) -/

theorem Kept.startBand (h : Kept b o s) : Kept true o s.startBand := ⟨h.pairs, h.ranges, fun _ _ => rfl⟩

theorem Kept.startExpired (h : Kept b o s) : Kept b o s.startExpired := by
  unfold State.startExpired
  split
  · exact h.addLampLock .expired
  · exact h

theorem Kept.startLamp (h : Kept b o s) : Kept b o s.startLamp := by
  have leveled : Kept b o (s.setLamp { s.lamp with level := startLevel s.wear.band }) := h.lamp rfl rfl
  have cooled : ∀ u : State, Kept b o u → Kept b o u.startCooling := fun u hu => by
    unfold State.startCooling
    dsimp only
    split
    · exact ((hu.bookUnclean.lamp (by rfl) (by rfl)).enterLamp (by decide)).bookCooldown
    · exact ((hu.lamp (by rfl) (by rfl)).enterLamp (by decide)).bookCooldown
  rw [State.startLamp_level]
  dsimp only
  split
  · exact cooled _ leveled
  · split
    · exact leveled.enterLamp (by decide)
    · exact leveled.enterLamp (by decide)

theorem Kept.start (h : Kept b o s) (sig : Vector Bool 6) : Kept true o (s.start sig) := by
  have kicked : Kept false o (s.load sig).kick.startTable := Kept.geo (s := (s.load sig).kick) ((h.load sig).same (State.kick_gauges _)) rfl
  have noticed : Kept true o (s.load sig).kick.startTable.startBand.startExpired.startNotices :=
    kicked.startBand.startExpired.same (State.startNotices_gauges _)
  have hot : ∀ u : State, Kept true o u → Kept true o u.startHeat := fun u hu => by
    unfold State.startHeat
    split
    · exact hu.heat
    · exact hu
  exact (hot _ noticed.startLamp).evaluate.finish

theorem Kept.controllerReset (h : Kept b o s) : Kept true o s.controllerReset :=
  Kept.start (s := s.setPorts (s.ports.each fun b => .cleared b.rate)) h _

/-- A power-on reset, at which the room clock is unset (R138). -/
theorem Kept.powerOn (h : Kept b o s) (x : PowerOn) : Kept true o (s.powerOn x) := by
  have unset : Kept b o (s.setClock s.clock.unset) :=
    h.ranged rfl id fun r => { r with clock := show 0 ≤ 1439 ∧ 0 ≤ 6 ∧ 0 ≤ 60 by decide }
  unfold State.powerOn
  exact Kept.start (s := State.setMemory _ _) unset _

end

/-! ## Every row -/

/-- Every row answers a next state, with the gauges kept. -/
theorem exec_kept (c : Instr) (s : State) : ∃ t, exec c s = .next t ∧ Kept true s.gauges t := by
  have h := Kept.refl s
  have ite : ∀ {p : Prop} [Decidable p] {a b : State}, Kept true s.gauges a → Kept true s.gauges b →
      Kept true s.gauges (if p then a else b) := by
    intro p _ a b ha hb
    split
    · exact ha
    · exact hb
  have ends : ∀ {x : State}, x.gauges = s.gauges → Kept true s.gauges x.finish := fun hx => (h.same hx).finish
  cases c
  case frameReceive | frameGapTimeout | frameStopBitError | frameLenOver48 | outboundFrameSent => exact ⟨_, rfl, h⟩
  case lineReturnsToMark p => exact ⟨_, rfl, ite h h⟩
  case badFrameEntry p =>
    refine ⟨_, rfl, ?_⟩
    unfold takeBadFrame
    split
    · exact ite (Kept.answerPort (s := s.popInbox p) h _ _ _ _) h
    all_goals exact h
  case unknownCommand p =>
    refine ⟨_, rfl, ?_⟩
    unfold takeUnknown
    split
    · exact ite (Kept.answerPort (s := s.popInbox p) h _ _ _ _) h
    all_goals exact h
  case portReset p => exact ⟨_, rfl, (Kept.loseStanding (s := s.setPort p _) h _).finish⟩
  case powerOnReset x => exact ⟨_, rfl, h.powerOn x⟩
  case resetN => exact ⟨_, rfl, h.controllerReset⟩
  case controllerResetBegin => exact ⟨_, rfl, ite h.controllerReset h⟩
  case lampSenseRise => exact ⟨_, rfl, ite h (Kept.senseRise (s := s.setSense true) h).finish⟩
  case dropOut => exact ⟨_, rfl, ite (Kept.senseFall (s := s.setSense false) h).finish h⟩
  case overheat => exact ⟨_, rfl, ite h (Kept.heat (s := s.setHot true) h).finish⟩
  case thermHotDeassert => exact ⟨_, rfl, ite (Kept.examineThermal (s := s.setHot false) h).finish h⟩
  case strikeWindowExpiry n => exact ⟨_, rfl, ite h.strikeFails.finish h⟩
  case retryPauseEnd n => exact ⟨_, rfl, ite h.retryEnds.finish h⟩
  case warmupEnd n => exact ⟨_, rfl, ite h.warmupEnds.finish h⟩
  case cooldownEnd n => exact ⟨_, rfl, ite h.coolEnds.finish h⟩
  case litSecond => exact ⟨_, rfl, h.litSecond.finish⟩
  case sigRise n => exact ⟨_, rfl, ite h (h.sigRises n).finish⟩
  case sigFall n => exact ⟨_, rfl, ite (h.sigFalls n).finish h⟩
  case blanked m =>
    refine ⟨_, rfl, ?_⟩
    split
    · exact (h.blankAnswered _ _ _).finish
    · exact h
  case unblanked m =>
    refine ⟨_, rfl, ?_⟩
    split
    · exact (h.blankAnswered _ _ _).finish
    · exact h
  case locked m =>
    refine ⟨_, rfl, ?_⟩
    split
    · exact ite (h.lockAnswered _).finish h
    · exact h
  case lockFailed m =>
    refine ⟨_, rfl, ?_⟩
    split
    · exact ite h.lockFails.finish h
    · exact h
  case applied m =>
    refine ⟨_, rfl, ?_⟩
    split
    · exact (h.tableAnswered _ _).finish
    · exact h
  case timingChanged m =>
    refine ⟨_, rfl, ?_⟩
    split
    · exact ite h.timingChanges.finish h
    · exact h
  case lockWindowExpiry n => exact ⟨_, rfl, (h.windowEnds n).finish⟩
  case overallLockLimitExpiry n => exact ⟨_, rfl, (h.limitEnds n).finish⟩
  case blankRequestTimeout n => exact ⟨_, rfl, (h.blankLost n).finish⟩
  case tableTimeout n => exact ⟨_, rfl, (h.tableLate n).finish⟩
  case clockMinuteTick n => exact ⟨_, rfl, ite h.minuteTick.finish h⟩
  case uptimeTick => exact ⟨_, rfl, h.tickUptime.finish⟩
  case deferralExpiry => exact ⟨_, rfl, h.expireDeferral.finish⟩
  case lockoutExpiry => exact ⟨_, rfl, h.expireLockouts.finish⟩
  case storeWriteComplete n => exact ⟨_, rfl, ite (ends s.completeWrite_gauges) h⟩
  case storeWriteTimeout n => exact ⟨_, rfl, ite (ends s.failWrite_gauges) h⟩
  case keypadSample v => exact ⟨_, rfl, (h.sample v).finish⟩
  case irFrame l | irFrameDiscard l => exact ⟨_, rfl, (h.takeElements l).finish⟩
  case irIdleGap => exact ⟨_, rfl, (h.takeElement _).finish⟩
  all_goals exact ⟨_, rfl, h.takeCommand _ _⟩

/-- Every step keeps the gauges. -/
theorem step_kept {s t : State} (h : step s = .next t) : Kept true s.gauges t := by
  unfold step at h
  split at h
  · rename_i c rest _
    obtain ⟨t', ht, hk⟩ := exec_kept c (s.setPending rest)
    rw [ht] at h
    cases h
    exact hk
  · cases h
    exact Kept.refl s

end Sys2Proof.Machine

open Sys2Proof Sys2Proof.Machine

/-- Settles O5: a step keeps the pairs within their limits, and apart from that the counts in their ranges. -/
theorem fieldsKept : Obligations.FieldsKept := by
  unfold Obligations.FieldsKept
  intro s t hstep
  have kept := step_kept hstep
  exact ⟨fun h => (pairsSound_iff t).mpr (kept.pairs ((pairsSound_iff s).mp h)),
    fun h => (rangesSound_iff t).mpr (kept.ranges ((rangesSound_iff s).mp h))⟩

/-- Settles O6: every change of the WU or of the rated life is followed by the test of the thresholds, within its step. -/
theorem wearStateKept : Obligations.WearStateKept := by
  unfold Obligations.WearStateKept
  intro s t h hstep
  exact (bandSound_iff t).mpr ((step_kept hstep).band rfl ((bandSound_iff s).mp h))
end

