-- ==== Sys2Proof/Proofs/LitSecond.lean ====
section
/-! SUPPORT. The lit second: the minute it completes, the checkpoint at the fifteenth, and what the charge does to the wear state
(R68, R71 to R74, R76). -/

namespace Sys2Proof.Machine

/-- The wear record once a lit minute at a level is booked (R68). -/
def WearRecord.minuted (r : WearRecord) (l : Level) : WearRecord :=
  { r with lit := 0, wu := min 4294967295 (r.wu + minuteCharge l), realMinutes := min 4294967295 (r.realMinutes + 1) }

/-- s once a lit minute is booked, not yet counted towards a checkpoint (R68). -/
def State.minuteBooked (s : State) : State := s.setRecord (s.wear.record.minuted s.lamp.level)

/-- s once a lit minute is counted towards a checkpoint, or has made up its fifteen (R76). -/
def State.minuteCounted (s : State) : State :=
  s.setWear { s.wear with sinceCheckpoint := if s.wear.sinceCheckpoint = 14 then 0 else s.wear.sinceCheckpoint + 1 }

/-! ## The row's cases -/

theorem State.litSecond_stopped {s : State} (h : s.wear.running = false) : s.litSecond = s := by
  unfold State.litSecond
  rw [if_pos (by rw [h]; rfl)]

theorem State.litSecond_running {s : State} (h : s.wear.running = true) : s.litSecond =
    if s.wear.record.lit + 1 < 60 then s.setRecord { s.wear.record with lit := s.wear.record.lit + 1 } else s.litMinute := by
  unfold State.litSecond
  rw [if_neg (by rw [h]; decide)]

theorem State.litMinute_eq (s : State) : s.litMinute = s.minuteBooked.countMinute.testThresholds := rfl

/-! ## The minute's count (R76) -/

theorem State.countMinute_counts {s : State} (h : s.wear.sinceCheckpoint ≠ 14) : s.countMinute = s.minuteCounted := by
  have hne : s.wear.sinceCheckpoint + 1 ≠ Config.checkpointMinutes := fun e => h (Nat.succ.inj e)
  unfold State.countMinute State.minuteCounted
  rw [if_neg hne, if_neg h]

theorem State.countMinute_saves {s : State} (h : s.wear.sinceCheckpoint = 14) : s.countMinute = s.checkpoint :=
  if_pos (congrArg (· + 1) h)

/-- The fifteenth minute's checkpoint is all that lies beyond the count itself, and leaves the store busy (R76, R77). -/
theorem State.countMinute_onlySaved (s : State) :
    OnlySaved s.minuteCounted s.countMinute ∧ (s.countMinute.store.Busy ∨ SameWaits s.minuteCounted s.countMinute) := by
  by_cases h : s.wear.sinceCheckpoint = 14
  · have zeroed : s.minuteCounted = s.setWear { s.wear with sinceCheckpoint := 0 } := by
      unfold State.minuteCounted
      rw [if_pos h]
    rw [State.countMinute_saves h, zeroed]
    exact ⟨s.checkpoint_onlySaved, .inl s.checkpoint_busy_after⟩
  · rw [State.countMinute_counts h]
    exact ⟨.refl _, .inr ⟨rfl, rfl, rfl⟩⟩

/-! ## The minute (R68, R71) -/

theorem State.litMinute_onlySaved (s : State) : OnlySaved s.minuteBooked.minuteCounted.rebandedRaised s.litMinute
    ∧ (s.minuteBooked.minuteCounted.newlyExpired = true → LockoutsSaving s.litMinute) :=
  s.minuteBooked.countMinute_onlySaved.1.testThresholds s.minuteBooked.countMinute_onlySaved.2

theorem State.litMinute_ports (s : State) : s.litMinute.ports = s.ports := s.litMinute_onlySaved.1.read State.ports fun _ _ _ _ => rfl

theorem State.litMinute_imaged {s : State} (h : s.wear.sinceCheckpoint = 14) :
    Imaged s.litMinute (s.wear.record.minuted s.lamp.level) := by
  rw [State.litMinute_eq, State.countMinute_saves (s := s.minuteBooked) h]
  exact State.testThresholds_imaged s.minuteBooked.checkpoint_busy_after s.minuteBooked.checkpoint_imaged

/-- A completed minute books its charge, with the notices of a new wear state to tell. -/
theorem Quiet.litMinute {s : State} (hq : Quiet s) :
    s.litMinute.TellingSaved s.minuteBooked.minuteCounted.rebanded s.minuteBooked.minuteCounted.bandNotices := by
  have hband := s.litMinute_onlySaved.1
  rw [State.rebandedRaised, show s.minuteBooked.minuteCounted.raised = [] from hq.1, List.nil_append] at hband
  exact ⟨hq.1, s.ports, hband⟩

/-- A minute that takes no checkpoint and locks no lamp asks nothing of the store. -/
theorem Quiet.litMinute_exact {s : State} (hq : Quiet s) (hs : s.wear.sinceCheckpoint ≠ 14)
    (hn : s.minuteBooked.minuteCounted.newlyExpired = false) :
    s.litMinute.Telling s.minuteBooked.minuteCounted.rebanded s.minuteBooked.minuteCounted.bandNotices := by
  refine ⟨hq.1, s.ports, ?_⟩
  rw [State.litMinute_eq, State.countMinute_counts (s := s.minuteBooked) hs, State.testThresholds_eq, if_neg (by simp [hn]),
    State.rebandedRaised, show s.minuteBooked.minuteCounted.raised = [] from hq.1, List.nil_append]
  rfl

end Sys2Proof.Machine

open Sys2Proof Sys2Proof.Machine

/-- Settles O52: a second short of the minute moves the remainder alone; the sixtieth books the minute, and the test of the thresholds
follows the count towards the checkpoint. -/
theorem litSecondCounts : Obligations.LitSecondCounts := by
  unfold Obligations.LitSecondCounts
  intro s hq
  refine ⟨fun hstop => ?_, fun hrun => ⟨fun hlit => ?_, fun hlit => ?_⟩⟩
  · change Host.Outcome.next s.litSecond.finish = _
    rw [State.litSecond_stopped hstop, State.finish_of_quiet hq]
  · change Host.Outcome.next s.litSecond.finish = _
    rw [State.litSecond_running hrun, if_pos hlit]
    exact congrArg Host.Outcome.next (State.finish_of_quiet (s := s.setRecord _) hq)
  · have hexec : exec .litSecond s = .next s.litMinute.finish := by
      change Host.Outcome.next s.litSecond.finish = _
      rw [State.litSecond_running hrun, if_neg (by rw [hlit]; decide)]
    rw [hexec]
    refine ⟨fun hs hn => ?_, ?_⟩
    · rw [hq.finishes (hq.litMinute_exact hs hn) rfl rfl s.litMinute_ports]
      rfl
    · have hstill : s.minuteBooked.minuteCounted.rebanded.Still := hq.settled.still.congr rfl rfl
      have hclosed := hq.litMinute.closed hstill s.ports.offerAll
      refine ⟨_, rfl, ?_⟩
      rw [State.finish_closed s.litMinute_ports]
      rw [hq.litMinute.closed_eq hstill] at hclosed ⊢
      exact ⟨⟨hclosed, s.litMinute_onlySaved.2⟩, State.litMinute_imaged⟩
end
